-- ==== Sys2Proof/Word.lean ====
section
/-! DEFINITION. The word types of the machine and the plainest arithmetic on bit fields. -/

namespace Sys2Proof

/-- A 64-bit scalar register or address (01_strand_state.md R10). -/
abbrev Word := BitVec 64

/-- One byte of memory (00_scope.md R3). -/
abbrev Byte := BitVec 8

/-- Bits `k + n - 1 : k` of `w`. -/
def field (w k n : Nat) : Nat := w / 2 ^ k % 2 ^ n

/-- Bit `k` of `w`. -/
def bitAt (w k : Nat) : Bool := field w k 1 == 1

/-- The two's complement value of the low `n` bits of `w`. -/
def signedOf (w n : Nat) : Int :=
  let v := w % 2 ^ n
  if v < 2 ^ (n - 1) then (v : Int) else (v : Int) - (2 ^ n : Nat)

/-- The `n`-bit pattern of the integer `x`, that is, `x` reduced modulo `2 ^ n`. -/
def wrapTo (n : Nat) (x : Int) : Nat := (x % (2 ^ n : Nat)).toNat

/-- The value 1 for true and 0 for false. -/
def boolNat (b : Bool) : Nat := if b then 1 else 0

end Sys2Proof
end

