-- ==== Sys2Proof/Syntax.lean ====
section
/-! DEFINITION. The instructions of the machine, one constructor of `Instr` per row of the opcode table: 191 instruction
words (03_encoding_and_assembly.md R60) and 123 steps of the other agents (95_what_each_step_holds.md). -/

namespace Sys2Proof

/-! ## Codes of the enumerated fields -/

/-- The guard of an instruction: a predicate register and its negation (03 R55, R59). -/
structure Guard where
  reg : Nat
  neg : Bool
  deriving DecidableEq, Repr

/-- Address spaces of the SP field (05 R91). -/
inductive Space
  | g | l | q | d
  deriving DecidableEq, Repr

/-- Access sizes of the SZ field (03 R56). -/
inductive MemSize
  | b | h | w | d | qd | sec
  deriving DecidableEq, Repr

/-- Ordering codes of LD, ST, ATOM and CAS (05 R99). -/
inductive Order
  | plain | acq | rel | sc
  deriving DecidableEq, Repr

/-- Scopes of LDA, STREL and FENCE (05 R101). -/
inductive Scope
  | strand | core | quad | die | pkg | pod
  deriving DecidableEq, Repr

/-- Operations of ATOM (05 R103). -/
inductive AtomOp
  | swap | add | and | or | smin | smax | umin | umax
  deriving DecidableEq, Repr

/-- Kinds of FENCE (05 R105). -/
inductive FenceKind
  | full | acq | rel
  deriving DecidableEq, Repr

/-- Integer conditions (04 R75). -/
inductive IntCond
  | eq | ne | lt | ge | ltu | geu
  deriving DecidableEq, Repr

/-- Floating-point conditions (04 R79). -/
inductive FpCond
  | eq | lt | le | un | ne
  deriving DecidableEq, Repr

/-- How a comparison combines with the old predicate (04 R75). -/
inductive Comb
  | set | and | or
  deriving DecidableEq, Repr

/-- Scalar floating-point formats of the FMT field (04 R76). -/
inductive FpFmt
  | f64 | f32 | bf16 | f16
  deriving DecidableEq, Repr

/-- Rounding codes of the RND field (04 R76). -/
inductive Rnd
  | dyn | rne | rtz | rdn | rup | rna
  deriving DecidableEq, Repr

/-- Type codes of FCVT and VFCVT (04 R80). -/
inductive CvtType
  | f64 | f32 | bf16 | f16 | e4m3 | e5m2 | i32 | i8
  deriving DecidableEq, Repr

/-- Forms of FMA and VFMA (04 R77). -/
inductive FmaKind
  | none | sub | nadd | nsub
  deriving DecidableEq, Repr

/-- Forms of FSGN and VFSGN (04 R78). -/
inductive SgnKind
  | cp | neg | xor
  deriving DecidableEq, Repr

/-- Operations of LOGI (04 R74). -/
inductive LogicOp
  | and | or | xor
  deriving DecidableEq, Repr

/-- Operations of SHI (04 R74). -/
inductive ShiftOp
  | shl | shr | sra | ror
  deriving DecidableEq, Repr

/-- Operations of PLOG (04 R82). -/
inductive PredOp
  | and | or | xor | andn | orn | nand | nor | xnor
  deriving DecidableEq, Repr

/-- Modes of PSET (04 R82). -/
inductive PsetMode
  | all | none | first
  deriving DecidableEq, Repr

/-- Forms of PMOV (04 R82). -/
inductive PmovKind
  | pp | sp | ps
  deriving DecidableEq, Repr

/-- Branch hints (04 R83); they never change a result (R85). -/
inductive Hint
  | none | likely | unlikely
  deriving DecidableEq, Repr

/-- Forms of VNARROW (06 R126). -/
inductive NarrowKind
  | trunc | ssat | usat
  deriving DecidableEq, Repr

/-- Element kinds of VREDMAX, VREDMIN and VARGMAX (06 R135). -/
inductive ElemKind
  | s | u | f
  deriving DecidableEq, Repr

/-- Fields of a tile descriptor (01 R17). -/
inductive TdField
  | base | spfmt | rows | cols | stride | scalebase | device
  deriving DecidableEq, Repr

/-- Modes of MMA (03 R56). -/
inductive MmaMode
  | acc | ovw | acn
  deriving DecidableEq, Repr

/-- Element formats with a code (02 R30, R42, R44). -/
inductive ElemFmt
  | fp32 | bf16 | fp16 | e4m3 | e5m2 | mxfp8 | mxfp8e5 | int8 | int32 | vq2x
  deriving DecidableEq, Repr

/-- Forms of KSET (07 R152). -/
inductive KsetMode
  | raw | uni | addr (sp : Space)
  deriving DecidableEq, Repr

/-- Paths of CDRAIN (09 R188). -/
inductive DrainPath
  | all | spad | glob | pod
  deriving DecidableEq, Repr

/-- Selections of CHSTAT (10 R205). -/
inductive ChstatSel
  | item | inp (n : Nat) | cfg
  deriving DecidableEq, Repr

/-- Registers of an estimator in SEL order (12 R225). -/
inductive EstReg
  | n | mean | m2 | status | pos | disc | issued | tol | z | nmin | seed | dom
  deriving DecidableEq, Repr

/-- Parameters of SPTOL (12 R232). -/
inductive EstParam
  | tol | z | nmin
  deriving DecidableEq, Repr

/-! ## Operand shapes shared by several instructions -/

/-- Two-source scalar integer instructions (04 R70). -/
structure AluForm where
  g : Guard
  d : Nat
  a : Nat
  b : Nat
  w : Bool
  u : Bool
  sat : Bool
  deriving DecidableEq, Repr

/-- Two-source scalar floating-point instructions (04 R76). -/
structure FpForm where
  g : Guard
  d : Nat
  a : Nat
  b : Nat
  rnd : Rnd
  fmt : FpFmt
  deriving DecidableEq, Repr

/-- The address fields that every Format L instruction has (03 R56, R57). -/
structure MemForm where
  g : Guard
  d : Nat
  a : Nat
  b : Nat
  sp : Space
  m : Nat
  sz : MemSize
  xs : Nat
  off : Nat
  deriving DecidableEq, Repr

/-- Format V with two sources (06 R112). -/
structure VecForm where
  g : Guard
  d : Nat
  a : Nat
  b : Nat
  tp : Bool
  mp : Bool
  xb : Bool
  deriving DecidableEq, Repr

/-- Format V with one source (06 R112). -/
structure VecUn where
  g : Guard
  d : Nat
  a : Nat
  tp : Bool
  mp : Bool
  deriving DecidableEq, Repr

/-- Reductions: a source group and an optional scalar start value (06 R134). -/
structure RedForm where
  g : Guard
  d : Nat
  a : Nat
  b : Nat
  xb : Bool
  deriving DecidableEq, Repr

/-- MMA and MMAQ (07 R154, R156). -/
structure MmaForm where
  g : Guard
  d : Nat
  a : Nat
  b : Nat
  ka : Nat
  kb : Nat
  mode : MmaMode
  deriving DecidableEq, Repr

/-- The fields that every copy has (09 R178). -/
structure CopyForm where
  g : Guard
  d : Nat
  a : Nat
  b : Nat
  c : Nat
  nm : Bool
  map : Nat
  q : Nat
  deriving DecidableEq, Repr

/-- Landing map instructions (09 R186). -/
structure MapForm where
  g : Guard
  a : Nat
  b : Nat
  map : Nat
  wd : Bool
  deriving DecidableEq, Repr

/-! ## Names and inputs of the events -/

/-- A strand slot of the device (01 R25). -/
structure SlotId where
  die : Nat
  core : Nat
  slot : Nat
  deriving DecidableEq, Repr

/-- A core of the device (01 R25). -/
structure CoreId where
  die : Nat
  core : Nat
  deriving DecidableEq, Repr

/-- What a space-D access asks of its target (19 R348). -/
inductive RemoteKind
  | read | write | held | atomic (op : AtomOp) | cas | release (count : Nat) | perform | probe | mcast (group : Nat)
  | part (root : Nat) | discard
  deriving DecidableEq, Repr

/-- A space-D access as it stands in a descriptor flit (19 R348). `probe` is a PIN, which reads nothing (05 R108, 11 R213),
`mcast` an MCAST on its way to the root of its group, `part` the store of one member on its way from the root (05 R109), and
`discard` ends the held part of a refused COMMIT (10 R200; log entry 51). -/
structure RemoteAccess where
  src : Nat
  dst : Nat
  podWorld : Nat
  kind : RemoteKind
  va : Nat
  len : Nat
  reqid : Nat
  data : List Nat
  deriving DecidableEq, Repr

/-- What the fabric answers for a line of another device that an engine reads or writes: its address, the status of the
target (0 for success) and its bytes (07 R159; 09 R181). -/
structure FarLine where
  dev : Nat
  va : Nat
  status : Nat
  data : List Nat
  deriving DecidableEq, Repr

/-- The flit types that carry or acknowledge traffic (19 R347). -/
inductive FlitType
  | idle | read | write | data | atomic | reply | release | perform | ack | nack | control | reserved
  deriving DecidableEq, Repr

/-- A flit: its header fields and its payload of 64 bytes (19 R347). -/
structure Flit where
  type : FlitType
  dst : Nat
  src : Nat
  stream : Nat
  seq : Nat
  last : Bool
  phase : Bool
  payload : List Nat
  deriving DecidableEq, Repr

/-- What the runtime chooses when it arms one stage: CODEBASE and the page-table words it stores (14 R248). -/
structure ArmChoice where
  codebase : Nat
  ptes : List (Nat × Nat)
  deriving DecidableEq, Repr

/-- A lane or a row of a channel of a stack, in the repair record (20 R368, R369). -/
structure RepairMark where
  die : Nat
  chan : Nat
  row : Bool
  index : Nat
  deriving DecidableEq, Repr

/-- A channel whose frames, in part or whole, leave the physical map at boot (20 R368). -/
structure LostChannel where
  die : Nat
  chan : Nat
  frames : List Nat
  deriving DecidableEq, Repr

/-- What the outside decides about a boot: which exchanges succeed and what is measured, the optical engines in their order among
it; the lanes that fail their test, and the frames of the channels and rows that are lost (20 R361, R362, R368). -/
structure BootInput where
  firmwareOk : Bool
  ioOk : Bool
  dieOk : List Bool
  trainOk : List Bool
  opticsOk : Bool
  runtimeOk : Bool
  measurements : List Nat
  engines : List Nat
  marks : List RepairMark
  lost : List LostChannel
  failedModules : List Nat
  runtimeEntry : Nat
  runtimeWorld : Nat
  runtimeSigners : List Nat
  runtimeRoot : Nat
  image : List (Nat × List Nat)
  root0 : Nat
  saveBase : Nat
  saveSize : Nat
  deriving DecidableEq, Repr

/-- One device of a pod manifest: identity, point and the far end of each port (19 R331). -/
structure ManifestEntry where
  dev : Nat
  identity : Nat
  point : Nat × Nat × Nat
  ports : List (Option (Nat × Nat))
  deriving DecidableEq, Repr

/-- A pod manifest and the outcome of the identity proofs (19 R331). -/
structure Manifest where
  entries : List ManifestEntry
  self : Nat
  proofsOk : Bool
  deriving DecidableEq, Repr

/-- What a world is created with (15 R262). -/
structure WorldInput where
  world : Nat
  root : Nat
  signers : List Nat
  pinQuota : Nat
  frames : List Nat
  saveBase : Nat
  saveSize : Nat
  deriving DecidableEq, Repr

/-- The register files that stand in banks (01 R23). -/
inductive RegFile
  | s | v | p | k | td | acc
  deriving DecidableEq, Repr

/-- Where an uncorrectable error strikes (20 R370). -/
inductive ErrorSite
  | regBank (s : SlotId) (file : RegFile) (n : Nat)
  | chan (s : SlotId)
  | accCell (s : SlotId) (handle : Nat)
  | scratch (c : CoreId) (off : Nat)
  | l2 (die pa : Nat)
  | farClean (die pa : Nat)
  | farDirty (die pa : Nat)
  | hbm (die chan row pa : Nat)
  | parity (die : Nat)
  | estimator (launch est : Nat)
  | lease (port world dst : Nat)
  | session (slot : Nat)
  deriving DecidableEq, Repr

/-- The host's reads of DBGDATA and the like name a kind by number (17 R324); transmit or receive side of a wavelength. -/
inductive LinkDir
  | tx | rx
  deriving DecidableEq, Repr

/-- A side of a wavelength that has trained: the transmit side, or the receive side, to which the exchange brings the sender's
count of the wavelength and its phase (19 R352, R356). -/
inductive TrainedSide
  | tx | rx (count : Nat) (phase : Bool)
  deriving DecidableEq, Repr

/-- The KEY_UPDATE of a direction: whether it has programmed the pending key (19 R357). -/
structure KeyUpdate where
  dir : LinkDir
  programmed : Bool
  deriving DecidableEq, Repr

/-- The requests that reach a port of a die in an interval: of each its world, physical address and length (16 R302). -/
structure PortRequests where
  port : Nat
  requests : List (Nat × Nat × Nat)
  deriving DecidableEq, Repr

/-- What arrives on a wavelength: the 80 bytes of a flit, or other than 80 for a codeword that FEC could not correct (19 R347,
R351). `podWorld` and `via` name the stream of its number, and `start` is the last SEQ that this link does not carry; of a lost
codeword `start` and `via` are how many of its flits were no IDLE flits and had the receiver's phase or the other one (log
entry 51). -/
structure LineFlit where
  podWorld : Nat
  via : Nat
  start : Nat
  wave : Nat
  bytes : List Nat
  deriving DecidableEq, Repr

/-- Every instruction and every event: one constructor per row of the opcode table. -/
inductive Instr
  -- control and system
  | nop (g : Guard)
  | br (g : Guard) (hint : Hint) (off : Nat)
  | brx (g : Guard) (a : Nat) (hint : Hint)
  | call (g : Guard) (d : Nat) (hint : Hint) (off : Nat)
  | callx (g : Guard) (d a : Nat) (hint : Hint)
  | ret (g : Guard) (a : Nat) (hint : Hint)
  | loop (g : Guard) (a : Nat) (hint : Hint) (off : Nat)
  | exit (g : Guard)
  | yield (g : Guard)
  | waitp (g : Guard) (a : Nat)
  | trap (g : Guard) (imm : Nat)
  | svc (g : Guard) (imm : Nat)
  | brk (g : Guard) (imm : Nat)
  | getsr (g : Guard) (d srn : Nat)
  | setsr (g : Guard) (a srn : Nat)
  | tret (g : Guard) (a : Nat)
  | tlbinv (g : Guard) (a sel : Nat)
  | plateinv (g : Guard) (a sel : Nat)
  | chkpt (g : Guard) (a act : Nat)
  | energy (g : Guard) (d sel : Nat)
  -- scalar integer
  | add (x : AluForm)
  | sub (x : AluForm)
  | addi (g : Guard) (d a : Nat) (w : Bool) (imm : Nat)
  | mul (x : AluForm)
  | mulh (x : AluForm)
  | div (x : AluForm)
  | rem (x : AluForm)
  | and (x : AluForm)
  | or (x : AluForm)
  | xor (x : AluForm)
  | logi (g : Guard) (d a : Nat) (op : LogicOp) (zx : Bool) (imm : Nat)
  | shl (x : AluForm)
  | shr (x : AluForm)
  | sra (x : AluForm)
  | shi (g : Guard) (d a : Nat) (op : ShiftOp) (w : Bool) (n : Nat)
  | min (x : AluForm)
  | max (x : AluForm)
  | clz (g : Guard) (d a : Nat) (w : Bool)
  | popc (g : Guard) (d a : Nat) (w : Bool)
  | ctz (g : Guard) (d a : Nat) (w : Bool)
  | sel (g : Guard) (d a b c : Nat) (pn : Bool)
  | movi (g : Guard) (d : Nat) (zx : Bool) (imm : Nat)
  | movhi (g : Guard) (d a imm : Nat)
  | extr (g : Guard) (d a : Nat) (sx : Bool) (lo width : Nat)
  | insr (g : Guard) (d a lo width : Nat)
  | cmp (g : Guard) (d a b : Nat) (cond : IntCond) (w : Bool) (comb : Comb)
  | cmpi (g : Guard) (d a : Nat) (cond : IntCond) (w : Bool) (imm : Nat)
  | addpc (g : Guard) (d imm : Nat)
  -- scalar floating point and predicates
  | fadd (x : FpForm)
  | fsub (x : FpForm)
  | fmul (x : FpForm)
  | fma (x : FpForm) (c : Nat) (kind : FmaKind)
  | fdiv (x : FpForm)
  | fsqrt (g : Guard) (d a : Nat) (rnd : Rnd) (fmt : FpFmt)
  | fmin (g : Guard) (d a b : Nat) (fmt : FpFmt)
  | fmax (g : Guard) (d a b : Nat) (fmt : FpFmt)
  | fcmp (g : Guard) (d a b : Nat) (fmt : FpFmt) (cond : FpCond) (comb : Comb)
  | fcvt (g : Guard) (d a : Nat) (src dst : CvtType) (rnd : Rnd)
  | fclass (g : Guard) (d a : Nat) (fmt : FpFmt)
  | fsgn (g : Guard) (d a b : Nat) (kind : SgnKind) (fmt : FpFmt)
  | plog (g : Guard) (d a b : Nat) (op : PredOp)
  | pset (g : Guard) (d a : Nat) (mode : PsetMode) (imm : Nat)
  | pmov (g : Guard) (d a b : Nat) (kind : PmovKind)
  | pcount (g : Guard) (d a : Nat) (range : Bool)
  | pfirst (g : Guard) (d a : Nat) (last range : Bool)
  -- scalar memory
  | ld (x : MemForm) (ord : Order) (sx : Bool)
  | st (x : MemForm) (ord : Order)
  | lda (x : MemForm) (scope : Scope)
  | strel (x : MemForm) (scope : Scope)
  | atom (x : MemForm) (ord : Order) (op : AtomOp)
  | cas (x : MemForm) (ord : Order)
  | fence (g : Guard) (kind : FenceKind) (scope : Scope) (mask : Nat)
  | sbar (g : Guard) (mask : Nat)
  | pref (x : MemForm)
  | pin (x : MemForm)
  | unpin (x : MemForm)
  | mcast (x : MemForm) (rel : Bool)
  -- vector
  | vsetl (g : Guard) (d a lg lew imm : Nat)
  | vld (x : MemForm)
  | vlds (x : MemForm)
  | vldx (x : MemForm)
  | vldff (x : MemForm)
  | vst (x : MemForm)
  | vsts (x : MemForm)
  | vstx (x : MemForm)
  | vldb (x : MemForm)
  | vadd (x : VecForm)
  | vsub (x : VecForm)
  | vmul (x : VecForm)
  | vmulh (x : VecForm) (u : Bool)
  | vmac (x : VecForm)
  | vmin (x : VecForm) (u : Bool)
  | vmax (x : VecForm) (u : Bool)
  | vand (x : VecForm)
  | vor (x : VecForm)
  | vxor (x : VecForm)
  | vshl (x : VecForm)
  | vshr (x : VecForm)
  | vsra (x : VecForm)
  | vcmp (x : VecForm) (cond : IntCond)
  | vmerge (x : VecForm) (c : Nat)
  | vadds (x : VecForm) (u : Bool)
  | vsubs (x : VecForm) (u : Bool)
  | vnarrow (x : VecUn) (kind : NarrowKind)
  | vwiden (x : VecUn) (sx : Bool)
  | vid (g : Guard) (d : Nat) (tp mp : Bool)
  | vdiv (x : VecForm) (u : Bool)
  | vrem (x : VecForm) (u : Bool)
  | vfadd (x : VecForm) (alt : Bool) (rnd : Rnd)
  | vfsub (x : VecForm) (alt : Bool) (rnd : Rnd)
  | vfmul (x : VecForm) (alt : Bool) (rnd : Rnd)
  | vfma (x : VecForm) (c : Nat) (kind : FmaKind) (alt : Bool) (rnd : Rnd)
  | vfdiv (x : VecForm) (alt : Bool) (rnd : Rnd)
  | vfsqrt (x : VecUn) (alt : Bool) (rnd : Rnd)
  | vfmin (x : VecForm) (alt : Bool)
  | vfmax (x : VecForm) (alt : Bool)
  | vfcmp (x : VecForm) (cond : FpCond) (alt : Bool)
  | vfcvt (x : VecUn) (src dst : CvtType) (rnd : Rnd)
  | vfexp2 (x : VecUn) (alt : Bool) (rnd : Rnd)
  | vflog2 (x : VecUn) (alt : Bool) (rnd : Rnd)
  | vfsgn (x : VecForm) (kind : SgnKind) (alt : Bool)
  | vmxq (g : Guard) (d a c : Nat) (e5 alt : Bool) (rnd : Rnd)
  | vfclass (x : VecUn) (alt : Bool)
  | vredsum (x : RedForm) (u : Bool)
  | vfredsum (x : RedForm) (alt : Bool) (rnd : Rnd)
  | vredmax (x : RedForm) (kind : ElemKind) (alt : Bool)
  | vredmin (x : RedForm) (kind : ElemKind) (alt : Bool)
  | vargmax (g : Guard) (d a : Nat) (kind : ElemKind) (alt : Bool)
  | vslideup (x : VecUn) (b : Nat)
  | vslidedn (x : VecUn) (b : Nat)
  | vperm (x : VecForm)
  | vcompress (d a c : Nat) (tp : Bool)
  | vbcast (g : Guard) (d b : Nat) (tp mp : Bool)
  | vmvsv (g : Guard) (d a b : Nat)
  | vmvvs (g : Guard) (d a b : Nat) (sx : Bool)
  | viota (x : VecUn)
  | vmv (x : VecUn)
  -- matrix
  | tdset (g : Guard) (d a : Nat) (f : TdField) (imm : Nat)
  | tdget (g : Guard) (d a : Nat) (f : TdField)
  | kset (g : Guard) (d a : Nat) (mode : KsetMode) (imm : Nat)
  | mzero (g : Guard) (d a b : Nat) (int : Bool)
  | mma (x : MmaForm)
  | mmaq (x : MmaForm) (qm : Nat)
  | maccld (g : Guard) (d a : Nat)
  | maccst (g : Guard) (d a : Nat) (relu : Bool) (fmt : ElemFmt)
  | maccv (g : Guard) (d a b : Nat) (tp mp bf16 : Bool)
  | mcode (g : Guard) (a : Nat) (sp : Space)
  | mwait (g : Guard) (d a : Nat)
  | mstat (g : Guard) (d a : Nat) (st clr : Bool)
  -- copy engine
  | cpy (x : CopyForm) (dsp ssp : Space)
  | cpym (x : CopyForm) (k : Nat) (mode : MmaMode) (which : Bool)
  | cgather (x : CopyForm) (ssp : Space)
  | cscatter (x : CopyForm) (dsp : Space)
  | cmapwt (x : MapForm)
  | cmaptst (x : MapForm) (d : Nat)
  | cmapclr (x : MapForm)
  | cdrain (g : Guard) (d : Nat) (path : DrainPath)
  | qfence (g : Guard) (mask : Nat)
  | cfill (x : CopyForm) (dsp : Space)
  | cstat (g : Guard) (d : Nat) (clr : Bool)
  -- stages
  | deq (g : Guard) (d c : Nat)
  | deqt (g : Guard) (d a c : Nat)
  | enq (g : Guard) (a : Nat)
  | chw (g : Guard) (d a : Nat)
  | chws (g : Guard) (d a b : Nat)
  | commit (g : Guard)
  | abort (g : Guard) (drop : Bool)
  | widx (g : Guard) (d a k : Nat)
  | bara (g : Guard) (d c : Nat)
  | barw (g : Guard) (a c : Nat)
  | bari (g : Guard) (a c : Nat)
  | sigwait (x : MemForm) (acq : Bool)
  | sigwake (x : MemForm)
  | chstat (g : Guard) (d : Nat) (sel : ChstatSel)
  | switch (g : Guard) (a : Nat)
  -- Stipple
  | spinit (g : Guard) (a b c : Nat) (fin : Bool)
  | spnext (g : Guard) (d b c : Nat)
  | spacc (g : Guard) (d a c : Nat) (f32 : Bool)
  | spstat (g : Guard) (d c : Nat) (sel : EstReg)
  | sptol (g : Guard) (a c : Nat) (par : EstParam)
  | spstop (g : Guard) (c : Nat)
  | spwait (g : Guard) (d a c : Nat)
  -- fabric
  | lease (g : Guard) (d a b : Nat) (nw : Bool)
  | unlease (g : Guard) (d a b : Nat)
  | leaseq (g : Guard) (d a : Nat)
  | podid (g : Guard) (d a sel : Nat)
  -- sessions
  | cdec (g : Guard) (d a b c p q : Nat)
  | cenc (g : Guard) (d a b c q : Nat)
  | usage (g : Guard) (d a b : Nat)
  | sessinfo (g : Guard) (d a sel : Nat)
  | grchk (g : Guard) (d a : Nat) (sp : Space)
  -- events of strands, cores and channels
  | tpopRead (die d : Nat)
  | bankRetentionEntry (c : CoreId) (bank : Nat)
  | bankWake (c : CoreId) (bank : Nat)
  | strandUrgent (s : SlotId)
  | waitpEnd (s : SlotId)
  | strandEnd (s : SlotId)
  | channelPacketArrival (s : SlotId) (q : Nat)
  | firingReady (inst : Nat)
  | channelDetach (chan : Nat)
  | switchTokenArrival (inst input : Nat)
  | deqGrant (s : SlotId)
  | deqInputClosed (s : SlotId)
  | deqtTimeout (s : SlotId)
  | commitPublish (s : SlotId)
  | watchdogExpiry (s : SlotId)
  | barwComplete (s : SlotId)
  | sigwaitWake (s : SlotId)
  | sigwaitTimeout (s : SlotId)
  -- events of the matrix and copy engines
  | matrixOpBegin (s : SlotId) (op : Nat)
  | matrixOpComplete (s : SlotId) (op : Nat)
  | matrixSuspend (s : SlotId) (op : Nat) (far : List FarLine)
  | mmaqTeamStart (s : SlotId) (op : Nat)
  | mmaqTeamTimeout (s : SlotId) (op : Nat)
  | mwaitComplete (s : SlotId)
  | copyBegin (c : CoreId) (q : Nat)
  | copyChunkLanded (c : CoreId) (q chunk : Nat) (far : List FarLine)
  | copyComplete (c : CoreId) (q : Nat)
  | copySuspend (c : CoreId) (q : Nat) (abandoned : List Nat)
  | copyFail (c : CoreId) (q : Nat) (far : List FarLine)
  | cmapwtComplete (s : SlotId)
  | cdrainComplete (s : SlotId)
  | qfenceJoinComplete (c : CoreId) (join : Nat)
  -- events of the Stipple unit and the session engine
  | spinitArrive (s : SlotId) (est : Nat)
  | sptolArrive (s : SlotId) (est : Nat)
  | spnextArrive (s : SlotId)
  | spaccArrive (s : SlotId) (est : Nat)
  | spstatArrive (s : SlotId)
  | spstopArrive (s : SlotId) (est : Nat)
  | stopBroadcastReceive (launch est die : Nat)
  | spwaitTimeout (s : SlotId)
  | cdecService (s : SlotId)
  | cencService (s : SlotId)
  | usageService (s : SlotId)
  | sessinfoService (s : SlotId)
  | sessionOpen (slot world key fixed : Nat)
  | pendingKeyProgram (slot key : Nat) (ok : Bool)
  | replyBufferRegister (slot va cap : Nat)
  | sessionClose (slot : Nat)
  | usageRecordRequest (slot : Nat)
  | usageRecordCollect (slot : Nat)
  -- events of space D
  | remoteAccessArrival (r : RemoteAccess)
  | remoteReplyArrival (s : SlotId) (src dst reqid status : Nat) (data : List Nat)
  | postedRefusalArrival (s : SlotId) (reqid status : Nat)
  | performArrival (src reqid : Nat)
  -- events of the schedulers, the debugger and the host
  | checkpointComplete (inst : Nat)
  | killComplete (inst : Nat)
  | drainComplete (inst : Nat)
  | stageResume (inst : Nat)
  | stageComplete (inst : Nat)
  | dbgHaltSet (c : CoreId) (drain : Bool)
  | dbgHaltClear (c : CoreId)
  | dbgQuiet (c : CoreId)
  | dbgStep (c : CoreId)
  | dbgAttach (c : CoreId)
  | dbgDataRead (c : CoreId)
  | dbgDataWrite (c : CoreId) (data : Nat)
  | sqTailWrite (q v : Nat)
  | cqHeadWrite (q v : Nat)
  | tlbcmdWrite (va : Nat)
  | hostcapWrite (v : Nat)
  | retrainwWrite (port v : Nat)
  | eqHeadWrite (v : Nat)
  | eqOverflowClear
  | registerWrite (off v : Nat)
  | hostMemRead (pa len : Nat)
  | hostMemWrite (pa : Nat) (data : List Nat)
  | queueSwitchIn (q : Nat)
  | queueIdleSwitchOut (q : Nat)
  | queueFairSwitchOut (q : Nat)
  | launchArrival (q : Nat) (arm : List ArmChoice)
  | stageBind (inst : Nat)
  | launchComplete (launch : Nat)
  | completionEntryWrite (q : Nat)
  | overrunPreempt (inst : Nat)
  | reservoirRefill (n : Nat)
  | bwWindowStart (die : Nat) (p : PortRequests)
  | bwBoundary (die port cycle : Nat) (requests : List (Nat × Nat × Nat)) (inFlight : List Nat)
  -- events of the fabric
  | manifestDelivery (m : Manifest)
  | podWorldRegister (num world : Nat) (members : List Nat)
  | mcastGroupRegister (num group root : Nat) (members : List Nat) (agree : Bool)
  | linkBringup (port : Nat) (ok : Bool)
  | flitReceive (port : Nat) (f : LineFlit)
  | ackSend (port stream : Nat)
  | nackSend (port stream : Nat)
  | flitReplay (port stream seq wave : Nat)
  | fecWindowEnd (port wave corrected : Nat) (dir : LinkDir)
  | trainingDone (port wave : Nat) (side : TrainedSide)
  | trainingFail (port wave : Nat) (dir : LinkDir)
  | lossOfLight (far : Option Nat) (modl : Nat)
  | spareSwitchIn (slot : Nat)
  | lightRestored (far : Option Nat) (slot : Nat)
  | linkKeyWarning (port : Nat) (k : KeyUpdate)
  | linkKeySwitch (port : Nat) (dir : LinkDir)
  | linkDataStop (port : Nat) (dir : LinkDir)
  | leaseWavelengthFree (port wave : Nat)
  | leaseTermExpiry (port world dst : Nat)
  | leaseTermTake (port : Nat)
  | leaseStarvationRevoke (port : Nat)
  | unreachableDetect (dst : Nat)
  -- events of the Hallmark
  | powerGoodBoot (b : BootInput)
  | runtimeRestart (die : Nat)
  | quoteRequest (world : Nat) (nonce : Nat)
  | packageLoad (world addr gb size : Nat)
  | packageUnload (world handle : Nat)
  | worldCreate (w : WorldInput)
  | worldTeardown (world : Nat)
  | uncorrectableError (site : ErrorSite)
  | correctedErrorWindow (die : Nat) (lanes : List (Nat × Nat × Nat))
  | thermalStep (hottest : Nat)
  | thermalShutdown (hottest : Nat)
  | eventReserveWrite
  | fetchFault (s : SlotId)
  | powerOff
  deriving DecidableEq, Repr

end Sys2Proof
end

