-- ==== Sys2Proof/Machine/Fp.lean ====
section
/-! DEFINITION. Number formats, rounding and the basic operations (02_numbers.md R30 to R47, R51). Values are exact: a
finite value is an integer times a power of two, and each operation rounds once. -/

namespace Sys2Proof.Machine

/-! ## Flags (01 R26) -/

def flagNV : Nat := 16
def flagDZ : Nat := 8
def flagOF : Nat := 4
def flagUF : Nat := 2
def flagNX : Nat := 1

/-! ## Formats (02 R30, R31) -/

/-- A floating-point format: exponent width, fraction width, bias, and whether it is E4M3, which has no infinity. -/
structure Fmt where
  ebits : Nat
  mbits : Nat
  bias : Nat
  e4m3 : Bool
  deriving DecidableEq, Repr

def fp64 : Fmt := ⟨11, 52, 1023, false⟩
def fp32 : Fmt := ⟨8, 23, 127, false⟩
def bf16 : Fmt := ⟨8, 7, 127, false⟩
def fp16 : Fmt := ⟨5, 10, 15, false⟩
def fe4m3 : Fmt := ⟨4, 3, 7, true⟩
def fe5m2 : Fmt := ⟨5, 2, 15, false⟩

/-- Bits of a value of the format. -/
def Fmt.width (f : Fmt) : Nat := 1 + f.ebits + f.mbits
/-- The magnitude bits of infinity in a format that has it. -/
def Fmt.infBits (f : Fmt) : Nat := (2 ^ f.ebits - 1) * 2 ^ f.mbits
/-- The magnitude bits of the largest finite value. -/
def Fmt.maxBits (f : Fmt) : Nat := if f.e4m3 then 0x7E else f.infBits - 1
/-- The canonical NaN (02 R31). -/
def Fmt.nan (f : Fmt) : Nat := if f.e4m3 then 0x7F else f.infBits + 2 ^ (f.mbits - 1)
/-- The sign bit in place. -/
def Fmt.signBit (f : Fmt) (neg : Bool) : Nat := boolNat neg * 2 ^ (f.width - 1)
/-- The exponent of the smallest subnormal. -/
def Fmt.qmin (f : Fmt) : Int := 1 - (f.bias : Int) - f.mbits

/-- Whether FPCTL.SAT acts on the format: E4M3 and E5M2 (02 R35). -/
def Fmt.small8 (f : Fmt) : Bool := f.width == 8

/-- A value of any format. `fin neg m e` is (-1)^neg × m × 2^e. -/
inductive FVal
  | nan (signalling : Bool)
  | inf (neg : Bool)
  | fin (neg : Bool) (m : Nat) (e : Int)
  deriving DecidableEq, Repr

/-- Reads the value that `bits` encode (02 R30, R31). E4M3 and E5M2 NaNs are quiet. -/
def Fmt.read (f : Fmt) (bits : Nat) : FVal :=
  let neg := bitAt bits (f.width - 1)
  let e := field bits f.mbits f.ebits
  let m := field bits 0 f.mbits
  if f.e4m3 && field bits 0 7 == 0x7F then .nan false
  else if !f.e4m3 && e == 2 ^ f.ebits - 1 then
    if m == 0 then .inf neg else .nan (!f.small8 && m < 2 ^ (f.mbits - 1))
  else if e == 0 then .fin neg m f.qmin
  else .fin neg (2 ^ f.mbits + m) (f.qmin + e - 1)

/-! ## Rounding (02 R34 to R36) -/

/-- The rounding modes. -/
inductive RMode
  | rne | rtz | rdn | rup | rna
  deriving DecidableEq, Repr

/-- The mode of an RM code; the codes 5 to 7 are never stored (01 R26). -/
def RMode.ofCode : Nat → RMode
  | 1 => .rtz | 2 => .rdn | 3 => .rup | 4 => .rna | _ => .rne

/-- Whether a magnitude is rounded up, given the parity of the kept part, the half bit and whether more follows. -/
def roundUp (rm : RMode) (neg odd half rest : Bool) : Bool :=
  match rm with
  | .rne => half && (rest || odd)
  | .rtz => false
  | .rdn => neg && (half || rest)
  | .rup => !neg && (half || rest)
  | .rna => half

/-- `m × 2^e` as a multiple of `2^q`, rounded; and whether it was inexact. -/
def roundAt (rm : RMode) (neg : Bool) (m : Nat) (e q : Int) : Nat × Bool :=
  if q ≤ e then (m * 2 ^ (e - q).toNat, false)
  else
    let k := (q - e).toNat
    let n := m / 2 ^ k
    let half := bitAt m (k - 1)
    let rest := m % 2 ^ (k - 1) != 0
    (n + boolNat (roundUp rm neg (n % 2 == 1) half rest), half || rest)

/-- Whether overflow gives the infinity of the sign, rather than the largest finite value (02 R35). -/
def overflowInf (rm : RMode) (neg : Bool) : Bool :=
  match rm with
  | .rne | .rna => true
  | .rtz => false
  | .rup => !neg
  | .rdn => neg

/-- The magnitude bits of an overflow (02 R35). -/
def Fmt.overflow (f : Fmt) (rm : RMode) (sat neg : Bool) : Nat :=
  if sat && f.small8 then f.signBit neg + f.maxBits
  else if overflowInf rm neg then (if f.e4m3 then f.nan else f.signBit neg + f.infBits)
  else f.signBit neg + f.maxBits

/-- Rounds the exact finite value (-1)^neg × m × 2^e; tininess is detected after rounding (02 R34, R36). Gives the bits
and the flags. -/
def Fmt.roundFin (f : Fmt) (rm : RMode) (sat neg : Bool) (m : Nat) (e : Int) : Nat × Nat :=
  if m == 0 then (f.signBit neg, 0)
  else
    let top : Int := (Nat.log2 m : Int) + e
    let q := max (top - f.mbits) f.qmin
    let (n, inexact) := roundAt rm neg m e q
    let mag := if n < 2 ^ f.mbits then n else ((q - f.qmin).toNat) * 2 ^ f.mbits + n
    let emin := f.qmin + f.mbits
    let (nu, _) := roundAt rm neg m e (top - f.mbits)
    let tiny := decide (top < emin) && !(decide (top = emin - 1) && nu == 2 ^ (f.mbits + 1))
    if f.maxBits < mag then (f.overflow rm sat neg, flagOF + flagNX)
    else (f.signBit neg + mag, (if tiny && inexact then flagUF else 0) + (if inexact then flagNX else 0))

/-- Converts an infinity (02 R35, R36). -/
def Fmt.infTo (f : Fmt) (sat neg : Bool) : Nat × Nat :=
  if f.e4m3 then (if sat then (f.signBit neg + f.maxBits, flagNX) else (f.nan, flagNV))
  else (f.signBit neg + f.infBits, 0)

/-- `round_fmt` on any value (02 R34); a signalling NaN raises NV. -/
def Fmt.round (f : Fmt) (rm : RMode) (sat : Bool) : FVal → Nat × Nat
  | .nan s => (f.nan, if s then flagNV else 0)
  | .inf neg => f.infTo sat neg
  | .fin neg m e => f.roundFin rm sat neg m e

/-! ## Exact sums -/

/-- The integer of a finite value at exponent `e0`, which is at most its own. -/
def atExp (neg : Bool) (m : Nat) (e e0 : Int) : Int :=
  let v : Int := (m * 2 ^ (e - e0).toNat : Nat)
  if neg then -v else v

/-- The exact sum of two finite values, with the zero sign of 02 R36. -/
def addFin (rm : RMode) (n1 : Bool) (m1 : Nat) (e1 : Int) (n2 : Bool) (m2 : Nat) (e2 : Int) : FVal :=
  let e0 := min e1 e2
  let v := atExp n1 m1 e1 e0 + atExp n2 m2 e2 e0
  if v == 0 then
    if m1 == 0 && m2 == 0 && n1 == n2 then .fin n1 0 e0 else .fin (rm == .rdn) 0 e0
  else .fin (decide (v < 0)) v.natAbs e0

/-- Flags of the operands: NV when one is a signalling NaN (02 R36). -/
def snan : FVal → Nat
  | .nan true => flagNV
  | _ => 0

/-- Whether a value is a NaN. -/
def FVal.isNan : FVal → Bool
  | .nan _ => true
  | _ => false

/-- The value with its sign inverted. -/
def FVal.negate : FVal → FVal
  | .nan s => .nan s
  | .inf n => .inf (!n)
  | .fin n m e => .fin (!n) m e

/-- The exact sum and its flags before rounding. -/
def exactAdd (rm : RMode) (a b : FVal) : FVal × Nat :=
  match a, b with
  | .inf n1, .inf n2 => if n1 == n2 then (.inf n1, 0) else (.nan false, flagNV)
  | .inf n, .fin .. => (.inf n, 0)
  | .fin .., .inf n => (.inf n, 0)
  | .fin n1 m1 e1, .fin n2 m2 e2 => (addFin rm n1 m1 e1 n2 m2 e2, 0)
  | a, b => (.nan false, snan a ||| snan b)

/-- The exact product and its flags before rounding. -/
def exactMul (a b : FVal) : FVal × Nat :=
  match a, b with
  | .inf n1, .inf n2 => (.inf (n1 != n2), 0)
  | .inf n1, .fin n2 m _ => if m == 0 then (.nan false, flagNV) else (.inf (n1 != n2), 0)
  | .fin n1 m _, .inf n2 => if m == 0 then (.nan false, flagNV) else (.inf (n1 != n2), 0)
  | .fin n1 m1 e1, .fin n2 m2 e2 => (.fin (n1 != n2) (m1 * m2) (e1 + e2), 0)
  | a, b => (.nan false, snan a ||| snan b)

/-- Rounds an exact result and joins the flags. -/
def Fmt.finish (f : Fmt) (rm : RMode) (x : FVal × Nat) : Nat × Nat :=
  let (bits, fl) := f.round rm false x.1
  (bits, fl ||| x.2)

/-! ## The basic operations (02 R37; 04 R77) -/

def Fmt.add (f : Fmt) (rm : RMode) (a b : Nat) : Nat × Nat := f.finish rm (exactAdd rm (f.read a) (f.read b))
def Fmt.sub (f : Fmt) (rm : RMode) (a b : Nat) : Nat × Nat :=
  f.finish rm (exactAdd rm (f.read a) (f.read b).negate)
def Fmt.mul (f : Fmt) (rm : RMode) (a b : Nat) : Nat × Nat := f.finish rm (exactMul (f.read a) (f.read b))

/-- Fused multiply-add with the signs of its form; infinity times zero raises NV even beside a quiet NaN (04 R77). -/
def Fmt.fma (f : Fmt) (rm : RMode) (kind : FmaKind) (a b c : Nat) : Nat × Nat :=
  let (p, pf) := exactMul (f.read a) (f.read b)
  let c' := f.read c
  let p' := if kind == .nadd || kind == .nsub then p.negate else p
  let c'' := if kind == .sub || kind == .nsub then c'.negate else c'
  let (r, rf) := exactAdd rm p' c''
  f.finish rm (r, pf ||| rf)

/-- Division (04 R77). The quotient carries a sticky last bit when it is inexact. -/
def Fmt.div (f : Fmt) (rm : RMode) (a b : Nat) : Nat × Nat :=
  match f.read a, f.read b with
  | .inf _, .inf _ => (f.nan, flagNV)
  | .inf n1, .fin n2 _ _ => f.infTo false (n1 != n2)
  | .fin n1 _ _, .inf n2 => (f.signBit (n1 != n2), 0)
  | .fin n1 m1 e1, .fin n2 m2 e2 =>
    if m2 == 0 then
      if m1 == 0 then (f.nan, flagNV) else (f.signBit (n1 != n2) + f.infBits, flagDZ)
    else
      let k := f.mbits + 4 + Nat.log2 m2
      let x := m1 * 2 ^ k
      let q := x / m2
      let sticky := boolNat (x % m2 != 0)
      f.roundFin rm false (n1 != n2) (2 * q + sticky) (e1 - e2 - k - 1)
  | a, b => (f.nan, snan a ||| snan b)

/-- The integer square root by bits, `k` bits from the top. -/
def isqrtBits : Nat → Nat → Nat → Nat
  | 0, _, r => r
  | k + 1, n, r => if (r + 2 ^ k) * (r + 2 ^ k) ≤ n then isqrtBits k n (r + 2 ^ k) else isqrtBits k n r

/-- The integer square root. -/
def isqrt (n : Nat) : Nat := isqrtBits (Nat.log2 n / 2 + 1) n 0

/-- Square root (04 R77). -/
def Fmt.sqrt (f : Fmt) (rm : RMode) (a : Nat) : Nat × Nat :=
  match f.read a with
  | .nan s => (f.nan, if s then flagNV else 0)
  | .inf neg => if neg then (f.nan, flagNV) else f.infTo false false
  | .fin neg m e =>
    if m == 0 then (f.signBit neg, 0)
    else if neg then (f.nan, flagNV)
    else
      let odd := e % 2 != 0
      let m' := if odd then 2 * m else m
      let e' := if odd then e - 1 else e
      let k := f.mbits + 4
      let n := m' * 2 ^ (2 * k)
      let r := isqrt n
      f.roundFin rm false false (2 * r + boolNat (r * r != n)) (e' / 2 - k - 1)

/-! ## Comparison, minimum and maximum (02 R38; 04 R79) -/

/-- The order of two values that are not NaN: negative, zero or positive as `a` is below, equal to or above `b`; zeros are
equal. -/
def compareVal (a b : FVal) : Int :=
  match a, b with
  | .inf n1, .inf n2 => if n1 == n2 then 0 else if n1 then -1 else 1
  | .inf n, _ => if n then -1 else 1
  | _, .inf n => if n then 1 else -1
  | .fin n1 m1 e1, .fin n2 m2 e2 =>
    let e0 := min e1 e2
    atExp n1 m1 e1 e0 - atExp n2 m2 e2 e0
  | _, _ => 0

/-- Whether a value is a zero with the sign given, for the order of zeros in 02 R38. -/
def FVal.zeroWithSign (neg : Bool) : FVal → Bool
  | .fin n m _ => m == 0 && n == neg
  | _ => false

/-- Below in the order of 02 R38, in which -0 orders below +0. -/
def belowVal (a b : FVal) : Bool :=
  decide (compareVal a b < 0) || (decide (compareVal a b = 0) && a.zeroWithSign true && b.zeroWithSign false)

/-- minimumNumber (`wantMin`) or maximumNumber (02 R38). -/
def Fmt.minMax (f : Fmt) (wantMin : Bool) (a b : Nat) : Nat × Nat :=
  let x := f.read a
  let y := f.read b
  let fl := snan x ||| snan y
  let a' := a % 2 ^ f.width
  let b' := b % 2 ^ f.width
  if x.isNan then (if y.isNan then (f.nan, fl) else (b', fl))
  else if y.isNan then (a', fl)
  else if wantMin then (if belowVal y x then b' else a', fl)
  else (if belowVal x y then b' else a', fl)

/-- The condition of a floating-point comparison and its flags (04 R79). -/
def Fmt.compare (f : Fmt) (cond : FpCond) (a b : Nat) : Bool × Nat :=
  let x := f.read a
  let y := f.read b
  let un := x.isNan || y.isNan
  let c := compareVal x y
  let quiet := snan x ||| snan y
  let loud := if un then flagNV else 0
  match cond with
  | .eq => (!un && decide (c = 0), quiet)
  | .lt => (!un && decide (c < 0), loud)
  | .le => (!un && decide (c ≤ 0), loud)
  | .un => (un, quiet)
  | .ne => (un || decide (c ≠ 0), quiet)

/-- The class mask of FCLASS (04 R81). -/
def Fmt.classify (f : Fmt) (a : Nat) : Nat :=
  match f.read a with
  | .nan s => if s then 2 ^ 8 else 2 ^ 9
  | .inf neg => if neg then 2 ^ 0 else 2 ^ 7
  | .fin neg m _ =>
    if m == 0 then (if neg then 2 ^ 3 else 2 ^ 4)
    else if m < 2 ^ f.mbits then (if neg then 2 ^ 2 else 2 ^ 5)
    else (if neg then 2 ^ 1 else 2 ^ 6)

/-- The sign manipulation of FSGN: the magnitude of `a` with a sign from `a` and `b` (04 R78). -/
def Fmt.sgn (f : Fmt) (kind : SgnKind) (a b : Nat) : Nat :=
  let sa := bitAt a (f.width - 1)
  let sb := bitAt b (f.width - 1)
  let s := match kind with
    | .cp => sb
    | .neg => !sb
    | .xor => sa != sb
  f.signBit s + field a 0 (f.width - 1)

/-! ## Conversions (02 R39, R40) -/

/-- The type of a code: a floating-point format, or the width of an integer type. -/
def cvtFmt : CvtType → Fmt ⊕ Nat
  | .f64 => .inl fp64 | .f32 => .inl fp32 | .bf16 => .inl bf16 | .f16 => .inl fp16 | .e4m3 => .inl fe4m3
  | .e5m2 => .inl fe5m2 | .i32 => .inr 32 | .i8 => .inr 8

/-- Bits of a type. -/
def cvtWidth (t : CvtType) : Nat := match cvtFmt t with | .inl f => f.width | .inr n => n

/-- The value of a source. -/
def cvtRead (t : CvtType) (bits : Nat) : FVal :=
  match cvtFmt t with
  | .inl f => f.read bits
  | .inr n => let v := signedOf bits n; .fin (decide (v < 0)) v.natAbs 0

/-- Conversion to an `n`-bit signed integer (02 R40), as an integer with flags. -/
def toInt (n : Nat) (rm : RMode) : FVal → Int × Nat
  | .nan _ => (0, flagNV)
  | .inf neg => (if neg then -(2 ^ (n - 1) : Nat) else (2 ^ (n - 1) : Nat) - 1, flagNV)
  | .fin neg m e =>
    let (r, inexact) := roundAt rm neg m e 0
    let v : Int := if neg then -(r : Int) else r
    if v < -(2 ^ (n - 1) : Nat) then (-(2 ^ (n - 1) : Nat), flagNV)
    else if (2 ^ (n - 1) : Nat) ≤ v then ((2 ^ (n - 1) : Nat) - 1, flagNV)
    else (v, if inexact then flagNX else 0)

/-- Converts between two types; the result is the bits of the destination. Integers saturate without a flag. -/
def convert (src dst : CvtType) (rm : RMode) (sat : Bool) (bits : Nat) : Nat × Nat :=
  match cvtFmt dst with
  | .inl f => f.round rm sat (cvtRead src bits)
  | .inr n =>
    let (v, fl) := toInt n rm (cvtRead src bits)
    (wrapTo n v, match cvtFmt src with | .inl _ => fl | .inr _ => 0)

/-! ## 2^x and log2 x, correctly rounded (02 R37) -/

/-- The sum of `1 / ((2k+1) z^(2k+1))` terms of atanh(num/den) in fixed point with `w` bits, `fuel` terms, each cut down. -/
def atanhTerms : Nat → Nat → Nat → Nat → Nat → Nat
  | 0, _, _, _, _ => 0
  | fuel + 1, k, t, n2, d2 => t / (2 * k + 1) + atanhTerms fuel (k + 1) (t * n2 / d2) n2 d2

/-- `atanh(n/d) × 2^w` from below, for n/d at most 1/3; short by less than `w` units. -/
def atanhFix (w n d : Nat) : Nat := atanhTerms (w / 3 + 4) 0 (2 ^ w * n / d) (n * n) (d * d)

/-- `ln 2 × 2^w` from below. -/
def ln2Fix (w : Nat) : Nat := 2 * atanhFix w 1 3

/-- The exponential series in fixed point: `t` is the current term. -/
def expTerms : Nat → Nat → Nat → Nat → Nat → Nat
  | 0, _, _, _, _ => 0
  | fuel + 1, k, t, x, w => t + expTerms fuel (k + 1) (t * x / 2 ^ w / (k + 1)) x w

/-- The width of the error that the fixed-point sums can make, in units of the last place. -/
def slack (w : Nat) : Nat := 64 * w

/-- Rounds a value known to lie strictly between `lo × 2^e` and `hi × 2^e`, if both ends agree. -/
def Fmt.roundBetween (f : Fmt) (rm : RMode) (neg : Bool) (lo hi : Nat) (e : Int) : Option (Nat × Nat) :=
  let a := f.roundFin rm false neg (2 * lo + 1) (e - 1)
  let b := f.roundFin rm false neg (2 * hi + 1) (e - 1)
  if a == b then some a else none

/-- The first working precision that decides the rounding; the last one is taken as it stands. -/
def firstDecided (f : Nat → Option (Nat × Nat)) (dflt : Nat × Nat) : List Nat → Nat × Nat
  | [] => dflt
  | w :: ws => match f w with
    | some r => r
    | none => firstDecided f dflt ws

/-- The working precisions, far above the hardest case of FP64. -/
def precisions : List Nat := [160, 288, 544]

/-- 2^x for a finite x that is not an integer. -/
def Fmt.exp2Fin (f : Fmt) (rm : RMode) (neg : Bool) (m : Nat) (e : Int) : Nat × Nat :=
  let top : Int := (Nat.log2 m : Int) + e
  if 14 < top then f.roundFin rm false false 3 (if neg then -20000 else 20000)
  else if top < -80 then
    if neg then f.roundFin rm false false (2 ^ 90 - 1) (-90) else f.roundFin rm false false (2 ^ 90 + 1) (-90)
  else
    let k := (-e).toNat
    let v : Int := if neg then -(m : Int) else m
    let n := v / (2 ^ k : Nat)
    let frac := (v % (2 ^ k : Nat)).toNat
    let go := fun w =>
      let x := (frac * 2 ^ w / 2 ^ k) * ln2Fix w / 2 ^ w
      let lo := expTerms w 0 (2 ^ w) x w
      f.roundBetween rm false lo (lo + slack w) (n - w)
    firstDecided go (f.roundFin rm false false 3 n) precisions

/-- VFEXP2 (02 R37). -/
def Fmt.exp2 (f : Fmt) (rm : RMode) (a : Nat) : Nat × Nat :=
  match f.read a with
  | .nan s => (f.nan, if s then flagNV else 0)
  | .inf neg => if neg then (0, 0) else (f.infBits, 0)
  | .fin neg m e =>
    if m == 0 then f.roundFin rm false false 1 0
    else
      let k := (-e).toNat
      if 0 ≤ e || m % 2 ^ k == 0 then
        let v : Nat := if 0 ≤ e then (if 16 < e then 65536 else m * 2 ^ e.toNat) else m / 2 ^ k
        let n : Int := if neg then -(min v 20000 : Nat) else (min v 20000 : Nat)
        f.roundFin rm false false 1 n
      else f.exp2Fin rm neg m e

/-- log2 of a positive finite value that is no power of two. -/
def Fmt.log2Fin (f : Fmt) (rm : RMode) (m : Nat) (e : Int) : Nat × Nat :=
  let l := Nat.log2 m
  let n : Int := (l : Int) + e
  let go := fun w =>
    let at_ := 2 * atanhFix w (m - 2 ^ l) (m + 2 ^ l)
    let lo := at_ * 2 ^ w / (ln2Fix w + 2 * w)
    let hi := (at_ + slack w) * 2 ^ w / ln2Fix w + 1
    let base : Int := n * (2 ^ w : Nat)
    let a : Int := base + lo
    let b : Int := base + hi
    if 0 ≤ a then f.roundBetween rm false a.toNat b.toNat (-w)
    else f.roundBetween rm true (-b).toNat (-a).toNat (-w)
  firstDecided go (f.roundFin rm false (decide (n < 0)) 3 (-1)) precisions

/-- VFLOG2 (02 R37). -/
def Fmt.log2 (f : Fmt) (rm : RMode) (a : Nat) : Nat × Nat :=
  match f.read a with
  | .nan s => (f.nan, if s then flagNV else 0)
  | .inf neg => if neg then (f.nan, flagNV) else (f.infBits, 0)
  | .fin neg m e =>
    if m == 0 then (f.signBit true + f.infBits, flagDZ)
    else if neg then (f.nan, flagNV)
    else if m == 2 ^ Nat.log2 m then
      let n : Int := (Nat.log2 m : Int) + e
      f.roundFin rm false (decide (n < 0)) n.natAbs 0
    else f.log2Fin rm m e

/-! ## Reductions (02 R51) -/

/-- Adds neighbours: one level of the pairwise tree, with the flags. -/
def pairUp (add : Nat → Nat → Nat × Nat) : List Nat → List Nat × Nat
  | a :: b :: r =>
    let (x, f1) := add a b
    let (rest, f2) := pairUp add r
    (x :: rest, f1 ||| f2)
  | l => (l, 0)

/-- `fuel` levels of the pairwise tree. -/
def treeLevels (add : Nat → Nat → Nat × Nat) : Nat → List Nat → Nat → List Nat × Nat
  | 0, l, fl => (l, fl)
  | fuel + 1, l, fl => let (l', f') := pairUp add l; treeLevels add fuel l' (fl ||| f')

/-- The smallest k with `n ≤ 2^k`. -/
def ceilLog2 (n : Nat) : Nat := if n ≤ 1 then 0 else Nat.log2 (n - 1) + 1

/-- `tree_sum` over the elements, padded with the identity to a power of two (02 R51). -/
def treeSum (add : Nat → Nat → Nat × Nat) (identity : Nat) (l : List Nat) : Nat × Nat :=
  let k := ceilLog2 l.length
  let padded := l ++ List.replicate (2 ^ k - l.length) identity
  let padded := if padded.isEmpty then [identity] else padded
  let (r, fl) := treeLevels add k padded 0
  (r.headD identity, fl)

/-! ## MX blocks (02 R42, R43) -/

/-- The largest magnitude of finite values: mantissa and exponent of the greatest. -/
def greatest : List FVal → Nat × Int
  | [] => (0, 0)
  | .fin _ m e :: r =>
    let (m', e') := greatest r
    if compareVal (.fin false m' e') (.fin false m e) < 0 then (m, e) else (m', e')
  | _ :: r => greatest r

/-- Whether a value is finite. -/
def FVal.isFin : FVal → Bool
  | .fin .. => true
  | _ => false

/-- `quantise_mx` on the included values, each `none` where excluded (02 R43): the scale byte, the element bytes and the
flags. -/
def quantiseMx (f : Fmt) (rm : RMode) (sat : Bool) (xs : List (Option FVal)) : Nat × List Nat × Nat :=
  let incl := xs.filterMap id
  if incl.any (fun v => !v.isFin) then
    let nv := incl.any fun v => match v with | .inf _ => true | .nan s => s | _ => false
    (0xFF, xs.map (fun o => match o with | some _ => f.nan | none => 0), if nv then flagNV else 0)
  else
    let (m, e) := greatest incl
    let emax : Int := if f.e4m3 then 8 else 15
    let x : Int := if m == 0 then 127 else min 254 (max 0 ((Nat.log2 m : Int) + e - emax + 127))
    let rs := xs.map fun o => match o with
      | some (.fin neg m e) => f.roundFin rm sat neg m (e + 127 - x)
      | _ => (0, 0)
    (x.toNat, rs.map (·.1), rs.foldl (fun a r => a ||| r.2) 0)

end Sys2Proof.Machine
end

