-- ==== Sys2Proof/Config.lean ====
section
/-! DEFINITION. What one implementation fixes, and the free values: constants without a body, of which nothing can be
proved. Each is named in a log entry. -/

namespace Sys2Proof.Config

/-- The physical map: eight stacks of 48 GiB less the sixteenth that holds tags (00 R1, 15 R264). DESIGN CHOICE, log entry
8: the map is one range from 0. -/
def physLimit : Nat := 360 * 2 ^ 30

/-- A fresh free value for each number it is applied to (log entry 3). -/
opaque freeValue : Nat → Nat

/-- The die whose stack a physical address is homed on (16 R302; log entry 8). -/
opaque homeDie : Nat → Nat

/-- Bytes of die code of the translation of a module's region (14 R256; log entry 50). -/
opaque dieCodeBytes : Nat → Nat → Nat

/-- SAVESZ, the bytes of save area per strand (17 R311; log entry 16). -/
opaque saveSize : Nat

/-- The bytes that a save or a spill writes to the save area of a world, each by its offset: the layout is private to the
revision (17 R320; log entry 16). -/
opaque saveImage : Nat → List (Nat × Byte)

/-- The key stream of AES-256-GCM under a key and an IV, byte by byte (15 R277; log entry 5). -/
opaque keystream : Nat → Nat → Nat → Byte

/-- The AES-256-GCM tag of a ciphertext under a key and an IV (15 R277; log entry 5). -/
opaque gcmTag : Nat → Nat → List Byte → Nat

/-- SHA-384 (14 R249; log entry 5). -/
opaque sha384 : List Byte → Nat

/-- The measurement of a runtime image, by its bytes at their addresses (20 R361; log entry 5). -/
opaque imageMeasure : List (Nat × List Nat) → Nat

/-- ECDSA P-384 verification of a signature over a digest under a public key (14 R249; log entry 5). -/
opaque ecdsaVerify : List Byte → List Byte → Nat → Bool

/-- The 96-byte signature of the identity key over bytes (15 R286, 20 R365; log entry 5). -/
opaque identitySign : List Byte → Nat

/-- The payload key of a weight package: HKDF-SHA-384 over the ECDH secret of EPH and the package key, which depends on
MS0, with bytes 0 to 63 as info (15 R268, 20 R364; log entry 5). -/
opaque packageKey : Nat → List Byte → List Byte → Nat

/-- The AES-256-GCM tag under a key and an IV over additional data and a ciphertext: of a weight package with its header (15
R268), and of a flit with its header (19 R356; log entry 5). -/
opaque packageTag : Nat → Nat → List Byte → List Byte → Nat

/-- The certificate of the package key, which names MS0 (20 R364, R365; log entry 5). -/
opaque packageCert : Nat → List Byte

/-- The bytes of a pod manifest that lists some numbers; the spec does not give their layout (19 R331; log entry 51). -/
opaque manifestBytes : List Nat → List Byte

/-- The draw of alternate `i` for a destination, seeded by the pod identifier and the source (19 R333; log entry 15). -/
opaque altDraw : Nat → Nat → Nat → Nat → Nat

/-- Whether the pin that a free value numbers would take the last unpinned way of its set (05 R108; log entry 14). -/
opaque pinTakesLastWay : Nat → Bool

end Sys2Proof.Config
end

