-- ==== Sys2Proof/Decode.lean ====
section
/-! DEFINITION. The decoder of instruction words (03_encoding_and_assembly.md R54 to R61, and the entries of each
instruction), total on any 64-bit value, and after it the encoder. Steps 1 and 2 of R61 that depend on the word alone are
here; those that depend on registers stand with the instructions' meanings. -/

namespace Sys2Proof

/-! ## Codes of the enumerated fields (03 R56, R65 and the entries) -/

def Space.code : Space → Nat | .g => 0 | .l => 1 | .q => 2 | .d => 3
def Space.of? : Nat → Option Space | 0 => some .g | 1 => some .l | 2 => some .q | 3 => some .d | _ => none
def MemSize.code : MemSize → Nat | .b => 0 | .h => 1 | .w => 2 | .d => 3 | .qd => 4 | .sec => 5
def MemSize.of? : Nat → Option MemSize
  | 0 => some .b | 1 => some .h | 2 => some .w | 3 => some .d | 4 => some .qd | 5 => some .sec | _ => none
def Order.code : Order → Nat | .plain => 0 | .acq => 1 | .rel => 2 | .sc => 3
def Order.of? : Nat → Option Order | 0 => some .plain | 1 => some .acq | 2 => some .rel | 3 => some .sc | _ => none
def Scope.code : Scope → Nat | .strand => 0 | .core => 1 | .quad => 2 | .die => 3 | .pkg => 4 | .pod => 5
def Scope.of? : Nat → Option Scope
  | 0 => some .strand | 1 => some .core | 2 => some .quad | 3 => some .die | 4 => some .pkg | 5 => some .pod | _ => none
def AtomOp.code : AtomOp → Nat
  | .swap => 0 | .add => 1 | .and => 2 | .or => 3 | .smin => 4 | .smax => 5 | .umin => 6 | .umax => 7
def AtomOp.of? : Nat → Option AtomOp
  | 0 => some .swap | 1 => some .add | 2 => some .and | 3 => some .or | 4 => some .smin | 5 => some .smax
  | 6 => some .umin | 7 => some .umax | _ => none
def FenceKind.code : FenceKind → Nat | .full => 0 | .acq => 1 | .rel => 2
def FenceKind.of? : Nat → Option FenceKind | 0 => some .full | 1 => some .acq | 2 => some .rel | _ => none
def IntCond.code : IntCond → Nat | .eq => 0 | .ne => 1 | .lt => 2 | .ge => 3 | .ltu => 4 | .geu => 5
def IntCond.of? : Nat → Option IntCond
  | 0 => some .eq | 1 => some .ne | 2 => some .lt | 3 => some .ge | 4 => some .ltu | 5 => some .geu | _ => none
def FpCond.code : FpCond → Nat | .eq => 0 | .lt => 1 | .le => 2 | .un => 3 | .ne => 4
def FpCond.of? : Nat → Option FpCond
  | 0 => some .eq | 1 => some .lt | 2 => some .le | 3 => some .un | 4 => some .ne | _ => none
def Comb.code : Comb → Nat | .set => 0 | .and => 1 | .or => 2
def Comb.of? : Nat → Option Comb | 0 => some .set | 1 => some .and | 2 => some .or | _ => none
def FpFmt.code : FpFmt → Nat | .f64 => 0 | .f32 => 1 | .bf16 => 2 | .f16 => 3
def FpFmt.of? : Nat → Option FpFmt | 0 => some .f64 | 1 => some .f32 | 2 => some .bf16 | 3 => some .f16 | _ => none
def Rnd.code : Rnd → Nat | .dyn => 0 | .rne => 1 | .rtz => 2 | .rdn => 3 | .rup => 4 | .rna => 5
def Rnd.of? : Nat → Option Rnd
  | 0 => some .dyn | 1 => some .rne | 2 => some .rtz | 3 => some .rdn | 4 => some .rup | 5 => some .rna | _ => none
def CvtType.code : CvtType → Nat
  | .f64 => 0 | .f32 => 1 | .bf16 => 2 | .f16 => 3 | .e4m3 => 4 | .e5m2 => 5 | .i32 => 6 | .i8 => 7
def CvtType.of? : Nat → Option CvtType
  | 0 => some .f64 | 1 => some .f32 | 2 => some .bf16 | 3 => some .f16 | 4 => some .e4m3 | 5 => some .e5m2
  | 6 => some .i32 | 7 => some .i8 | _ => none
def FmaKind.code : FmaKind → Nat | .none => 0 | .sub => 1 | .nadd => 2 | .nsub => 3
def FmaKind.of? : Nat → Option FmaKind
  | 0 => some .none | 1 => some .sub | 2 => some .nadd | 3 => some .nsub | _ => Option.none
def SgnKind.code : SgnKind → Nat | .cp => 0 | .neg => 1 | .xor => 2
def SgnKind.of? : Nat → Option SgnKind | 0 => some .cp | 1 => some .neg | 2 => some .xor | _ => none
def LogicOp.code : LogicOp → Nat | .and => 0 | .or => 1 | .xor => 2
def LogicOp.of? : Nat → Option LogicOp | 0 => some .and | 1 => some .or | 2 => some .xor | _ => none
def ShiftOp.code : ShiftOp → Nat | .shl => 0 | .shr => 1 | .sra => 2 | .ror => 3
def ShiftOp.of? : Nat → Option ShiftOp | 0 => some .shl | 1 => some .shr | 2 => some .sra | 3 => some .ror | _ => none
def PredOp.code : PredOp → Nat
  | .and => 0 | .or => 1 | .xor => 2 | .andn => 3 | .orn => 4 | .nand => 5 | .nor => 6 | .xnor => 7
def PredOp.of? : Nat → Option PredOp
  | 0 => some .and | 1 => some .or | 2 => some .xor | 3 => some .andn | 4 => some .orn | 5 => some .nand
  | 6 => some .nor | 7 => some .xnor | _ => none
def PsetMode.code : PsetMode → Nat | .all => 0 | .none => 1 | .first => 2
def PsetMode.of? : Nat → Option PsetMode | 0 => some .all | 1 => some .none | 2 => some .first | _ => Option.none
def PmovKind.code : PmovKind → Nat | .pp => 0 | .sp => 1 | .ps => 2
def PmovKind.of? : Nat → Option PmovKind | 0 => some .pp | 1 => some .sp | 2 => some .ps | _ => none
def Hint.code : Hint → Nat | .none => 0 | .likely => 1 | .unlikely => 2
def Hint.of? : Nat → Option Hint | 0 => some .none | 1 => some .likely | 2 => some .unlikely | _ => Option.none
def NarrowKind.code : NarrowKind → Nat | .trunc => 0 | .ssat => 1 | .usat => 2
def NarrowKind.of? : Nat → Option NarrowKind | 0 => some .trunc | 1 => some .ssat | 2 => some .usat | _ => none
def ElemKind.code : ElemKind → Nat | .s => 0 | .u => 1 | .f => 2
def ElemKind.of? : Nat → Option ElemKind | 0 => some .s | 1 => some .u | 2 => some .f | _ => none
def TdField.code : TdField → Nat
  | .base => 0 | .spfmt => 1 | .rows => 2 | .cols => 3 | .stride => 4 | .scalebase => 5 | .device => 6
def TdField.of? : Nat → Option TdField
  | 0 => some .base | 1 => some .spfmt | 2 => some .rows | 3 => some .cols | 4 => some .stride | 5 => some .scalebase
  | 6 => some .device | _ => none
def MmaMode.code : MmaMode → Nat | .acc => 0 | .ovw => 1 | .acn => 2
def MmaMode.of? : Nat → Option MmaMode | 0 => some .acc | 1 => some .ovw | 2 => some .acn | _ => none
def ElemFmt.code : ElemFmt → Nat
  | .fp32 => 0 | .bf16 => 1 | .fp16 => 2 | .e4m3 => 3 | .e5m2 => 4 | .mxfp8 => 5 | .mxfp8e5 => 6 | .int8 => 7
  | .int32 => 8 | .vq2x => 9
def ElemFmt.of? : Nat → Option ElemFmt
  | 0 => some .fp32 | 1 => some .bf16 | 2 => some .fp16 | 3 => some .e4m3 | 4 => some .e5m2 | 5 => some .mxfp8
  | 6 => some .mxfp8e5 | 7 => some .int8 | 8 => some .int32 | 9 => some .vq2x | _ => none
def DrainPath.code : DrainPath → Nat | .all => 0 | .spad => 1 | .glob => 2 | .pod => 3
def DrainPath.of? : Nat → Option DrainPath
  | 0 => some .all | 1 => some .spad | 2 => some .glob | 3 => some .pod | _ => none
def EstReg.code : EstReg → Nat
  | .n => 0 | .mean => 1 | .m2 => 2 | .status => 3 | .pos => 4 | .disc => 5 | .issued => 6 | .tol => 7 | .z => 8
  | .nmin => 9 | .seed => 10 | .dom => 11
def EstReg.of? : Nat → Option EstReg
  | 0 => some .n | 1 => some .mean | 2 => some .m2 | 3 => some .status | 4 => some .pos | 5 => some .disc
  | 6 => some .issued | 7 => some .tol | 8 => some .z | 9 => some .nmin | 10 => some .seed | 11 => some .dom | _ => none
def EstParam.code : EstParam → Nat | .tol => 0 | .z => 1 | .nmin => 2
def EstParam.of? : Nat → Option EstParam | 0 => some .tol | 1 => some .z | 2 => some .nmin | _ => none

/-! ## The eight formats (03 R55, R56) -/

/-- Format A. -/
structure WordA where
  g : Guard
  d : Nat
  a : Nat
  b : Nat
  c : Nat
  fn : Nat
  deriving DecidableEq, Repr

/-- Formats I and B: `imm` is IMM32 or OFF32. -/
structure WordI where
  g : Guard
  d : Nat
  a : Nat
  fn5 : Nat
  imm : Nat
  deriving DecidableEq, Repr

/-- Format L. -/
structure WordL where
  g : Guard
  d : Nat
  a : Nat
  b : Nat
  sp : Nat
  m : Nat
  sz : Nat
  ord : Nat
  xs : Nat
  sx : Bool
  off : Nat
  deriving DecidableEq, Repr

/-- Format V. -/
structure WordV where
  g : Guard
  d : Nat
  a : Nat
  b : Nat
  c : Nat
  tp : Bool
  mp : Bool
  xb : Bool
  fn : Nat
  deriving DecidableEq, Repr

/-- Format M. -/
structure WordM where
  g : Guard
  d : Nat
  a : Nat
  b : Nat
  ka : Nat
  kb : Nat
  mode : Nat
  qm : Nat
  deriving DecidableEq, Repr

/-- Format E. -/
structure WordE where
  g : Guard
  d : Nat
  a : Nat
  b : Nat
  c : Nat
  fn : Nat
  map : Nat
  q : Nat
  deriving DecidableEq, Repr

/-- Format X. -/
structure WordX where
  g : Guard
  d : Nat
  a : Nat
  srn : Nat
  deriving DecidableEq, Repr

/-- `x` when `ok` holds, nothing otherwise. -/
def req {α : Type} (ok : Bool) (x : α) : Option α := if ok then some x else none

/-- The guard fields of a word (03 R55). -/
def splitG (w : Nat) : Guard := ⟨field w 50 4, bitAt w 49⟩

/-- Splits a Format A word; bits 15:0 must be zero. -/
def splitA (w : Nat) : Option WordA :=
  req (field w 0 16 == 0) ⟨splitG w, field w 43 6, field w 37 6, field w 31 6, field w 25 6, field w 16 9⟩

/-- Splits a Format I or B word. -/
def splitI (w : Nat) : Option WordI := some ⟨splitG w, field w 43 6, field w 37 6, field w 32 5, field w 0 32⟩

/-- Splits a Format L word. -/
def splitL (w : Nat) : Option WordL :=
  some ⟨splitG w, field w 43 6, field w 37 6, field w 31 6, field w 28 3, field w 26 2, field w 23 3, field w 20 3,
    field w 18 2, bitAt w 17, field w 0 17⟩

/-- Splits a Format V word; bits 12:0 must be zero. -/
def splitV (w : Nat) : Option WordV :=
  req (field w 0 13 == 0) ⟨splitG w, field w 43 6, field w 37 6, field w 31 6, field w 25 6, bitAt w 24, bitAt w 23,
    bitAt w 22, field w 13 9⟩

/-- Splits a Format M word; bits 15:0 must be zero. -/
def splitM (w : Nat) : Option WordM :=
  req (field w 0 16 == 0) ⟨splitG w, field w 43 6, field w 37 6, field w 31 6, field w 27 4, field w 23 4, field w 20 3,
    field w 16 4⟩

/-- Splits a Format E word; bits 7:0 must be zero. -/
def splitE (w : Nat) : Option WordE :=
  req (field w 0 8 == 0) ⟨splitG w, field w 43 6, field w 37 6, field w 31 6, field w 25 6, field w 16 9, field w 10 6,
    field w 8 2⟩

/-- Splits a Format X word; bits 24:0 must be zero. -/
def splitX (w : Nat) : Option WordX :=
  req (field w 0 25 == 0) ⟨splitG w, field w 43 6, field w 37 6, field w 25 12⟩

/-! ## Decoding by shape -/

/-- No operand: every field but OP, G and N is zero. -/
def decNone (mk : Guard → Instr) (x : WordA) : Option Instr :=
  req (x.d == 0 && x.a == 0 && x.b == 0 && x.c == 0 && x.fn == 0) (mk x.g)

/-- Two-source integer instructions; `ok` says which of W, U and SAT may be set (04 R70, R71). -/
def decAlu (mk : AluForm → Instr) (ok : Bool → Bool → Bool → Bool) (x : WordA) : Option Instr :=
  let w := bitAt x.fn 0
  let u := bitAt x.fn 1
  let sat := bitAt x.fn 2
  req (x.c == 0 && x.fn < 8 && ok w u sat) (mk ⟨x.g, x.d, x.a, x.b, w, u, sat⟩)

/-- ADD and SUB: W, SAT, and U only with SAT. -/
def okAdd (_ u sat : Bool) : Bool := !u || sat
/-- MUL and the shifts: W. -/
def okW (_ u sat : Bool) : Bool := !u && !sat
/-- MULH, DIV, REM, MIN and MAX: W and U. -/
def okWU (_ _ sat : Bool) : Bool := !sat
/-- AND, OR and XOR: no flag. -/
def okNone (w u sat : Bool) : Bool := !w && !u && !sat

/-- CLZ, POPC and CTZ (04 R72). -/
def decUn (mk : Guard → Nat → Nat → Bool → Instr) (x : WordA) : Option Instr :=
  req (x.b == 0 && x.c == 0 && x.fn < 2) (mk x.g x.d x.a (bitAt x.fn 0))

/-- Branches of Format B (04 R83). -/
def decBranch (mk : WordI → Hint → Instr) (ok : WordI → Bool) (x : WordI) : Option Instr :=
  (Hint.of? (field x.fn5 0 2)).bind fun h => req (x.fn5 < 4 && ok x) (mk x h)

/-- BRX, CALLX and RET (04 R84). -/
def decJump (mk : WordA → Hint → Instr) (link : Bool) (x : WordA) : Option Instr :=
  (Hint.of? (field x.fn 0 2)).bind fun h => req (x.fn < 4 && x.b == 0 && x.c == 0 && (link || x.d == 0)) (mk x h)

/-- TRAP, SVC and BRK (04 R88). -/
def decTrap (mk : Guard → Nat → Instr) (x : WordI) : Option Instr :=
  req (x.d == 0 && x.a == 0 && x.fn5 == 0) (mk x.g x.imm)

/-- FADD and its kin (04 R76, R77). -/
def decFp (mk : FpForm → Instr) (x : WordA) : Option Instr :=
  (FpFmt.of? (field x.fn 0 2)).bind fun f => (Rnd.of? (field x.fn 2 3)).bind fun r =>
    req (x.fn < 32 && x.c == 0) (mk ⟨x.g, x.d, x.a, x.b, r, f⟩)

/-- FMA (04 R77). -/
def decFma (x : WordA) : Option Instr :=
  (FpFmt.of? (field x.fn 0 2)).bind fun f => (Rnd.of? (field x.fn 2 3)).bind fun r =>
    (FmaKind.of? (field x.fn 5 2)).bind fun k => req (x.fn < 128) (.fma ⟨x.g, x.d, x.a, x.b, r, f⟩ x.c k)

/-- FSQRT (04 R77). -/
def decFsqrt (x : WordA) : Option Instr :=
  (FpFmt.of? (field x.fn 0 2)).bind fun f => (Rnd.of? (field x.fn 2 3)).bind fun r =>
    req (x.fn < 32 && x.b == 0 && x.c == 0) (.fsqrt x.g x.d x.a r f)

/-- FMIN and FMAX (04 R78). -/
def decFmin (mk : Guard → Nat → Nat → Nat → FpFmt → Instr) (x : WordA) : Option Instr :=
  (FpFmt.of? (field x.fn 0 2)).bind fun f => req (x.fn < 4 && x.c == 0) (mk x.g x.d x.a x.b f)

/-- The address fields of a Format L word; in space D the index scale must be zero (03 R57, R58). -/
def memOf (x : WordL) : Option MemForm :=
  (Space.of? x.sp).bind fun sp => (MemSize.of? x.sz).bind fun sz =>
    req (!(x.sp == 3 && x.xs != 0)) ⟨x.g, x.d, x.a, x.b, sp, x.m, sz, x.xs, x.off⟩

/-- Format L instructions with an ORD operand. -/
def decMemOrd (mk : MemForm → Order → Instr) (ok : WordL → Bool) (x : WordL) : Option Instr :=
  (memOf x).bind fun m => (Order.of? x.ord).bind fun o => req (ok x) (mk m o)

/-- LDA and STREL (05 R101). -/
def decMemScope (mk : MemForm → Scope → Instr) (x : WordL) : Option Instr :=
  (memOf x).bind fun m => (Scope.of? x.ord).bind fun o =>
    req (x.sz < 4 && !x.sx && !(x.sp == 3 && x.ord != 5)) (mk m o)

/-- ATOM: bits 19:17 hold AOP (05 R103). -/
def decAtom (x : WordL) : Option Instr :=
  (memOf { x with xs := 0 }).bind fun m => (Order.of? x.ord).bind fun o =>
    (AtomOp.of? (2 * x.xs + boolNat x.sx)).bind fun op => req (x.sz < 4 && (x.b == 0 || x.sp == 3)) (.atom m o op)

/-- Format L instructions whose OR and SX are zero. -/
def decMem (mk : MemForm → Instr) (ok : WordL → Bool) (x : WordL) : Option Instr :=
  (memOf x).bind fun m => req (x.ord == 0 && !x.sx && ok x) (mk m)

/-- PREF and UNPIN use no D; PIN does (05 R107, R108). -/
def okLine (useD : Bool) (x : WordL) : Bool := (x.sp == 0 || x.sp == 3) && x.sz == 0 && (useD || x.d == 0)

/-- MCAST (05 R109). -/
def decMcast (x : WordL) : Option Instr :=
  (memOf x).bind fun m =>
    req ((x.sp == 2 || x.sp == 3) && (x.ord == 0 || x.ord == 2) && !x.sx && x.xs == 0) (.mcast m (x.ord == 2))

/-- VLD, VST and VLDB (06 R117, R118). -/
def okUnit (x : WordL) : Bool := x.sz < 4 && x.xs == 0 && (x.b == 0 || x.sp == 3)
/-- VLDS, VSTS and VLDFF (06 R118). -/
def okStride (x : WordL) : Bool := x.sz < 4 && x.xs == 0 && x.sp != 3
/-- VLDX and VSTX (06 R118). -/
def okIndex (x : WordL) : Bool := x.sz < 4 && x.sp != 3

/-- Two-source Format V instructions with FN zero (06 R112, R123). -/
def decVec (mk : VecForm → Instr) (x : WordV) : Option Instr :=
  req (x.c == 0 && x.fn == 0) (mk ⟨x.g, x.d, x.a, x.b, x.tp, x.mp, x.xb⟩)

/-- Two-source Format V instructions with U in FN bit 0 (06 R123). -/
def decVecU (mk : VecForm → Bool → Instr) (x : WordV) : Option Instr :=
  req (x.c == 0 && x.fn < 2) (mk ⟨x.g, x.d, x.a, x.b, x.tp, x.mp, x.xb⟩ (bitAt x.fn 0))

/-- One-source Format V instructions; `mk` reads FN. -/
def decVecUn (mk : VecUn → Nat → Option Instr) (x : WordV) : Option Instr :=
  (req (x.b == 0 && x.c == 0 && !x.xb) x).bind fun x => mk ⟨x.g, x.d, x.a, x.tp, x.mp⟩ x.fn

/-- RND and ALT of a vector floating-point FN with OPX zero (06 R128). -/
def rndAlt (fn : Nat) : Option (Bool × Rnd) :=
  (Rnd.of? (field fn 0 3)).bind fun r => req (fn < 16) (bitAt fn 3, r)

/-- Two-source vector floating-point arithmetic (06 R129). -/
def decVecFp (mk : VecForm → Bool → Rnd → Instr) (x : WordV) : Option Instr :=
  (rndAlt x.fn).bind fun ar => req (x.c == 0) (mk ⟨x.g, x.d, x.a, x.b, x.tp, x.mp, x.xb⟩ ar.1 ar.2)

/-- One-source vector floating-point arithmetic (06 R129). -/
def decVecFpUn (mk : VecUn → Bool → Rnd → Instr) : WordV → Option Instr :=
  decVecUn fun u fn => (rndAlt fn).map fun ar => mk u ar.1 ar.2

/-- VFMIN and VFMAX: RND and OPX zero (06 R129). -/
def decVecAlt (mk : VecForm → Bool → Instr) (x : WordV) : Option Instr :=
  req (x.c == 0 && (x.fn == 0 || x.fn == 8)) (mk ⟨x.g, x.d, x.a, x.b, x.tp, x.mp, x.xb⟩ (bitAt x.fn 3))

/-- The operands of a reduction: TP, MP and C zero, and B zero without XB (06 R134). -/
def redOf (x : WordV) : Option RedForm :=
  req (!x.tp && !x.mp && x.c == 0 && (x.xb || x.b == 0)) ⟨x.g, x.d, x.a, x.b, x.xb⟩

/-- KIND and ALT of VREDMAX, VREDMIN and VARGMAX (06 R135). -/
def kindAlt (fn : Nat) : Option (ElemKind × Bool) :=
  (ElemKind.of? (field fn 0 2)).bind fun k => req (fn < 8 && (!bitAt fn 2 || field fn 0 2 == 2)) (k, bitAt fn 2)

/-- VREDMAX and VREDMIN. -/
def decRedExt (mk : RedForm → ElemKind → Bool → Instr) (x : WordV) : Option Instr :=
  (redOf x).bind fun r => (kindAlt x.fn).map fun ka => mk r ka.1 ka.2

/-- VSLIDEUP and VSLIDEDN (06 R136). -/
def decSlide (mk : VecUn → Nat → Instr) (x : WordV) : Option Instr :=
  req (x.xb && x.c == 0 && x.fn == 0) (mk ⟨x.g, x.d, x.a, x.tp, x.mp⟩ x.b)

/-- MMA and MMAQ (07 R154, R156). -/
def mmaOf (x : WordM) : Option MmaForm :=
  (MmaMode.of? x.mode).map fun mode => ⟨x.g, x.d, x.a, x.b, x.ka, x.kb, mode⟩

/-- The fields that every copy has; with NM the map must be zero (09 R178). -/
def copyOf (x : WordE) (nm : Bool) : Option CopyForm :=
  req (!nm || x.map == 0) ⟨x.g, x.d, x.a, x.b, x.c, nm, x.map, x.q⟩

/-- CPY (09 R183). -/
def decCpy (x : WordE) : Option Instr :=
  (copyOf x (bitAt x.fn 6)).bind fun c => (Space.of? (field x.fn 0 3)).bind fun dsp =>
    (Space.of? (field x.fn 3 3)).bind fun ssp =>
      req (x.fn < 128 && !(dsp == .d && ssp == .d) && (x.c == 0 || dsp == .d || ssp == .d)) (.cpy c dsp ssp)

/-- CFILL (09 R183). -/
def decCfill (x : WordE) : Option Instr :=
  (copyOf x (bitAt x.fn 6)).bind fun c => (Space.of? (field x.fn 0 3)).bind fun dsp =>
    req (x.fn < 128 && field x.fn 3 3 == 0 && (x.c == 0 || dsp == .d)) (.cfill c dsp)

/-- CGATHER: DSP is L (09 R184). -/
def decCgather (x : WordE) : Option Instr :=
  (copyOf x (bitAt x.fn 6)).bind fun c => (Space.of? (field x.fn 3 3)).bind fun ssp =>
    req (x.fn < 128 && field x.fn 0 3 == 1 && ssp != .d) (.cgather c ssp)

/-- CSCATTER: SSP is L (09 R184). -/
def decCscatter (x : WordE) : Option Instr :=
  (copyOf x (bitAt x.fn 6)).bind fun c => (Space.of? (field x.fn 0 3)).bind fun dsp =>
    req (x.fn < 128 && field x.fn 3 3 == 1 && dsp != .d) (.cscatter c dsp)

/-- CPYM (09 R185). -/
def decCpym (x : WordE) : Option Instr :=
  (copyOf x (bitAt x.fn 7)).bind fun c => (MmaMode.of? (field x.fn 4 2)).bind fun mode =>
    req (x.fn < 256) (.cpym c (field x.fn 0 4) mode (bitAt x.fn 6))

/-- CMAPWT, CMAPTST and CMAPCLR (09 R186). -/
def mapOf (x : WordE) : Option MapForm := req (x.fn < 2 && x.c == 0 && x.q == 0) ⟨x.g, x.a, x.b, x.map, bitAt x.fn 0⟩

/-- The fields A, B, C, MAP and Q of a Format E word are zero. -/
def onlyD (x : WordE) : Bool := x.a == 0 && x.b == 0 && x.c == 0 && x.map == 0 && x.q == 0

/-- KSET (07 R152). -/
def decKset (x : WordI) : Option Instr :=
  if x.fn5 == 0 then some (.kset x.g x.d x.a .raw x.imm)
  else if x.fn5 == 1 then req (x.a == 0 && x.imm < 256) (.kset x.g x.d 0 .uni x.imm)
  else (Space.of? (field x.fn5 2 3)).bind fun sp => req (field x.fn5 0 2 == 2) (.kset x.g x.d x.a (.addr sp) x.imm)

/-- EXTR and INSR: lo in bits 5:0 and width - 1 in bits 13:8 of IMM32 (04 R74). -/
def okExtr (imm : Nat) : Bool :=
  imm < 2 ^ 14 && field imm 6 2 == 0 && field imm 0 6 + field imm 8 6 + 1 ≤ 64

/-- CHSTAT (10 R205). -/
def decChstat (x : WordA) : Option Instr :=
  if x.b == 0 && x.c == 0 then
    if x.fn == 0 && x.a == 0 then some (.chstat x.g x.d .item)
    else if x.fn == 1 then some (.chstat x.g x.d (.inp x.a))
    else req (x.fn == 2 && x.a == 0) (.chstat x.g x.d .cfg)
  else none

/-! ## The opcode map (03 R60) -/

/-- A row of the opcode map: the opcode and the decoder of its words. -/
abbrev OpRow := Nat × (Nat → Option Instr)

/-- A row whose words have Format A, and so on for the other formats. -/
def rowA (op : Nat) (f : WordA → Option Instr) : OpRow := (op, fun w => (splitA w).bind f)
def rowI (op : Nat) (f : WordI → Option Instr) : OpRow := (op, fun w => (splitI w).bind f)
def rowL (op : Nat) (f : WordL → Option Instr) : OpRow := (op, fun w => (splitL w).bind f)
def rowV (op : Nat) (f : WordV → Option Instr) : OpRow := (op, fun w => (splitV w).bind f)
def rowM (op : Nat) (f : WordM → Option Instr) : OpRow := (op, fun w => (splitM w).bind f)
def rowE (op : Nat) (f : WordE → Option Instr) : OpRow := (op, fun w => (splitE w).bind f)
def rowX (op : Nat) (f : WordX → Option Instr) : OpRow := (op, fun w => (splitX w).bind f)

/-- Control and system, 0x000 to 0x03F. -/
def rowsControl : List OpRow :=
  [ rowA 0x001 (decNone .nop),
    rowI 0x002 (decBranch (fun x h => .br x.g h x.imm) (fun x => x.d == 0 && x.a == 0)),
    rowA 0x003 (decJump (fun x h => .brx x.g x.a h) false),
    rowI 0x004 (decBranch (fun x h => .call x.g x.d h x.imm) (fun x => x.a == 0)),
    rowA 0x005 (decJump (fun x h => .callx x.g x.d x.a h) true),
    rowA 0x006 (decJump (fun x h => .ret x.g x.a h) false),
    rowI 0x007 (decBranch (fun x h => .loop x.g x.a h x.imm) (fun x => x.d == 0 && x.a != 0)),
    rowA 0x008 (decNone .exit),
    rowA 0x009 (decNone .yield),
    rowA 0x00A (fun x => req (x.d == 0 && x.b == 0 && x.c == 0 && x.fn == 0) (.waitp x.g x.a)),
    rowI 0x00B (decTrap .trap),
    rowI 0x00C (decTrap .svc),
    rowI 0x00D (decTrap .brk),
    rowX 0x00E (fun x => req (x.a == 0) (.getsr x.g x.d x.srn)),
    rowX 0x00F (fun x => req (x.d == 0) (.setsr x.g x.a x.srn)),
    rowX 0x010 (fun x => req (x.d == 0 && x.srn == 0) (.tret x.g x.a)),
    rowX 0x011 (fun x => req (x.d == 0 && x.srn < 3) (.tlbinv x.g x.a x.srn)),
    rowX 0x012 (fun x => req (x.d == 0 && x.srn < 3) (.plateinv x.g x.a x.srn)),
    rowX 0x013 (fun x => req (x.d == 0 && x.srn < 4) (.chkpt x.g x.a x.srn)),
    rowX 0x014 (fun x => req (x.a == 0 && x.srn < 3) (.energy x.g x.d x.srn)) ]

/-- Scalar integer, 0x040 to 0x07F. -/
def rowsInteger : List OpRow :=
  [ rowA 0x040 (decAlu .add okAdd),
    rowA 0x041 (decAlu .sub okAdd),
    rowI 0x042 (fun x => req (x.fn5 < 2) (.addi x.g x.d x.a (bitAt x.fn5 0) x.imm)),
    rowA 0x043 (decAlu .mul okW),
    rowA 0x044 (decAlu .mulh okWU),
    rowA 0x045 (decAlu .div okWU),
    rowA 0x046 (decAlu .rem okWU),
    rowA 0x047 (decAlu .and okNone),
    rowA 0x048 (decAlu .or okNone),
    rowA 0x049 (decAlu .xor okNone),
    rowI 0x04A (fun x => (LogicOp.of? (field x.fn5 0 2)).bind fun op =>
      req (x.fn5 < 8) (.logi x.g x.d x.a op (bitAt x.fn5 2) x.imm)),
    rowA 0x04B (decAlu .shl okW),
    rowA 0x04C (decAlu .shr okW),
    rowA 0x04D (decAlu .sra okW),
    rowI 0x04E (fun x => (ShiftOp.of? (field x.fn5 0 2)).bind fun op =>
      req (x.fn5 < 8 && x.imm < (if bitAt x.fn5 2 then 32 else 64)) (.shi x.g x.d x.a op (bitAt x.fn5 2) x.imm)),
    rowA 0x04F (decAlu .min okWU),
    rowA 0x050 (decAlu .max okWU),
    rowA 0x051 (decUn .clz),
    rowA 0x052 (decUn .popc),
    rowA 0x053 (decUn .ctz),
    rowA 0x054 (fun x => req (x.fn < 2) (.sel x.g x.d x.a x.b x.c (bitAt x.fn 0))),
    rowI 0x055 (fun x => req (x.fn5 < 2 && x.a == 0) (.movi x.g x.d (bitAt x.fn5 0) x.imm)),
    rowI 0x056 (fun x => req (x.fn5 == 0) (.movhi x.g x.d x.a x.imm)),
    rowI 0x057 (fun x => req (x.fn5 < 2 && okExtr x.imm)
      (.extr x.g x.d x.a (bitAt x.fn5 0) (field x.imm 0 6) (field x.imm 8 6 + 1))),
    rowI 0x058 (fun x => req (x.fn5 == 0 && okExtr x.imm)
      (.insr x.g x.d x.a (field x.imm 0 6) (field x.imm 8 6 + 1))),
    rowA 0x059 (fun x => (IntCond.of? (field x.fn 0 3)).bind fun cond => (Comb.of? (field x.fn 4 2)).bind fun comb =>
      req (x.c == 0 && x.fn < 64) (.cmp x.g x.d x.a x.b cond (bitAt x.fn 3) comb)),
    rowI 0x05A (fun x => (IntCond.of? (field x.fn5 0 3)).bind fun cond =>
      req (x.fn5 < 16) (.cmpi x.g x.d x.a cond (bitAt x.fn5 3) x.imm)),
    rowI 0x05B (fun x => req (x.fn5 == 0 && x.a == 0) (.addpc x.g x.d x.imm)) ]

/-- Scalar floating point and predicates, 0x080 to 0x0BF. -/
def rowsFloat : List OpRow :=
  [ rowA 0x080 (decFp .fadd),
    rowA 0x081 (decFp .fsub),
    rowA 0x082 (decFp .fmul),
    rowA 0x083 decFma,
    rowA 0x084 (decFp .fdiv),
    rowA 0x085 decFsqrt,
    rowA 0x086 (decFmin .fmin),
    rowA 0x087 (decFmin .fmax),
    rowA 0x088 (fun x => (FpFmt.of? (field x.fn 0 2)).bind fun f => (FpCond.of? (field x.fn 2 3)).bind fun cond =>
      (Comb.of? (field x.fn 5 2)).bind fun comb => req (x.c == 0 && x.fn < 128) (.fcmp x.g x.d x.a x.b f cond comb)),
    rowA 0x089 (fun x => (CvtType.of? (field x.fn 0 3)).bind fun src => (CvtType.of? (field x.fn 3 3)).bind fun dst =>
      (Rnd.of? (field x.fn 6 3)).bind fun r => req (x.b == 0 && x.c == 0 && src != dst) (.fcvt x.g x.d x.a src dst r)),
    rowA 0x08A (fun x => (FpFmt.of? (field x.fn 0 2)).bind fun f =>
      req (x.b == 0 && x.c == 0 && x.fn < 4) (.fclass x.g x.d x.a f)),
    rowA 0x08B (fun x => (FpFmt.of? (field x.fn 0 2)).bind fun f => (SgnKind.of? (field x.fn 5 2)).bind fun k =>
      req (x.c == 0 && x.fn < 128 && field x.fn 2 3 == 0) (.fsgn x.g x.d x.a x.b k f)),
    rowA 0x090 (fun x => (PredOp.of? (field x.fn 0 3)).bind fun op =>
      req (x.c == 0 && x.fn < 8) (.plog x.g x.d x.a x.b op)),
    rowI 0x091 (fun x => (PsetMode.of? x.fn5).bind fun mode =>
      req (mode == .first || (x.a == 0 && x.imm == 0)) (.pset x.g x.d x.a mode x.imm)),
    rowA 0x092 (fun x => (PmovKind.of? x.fn).bind fun k => req (x.c == 0 && (k != .pp || x.b == 0))
      (.pmov x.g x.d x.a x.b k)),
    rowA 0x093 (fun x => req (x.b == 0 && x.c == 0 && (x.fn == 0 || x.fn == 2)) (.pcount x.g x.d x.a (bitAt x.fn 1))),
    rowA 0x094 (fun x => req (x.b == 0 && x.c == 0 && x.fn < 4) (.pfirst x.g x.d x.a (bitAt x.fn 0) (bitAt x.fn 1))) ]

/-- Scalar memory, 0x0C0 to 0x0FF. -/
def rowsMemory : List OpRow :=
  [ rowL 0x0C0 (fun x => (memOf x).bind fun m => (Order.of? x.ord).bind fun o =>
      req (!(x.sx && 3 ≤ x.sz) && x.ord != 2) (.ld m o x.sx)),
    rowL 0x0C1 (decMemOrd .st (fun x => !x.sx && x.ord != 1)),
    rowL 0x0C2 (decMemScope .lda),
    rowL 0x0C3 (decMemScope .strel),
    rowL 0x0C4 decAtom,
    rowL 0x0C5 (decMemOrd .cas (fun x => x.xs == 0 && !x.sx && x.sz < 5 && (x.b == 0 || x.sp == 3))),
    rowA 0x0C6 (fun x => (FenceKind.of? (field x.fn 7 2)).bind fun k => (Scope.of? (field x.fn 4 3)).bind fun sc =>
      req (x.d == 0 && x.a == 0 && x.b == 0 && x.c == 0 && field x.fn 0 4 != 0) (.fence x.g k sc (field x.fn 0 4))),
    rowA 0x0C7 (fun x => req (x.d == 0 && x.a == 0 && x.b == 0 && x.c == 0 && x.fn != 0 && x.fn < 16) (.sbar x.g x.fn)),
    rowL 0x0C8 (decMem .pref (okLine false)),
    rowL 0x0C9 (decMem .pin (okLine true)),
    rowL 0x0CA (decMem .unpin (okLine false)),
    rowL 0x0CB decMcast ]

/-- Vector length and vector memory. -/
def rowsVecMem : List OpRow :=
  [ rowI 0x100 (fun x => req (x.fn5 < 16 && (x.a == 0 || x.imm == 0))
      (.vsetl x.g x.d x.a (field x.fn5 2 2) (field x.fn5 0 2) x.imm)),
    rowL 0x101 (decMem .vld okUnit),
    rowL 0x102 (decMem .vlds okStride),
    rowL 0x103 (decMem .vldx okIndex),
    rowL 0x104 (decMem .vldff okStride),
    rowL 0x105 (decMem .vst okUnit),
    rowL 0x106 (decMem .vsts okStride),
    rowL 0x107 (decMem .vstx okIndex),
    rowL 0x108 (decMem .vldb okUnit) ]

/-- Vector integer. -/
def rowsVecInt : List OpRow :=
  [ rowV 0x140 (decVec .vadd),
    rowV 0x141 (decVec .vsub),
    rowV 0x142 (decVec .vmul),
    rowV 0x143 (decVecU .vmulh),
    rowV 0x144 (decVec .vmac),
    rowV 0x145 (decVecU .vmin),
    rowV 0x146 (decVecU .vmax),
    rowV 0x147 (decVec .vand),
    rowV 0x148 (decVec .vor),
    rowV 0x149 (decVec .vxor),
    rowV 0x14A (decVec .vshl),
    rowV 0x14B (decVec .vshr),
    rowV 0x14C (decVec .vsra),
    rowV 0x14D (fun x => (IntCond.of? (field x.fn 0 3)).bind fun cond =>
      req (x.c == 0 && x.fn < 8) (.vcmp ⟨x.g, x.d, x.a, x.b, x.tp, x.mp, x.xb⟩ cond)),
    rowV 0x14E (fun x => req (x.fn == 0) (.vmerge ⟨x.g, x.d, x.a, x.b, x.tp, x.mp, x.xb⟩ x.c)),
    rowV 0x14F (decVecU .vadds),
    rowV 0x150 (decVecU .vsubs),
    rowV 0x151 (decVecUn fun u fn => (NarrowKind.of? fn).map (.vnarrow u)),
    rowV 0x152 (decVecUn fun u fn => req (fn < 2) (.vwiden u (bitAt fn 0))),
    rowV 0x153 (decVecUn fun u fn => req (u.a == 0 && fn == 0) (.vid u.g u.d u.tp u.mp)),
    rowV 0x154 (decVecU .vdiv),
    rowV 0x155 (decVecU .vrem) ]

/-- Vector floating point. -/
def rowsVecFp : List OpRow :=
  [ rowV 0x180 (decVecFp .vfadd),
    rowV 0x181 (decVecFp .vfsub),
    rowV 0x182 (decVecFp .vfmul),
    rowV 0x183 (fun x => (Rnd.of? (field x.fn 0 3)).bind fun r => (FmaKind.of? (field x.fn 4 3)).bind fun k =>
      req (x.fn < 128) (.vfma ⟨x.g, x.d, x.a, x.b, x.tp, x.mp, x.xb⟩ x.c k (bitAt x.fn 3) r)),
    rowV 0x184 (decVecFp .vfdiv),
    rowV 0x185 (decVecFpUn .vfsqrt),
    rowV 0x186 (decVecAlt .vfmin),
    rowV 0x187 (decVecAlt .vfmax),
    rowV 0x188 (fun x => (FpCond.of? (field x.fn 4 3)).bind fun cond =>
      req (x.c == 0 && x.fn < 128 && field x.fn 0 3 == 0)
        (.vfcmp ⟨x.g, x.d, x.a, x.b, x.tp, x.mp, x.xb⟩ cond (bitAt x.fn 3))),
    rowV 0x189 (decVecUn fun u fn => (CvtType.of? (field fn 0 3)).bind fun src =>
      (CvtType.of? (field fn 3 3)).bind fun dst => (Rnd.of? (field fn 6 3)).bind fun r =>
        req (src != dst) (.vfcvt u src dst r)),
    rowV 0x18A (decVecFpUn .vfexp2),
    rowV 0x18B (decVecFpUn .vflog2),
    rowV 0x18C (fun x => (SgnKind.of? (field x.fn 4 3)).bind fun k =>
      req (x.c == 0 && x.fn < 128 && field x.fn 0 3 == 0)
        (.vfsgn ⟨x.g, x.d, x.a, x.b, x.tp, x.mp, x.xb⟩ k (bitAt x.fn 3))),
    rowV 0x18D (fun x => (Rnd.of? (field x.fn 0 3)).bind fun r =>
      req (!x.tp && !x.mp && !x.xb && x.b == 0 && x.fn < 32) (.vmxq x.g x.d x.a x.c (bitAt x.fn 4) (bitAt x.fn 3) r)),
    rowV 0x18E (decVecUn fun u fn => req (fn == 0 || fn == 8) (.vfclass u (bitAt fn 3))) ]

/-- Reductions, permutes and moves. -/
def rowsVecPerm : List OpRow :=
  [ rowV 0x1C0 (fun x => (redOf x).bind fun r => req (x.fn < 2) (.vredsum r (bitAt x.fn 0))),
    rowV 0x1C1 (fun x => (redOf x).bind fun r => (rndAlt x.fn).map fun ar => .vfredsum r ar.1 ar.2),
    rowV 0x1C2 (decRedExt .vredmax),
    rowV 0x1C3 (decRedExt .vredmin),
    rowV 0x1C4 (fun x => (kindAlt x.fn).bind fun ka =>
      req (!x.tp && !x.mp && x.c == 0 && !x.xb && x.b == 0) (.vargmax x.g x.d x.a ka.1 ka.2)),
    rowV 0x1C5 (decSlide .vslideup),
    rowV 0x1C6 (decSlide .vslidedn),
    rowV 0x1C7 (decVec .vperm),
    rowV 0x1C8 (fun x => req (x.g.reg == 0 && !x.g.neg && !x.mp && x.b == 0 && !x.xb && x.fn == 0)
      (.vcompress x.d x.a x.c x.tp)),
    rowV 0x1C9 (fun x => req (x.xb && x.a == 0 && x.c == 0 && x.fn == 0) (.vbcast x.g x.d x.b x.tp x.mp)),
    rowV 0x1CA (fun x => req (x.xb && !x.tp && !x.mp && x.c == 0 && x.fn == 0) (.vmvsv x.g x.d x.a x.b)),
    rowV 0x1CB (fun x => req (x.xb && !x.tp && !x.mp && x.c == 0 && x.fn < 2) (.vmvvs x.g x.d x.a x.b (bitAt x.fn 0))),
    rowV 0x1CC (decVecUn fun u fn => req (fn == 0) (.viota u)),
    rowV 0x1CD (decVecUn fun u fn => req (fn == 0) (.vmv u)) ]

/-- Matrix, 0x200 to 0x23F. -/
def rowsMatrix : List OpRow :=
  [ rowI 0x200 (fun x => (TdField.of? x.fn5).map fun f => .tdset x.g x.d x.a f x.imm),
    rowI 0x201 (fun x => (TdField.of? x.fn5).bind fun f => req (x.imm == 0) (.tdget x.g x.d x.a f)),
    rowI 0x202 decKset,
    rowA 0x203 (fun x => req (x.c == 0 && x.fn < 2) (.mzero x.g x.d x.a x.b (bitAt x.fn 0))),
    rowM 0x204 (fun x => (mmaOf x).bind fun m => req (x.qm == 0) (.mma m)),
    rowM 0x205 (fun x => (mmaOf x).map fun m => .mmaq m x.qm),
    rowE 0x206 (fun x => req (x.b == 0 && x.c == 0 && x.fn == 0 && x.map == 0 && x.q == 0) (.maccld x.g x.d x.a)),
    rowE 0x207 (fun x => (ElemFmt.of? (field x.fn 2 5)).bind fun f =>
      req (x.b == 0 && x.c == 0 && x.map == 0 && x.q == 0 && x.fn < 128 && field x.fn 0 2 < 2 && f != .vq2x)
        (.maccst x.g x.d x.a (bitAt x.fn 0) f)),
    rowV 0x208 (fun x => req (x.xb && x.c == 0 && x.fn < 2) (.maccv x.g x.d x.a x.b x.tp x.mp (bitAt x.fn 0))),
    rowE 0x209 (fun x => (Space.of? x.fn).bind fun sp =>
      req (x.d == 0 && x.b == 0 && x.c == 0 && x.map == 0 && x.q == 0 && sp != .d) (.mcode x.g x.a sp)),
    rowA 0x20A (fun x => req (x.b == 0 && x.c == 0 && x.fn == 0) (.mwait x.g x.d x.a)),
    rowA 0x20B (fun x => if x.fn == 0 then req (x.b == 0 && x.c == 0) (.mstat x.g x.d x.a false false)
      else req (x.a == 0 && x.b == 0 && x.c == 0 && (x.fn == 1 || x.fn == 3)) (.mstat x.g x.d 0 true (bitAt x.fn 1))) ]

/-- Copy engine, 0x240 to 0x27F. -/
def rowsCopy : List OpRow :=
  [ rowE 0x240 decCpy,
    rowE 0x241 decCpym,
    rowE 0x242 decCgather,
    rowE 0x243 decCscatter,
    rowE 0x244 (fun x => (mapOf x).bind fun m => req (x.d == 0) (.cmapwt m)),
    rowE 0x245 (fun x => (mapOf x).map fun m => .cmaptst m x.d),
    rowE 0x246 (fun x => (mapOf x).bind fun m => req (x.d == 0) (.cmapclr m)),
    rowE 0x247 (fun x => (DrainPath.of? x.fn).bind fun p => req (onlyD x) (.cdrain x.g x.d p)),
    rowE 0x248 (fun x => req (onlyD x && x.d == 0 && x.fn != 0 && x.fn < 16) (.qfence x.g x.fn)),
    rowE 0x249 decCfill,
    rowE 0x24A (fun x => req (onlyD x && x.fn < 2) (.cstat x.g x.d (bitAt x.fn 0))) ]

/-- Stages, 0x280 to 0x2BF. -/
def rowsStage : List OpRow :=
  [ rowA 0x280 (fun x => req (x.a == 0 && x.b == 0 && x.fn == 0) (.deq x.g x.d x.c)),
    rowA 0x281 (fun x => req (x.b == 0 && x.fn == 0) (.deqt x.g x.d x.a x.c)),
    rowA 0x282 (fun x => req (x.d == 0 && x.b == 0 && x.c == 0 && x.fn == 0) (.enq x.g x.a)),
    rowV 0x283 (fun x => req (x.b == 0 && x.c == 0 && !x.tp && !x.mp && !x.xb && x.fn == 0) (.chw x.g x.d x.a)),
    rowA 0x284 (fun x => req (x.c == 0 && x.fn == 0) (.chws x.g x.d x.a x.b)),
    rowA 0x285 (decNone .commit),
    rowA 0x286 (fun x => req (x.d == 0 && x.a == 0 && x.b == 0 && x.c == 0 && x.fn < 2) (.abort x.g (bitAt x.fn 0))),
    rowI 0x287 (fun x => req (x.imm == 0) (.widx x.g x.d x.a x.fn5)),
    rowA 0x288 (fun x => req (x.a == 0 && x.b == 0 && x.fn == 0 && x.c < 16) (.bara x.g x.d x.c)),
    rowA 0x289 (fun x => req (x.d == 0 && x.b == 0 && x.fn == 0 && x.c < 16) (.barw x.g x.a x.c)),
    rowA 0x28A (fun x => req (x.d == 0 && x.b == 0 && x.fn == 0 && x.c < 16) (.bari x.g x.a x.c)),
    rowL 0x28B (fun x => (memOf x).bind fun m =>
      req (x.sp != 3 && x.xs == 0 && !x.sx && (x.sz == 2 || x.sz == 3) && x.ord < 2) (.sigwait m (x.ord == 1))),
    rowL 0x28C (decMem .sigwake (fun x => x.sp != 3 && x.xs == 0 && x.sz == 0 && x.d == 0 && x.b == 0)),
    rowA 0x28D decChstat,
    rowA 0x28E (fun x => req (x.d == 0 && x.b == 0 && x.c == 0 && x.fn == 0) (.switch x.g x.a)) ]

/-- Stipple, 0x2C0 to 0x2FF: C names se0 to se3 (12 R230). -/
def rowsStipple : List OpRow :=
  [ rowA 0x2C0 (fun x => req (x.d == 0 && x.fn < 2 && x.c < 4) (.spinit x.g x.a x.b x.c (bitAt x.fn 0))),
    rowA 0x2C1 (fun x => req (x.a == 0 && x.fn == 0 && x.c < 4) (.spnext x.g x.d x.b x.c)),
    rowA 0x2C2 (fun x => req (x.b == 0 && x.fn < 2 && x.c < 4) (.spacc x.g x.d x.a x.c (bitAt x.fn 0))),
    rowA 0x2C3 (fun x => (EstReg.of? x.fn).bind fun r => req (x.a == 0 && x.b == 0 && x.c < 4) (.spstat x.g x.d x.c r)),
    rowA 0x2C4 (fun x => (EstParam.of? x.fn).bind fun p => req (x.d == 0 && x.b == 0 && x.c < 4) (.sptol x.g x.a x.c p)),
    rowA 0x2C5 (fun x => req (x.d == 0 && x.a == 0 && x.b == 0 && x.fn == 0 && x.c < 4) (.spstop x.g x.c)),
    rowA 0x2C6 (fun x => req (x.b == 0 && x.fn == 0 && x.c < 4) (.spwait x.g x.d x.a x.c)) ]

/-- Fabric and sessions, 0x300 to 0x37F. -/
def rowsFabric : List OpRow :=
  [ rowA 0x300 (fun x => req (x.c == 0 && x.fn < 2) (.lease x.g x.d x.a x.b (bitAt x.fn 0))),
    rowA 0x301 (fun x => req (x.c == 0 && x.fn == 0) (.unlease x.g x.d x.a x.b)),
    rowA 0x302 (fun x => req (x.b == 0 && x.c == 0 && x.fn == 0) (.leaseq x.g x.d x.a)),
    rowA 0x303 (fun x => req (x.b == 0 && x.c == 0 && x.fn < 4 && (x.fn == 1 || x.fn == 2 || x.a == 0))
      (.podid x.g x.d x.a x.fn)),
    rowE 0x340 (fun x => req (x.map == 0 && x.fn < 16) (.cdec x.g x.d x.a x.b x.c x.fn x.q)),
    rowE 0x341 (fun x => req (x.map == 0 && x.fn == 0) (.cenc x.g x.d x.a x.b x.c x.q)),
    rowA 0x342 (fun x => req (x.c == 0 && x.fn == 0) (.usage x.g x.d x.a x.b)),
    rowA 0x343 (fun x => req (x.b == 0 && x.c == 0 && x.fn < 4) (.sessinfo x.g x.d x.a x.fn)),
    rowA 0x344 (fun x => (Space.of? x.fn).bind fun sp => req (x.b == 0 && x.c == 0 && sp != .d) (.grchk x.g x.d x.a sp)) ]

/-- The whole opcode map, 191 rows. -/
def opcodeMap : List OpRow :=
  rowsControl ++ rowsInteger ++ rowsFloat ++ rowsMemory ++ rowsVecMem ++ rowsVecInt ++ rowsVecFp ++ rowsVecPerm ++
    rowsMatrix ++ rowsCopy ++ rowsStage ++ rowsStipple ++ rowsFabric

/-- What decoding a word can give: an instruction, or the cause of step 1 or step 2 of 03 R61. -/
inductive Decoded
  | instr (i : Instr)
  | illegalOp
  | illegalEnc
  deriving DecidableEq, Repr

/-- The decoder of one opcode, if the opcode is defined. -/
def opcodeDecoder (op : Nat) : Option (Nat → Option Instr) := (opcodeMap.find? fun r => r.1 == op).map (·.2)

/-- Decodes a 64-bit word (03 R61, steps 1 and 2). -/
def decode (w : Nat) : Decoded :=
  match opcodeDecoder (field w 54 10) with
  | none => .illegalOp
  | some f => match f w with
    | none => .illegalEnc
    | some i => .instr i

/-- The little-endian value of a list of bytes, lowest address first (00 R3). -/
def leValue : List Byte → Nat
  | [] => 0
  | b :: r => b.toNat + 256 * leValue r

/-- The low `n` bytes of `v`, lowest address first (00 R3). -/
def leBytes : Nat → Nat → List Byte
  | 0, _ => []
  | n + 1, v => BitVec.ofNat 8 v :: leBytes n (v / 256)

/-- Decodes the eight bytes of an instruction as memory holds them (03 R54). -/
def decodeBytes (bs : List Byte) : Decoded := decode (leValue bs)

/-- The instruction that the decoder reads from a word of the opcode table: the words have 64 bits, `w` in bits
`nbits - 1 : 0` and zeros above. -/
def decodeTableWord (nbits w : Nat) : Option Instr :=
  match decodeBytes (leBytes 8 (w % 2 ^ nbits)) with
  | .instr i => some i
  | _ => none

/-! ## The encoder -/

/-- The common head of a word (03 R55). -/
def joinHead (op : Nat) (g : Guard) (d a : Nat) : Nat :=
  op * 2 ^ 54 + g.reg * 2 ^ 50 + boolNat g.neg * 2 ^ 49 + d * 2 ^ 43 + a * 2 ^ 37

def joinA (op : Nat) (g : Guard) (d a b c fn : Nat) : Nat :=
  joinHead op g d a + b * 2 ^ 31 + c * 2 ^ 25 + fn * 2 ^ 16
def joinI (op : Nat) (g : Guard) (d a fn5 imm : Nat) : Nat := joinHead op g d a + fn5 * 2 ^ 32 + imm
def joinL (op : Nat) (x : MemForm) (ord xs : Nat) (sx : Bool) : Nat :=
  joinHead op x.g x.d x.a + x.b * 2 ^ 31 + x.sp.code * 2 ^ 28 + x.m * 2 ^ 26 + x.sz.code * 2 ^ 23 + ord * 2 ^ 20 +
    xs * 2 ^ 18 + boolNat sx * 2 ^ 17 + x.off
def joinV (op : Nat) (g : Guard) (d a b c : Nat) (tp mp xb : Bool) (fn : Nat) : Nat :=
  joinHead op g d a + b * 2 ^ 31 + c * 2 ^ 25 + boolNat tp * 2 ^ 24 + boolNat mp * 2 ^ 23 + boolNat xb * 2 ^ 22 +
    fn * 2 ^ 13
def joinM (op : Nat) (x : MmaForm) (qm : Nat) : Nat :=
  joinHead op x.g x.d x.a + x.b * 2 ^ 31 + x.ka * 2 ^ 27 + x.kb * 2 ^ 23 + x.mode.code * 2 ^ 20 + qm * 2 ^ 16
def joinE (op : Nat) (g : Guard) (d a b c fn map q : Nat) : Nat :=
  joinHead op g d a + b * 2 ^ 31 + c * 2 ^ 25 + fn * 2 ^ 16 + map * 2 ^ 10 + q * 2 ^ 8
def joinX (op : Nat) (g : Guard) (d a srn : Nat) : Nat := joinHead op g d a + srn * 2 ^ 25

def encAlu (op : Nat) (x : AluForm) : Nat :=
  joinA op x.g x.d x.a x.b 0 (boolNat x.w + 2 * boolNat x.u + 4 * boolNat x.sat)
def encFp (op : Nat) (x : FpForm) (c opx : Nat) : Nat :=
  joinA op x.g x.d x.a x.b c (x.fmt.code + 4 * x.rnd.code + 32 * opx)
def encVec (op : Nat) (x : VecForm) (c fn : Nat) : Nat := joinV op x.g x.d x.a x.b c x.tp x.mp x.xb fn
def encVecUn (op : Nat) (x : VecUn) (fn : Nat) : Nat := joinV op x.g x.d x.a 0 0 x.tp x.mp false fn
def encRed (op : Nat) (x : RedForm) (fn : Nat) : Nat := joinV op x.g x.d x.a x.b 0 false false x.xb fn
def encCopy (op : Nat) (x : CopyForm) (fn : Nat) : Nat := joinE op x.g x.d x.a x.b x.c fn x.map x.q
def encMap (op : Nat) (x : MapForm) (d : Nat) : Nat := joinE op x.g d x.a x.b 0 (boolNat x.wd) x.map 0
def fpFn (opx : Nat) (alt : Bool) (r : Rnd) : Nat := r.code + 8 * boolNat alt + 16 * opx
def noGuard : Guard := ⟨0, false⟩

/-- The word of an instruction; an event has none. -/
def encode : Instr → Option Nat
  | .nop g => some (joinA 0x001 g 0 0 0 0 0)
  | .br g h off => some (joinI 0x002 g 0 0 h.code off)
  | .brx g a h => some (joinA 0x003 g 0 a 0 0 h.code)
  | .call g d h off => some (joinI 0x004 g d 0 h.code off)
  | .callx g d a h => some (joinA 0x005 g d a 0 0 h.code)
  | .ret g a h => some (joinA 0x006 g 0 a 0 0 h.code)
  | .loop g a h off => some (joinI 0x007 g 0 a h.code off)
  | .exit g => some (joinA 0x008 g 0 0 0 0 0)
  | .yield g => some (joinA 0x009 g 0 0 0 0 0)
  | .waitp g a => some (joinA 0x00A g 0 a 0 0 0)
  | .trap g imm => some (joinI 0x00B g 0 0 0 imm)
  | .svc g imm => some (joinI 0x00C g 0 0 0 imm)
  | .brk g imm => some (joinI 0x00D g 0 0 0 imm)
  | .getsr g d srn => some (joinX 0x00E g d 0 srn)
  | .setsr g a srn => some (joinX 0x00F g 0 a srn)
  | .tret g a => some (joinX 0x010 g 0 a 0)
  | .tlbinv g a sel => some (joinX 0x011 g 0 a sel)
  | .plateinv g a sel => some (joinX 0x012 g 0 a sel)
  | .chkpt g a act => some (joinX 0x013 g 0 a act)
  | .energy g d sel => some (joinX 0x014 g d 0 sel)
  | .add x => some (encAlu 0x040 x)
  | .sub x => some (encAlu 0x041 x)
  | .addi g d a w imm => some (joinI 0x042 g d a (boolNat w) imm)
  | .mul x => some (encAlu 0x043 x)
  | .mulh x => some (encAlu 0x044 x)
  | .div x => some (encAlu 0x045 x)
  | .rem x => some (encAlu 0x046 x)
  | .and x => some (encAlu 0x047 x)
  | .or x => some (encAlu 0x048 x)
  | .xor x => some (encAlu 0x049 x)
  | .logi g d a op zx imm => some (joinI 0x04A g d a (op.code + 4 * boolNat zx) imm)
  | .shl x => some (encAlu 0x04B x)
  | .shr x => some (encAlu 0x04C x)
  | .sra x => some (encAlu 0x04D x)
  | .shi g d a op w n => some (joinI 0x04E g d a (op.code + 4 * boolNat w) n)
  | .min x => some (encAlu 0x04F x)
  | .max x => some (encAlu 0x050 x)
  | .clz g d a w => some (joinA 0x051 g d a 0 0 (boolNat w))
  | .popc g d a w => some (joinA 0x052 g d a 0 0 (boolNat w))
  | .ctz g d a w => some (joinA 0x053 g d a 0 0 (boolNat w))
  | .sel g d a b c pn => some (joinA 0x054 g d a b c (boolNat pn))
  | .movi g d zx imm => some (joinI 0x055 g d 0 (boolNat zx) imm)
  | .movhi g d a imm => some (joinI 0x056 g d a 0 imm)
  | .extr g d a sx lo width => some (joinI 0x057 g d a (boolNat sx) (lo + 256 * (width - 1)))
  | .insr g d a lo width => some (joinI 0x058 g d a 0 (lo + 256 * (width - 1)))
  | .cmp g d a b cond w comb => some (joinA 0x059 g d a b 0 (cond.code + 8 * boolNat w + 16 * comb.code))
  | .cmpi g d a cond w imm => some (joinI 0x05A g d a (cond.code + 8 * boolNat w) imm)
  | .addpc g d imm => some (joinI 0x05B g d 0 0 imm)
  | .fadd x => some (encFp 0x080 x 0 0)
  | .fsub x => some (encFp 0x081 x 0 0)
  | .fmul x => some (encFp 0x082 x 0 0)
  | .fma x c k => some (encFp 0x083 x c k.code)
  | .fdiv x => some (encFp 0x084 x 0 0)
  | .fsqrt g d a r f => some (joinA 0x085 g d a 0 0 (f.code + 4 * r.code))
  | .fmin g d a b f => some (joinA 0x086 g d a b 0 f.code)
  | .fmax g d a b f => some (joinA 0x087 g d a b 0 f.code)
  | .fcmp g d a b f cond comb => some (joinA 0x088 g d a b 0 (f.code + 4 * cond.code + 32 * comb.code))
  | .fcvt g d a src dst r => some (joinA 0x089 g d a 0 0 (src.code + 8 * dst.code + 64 * r.code))
  | .fclass g d a f => some (joinA 0x08A g d a 0 0 f.code)
  | .fsgn g d a b k f => some (joinA 0x08B g d a b 0 (f.code + 32 * k.code))
  | .plog g d a b op => some (joinA 0x090 g d a b 0 op.code)
  | .pset g d a mode imm => some (joinI 0x091 g d a mode.code imm)
  | .pmov g d a b k => some (joinA 0x092 g d a b 0 k.code)
  | .pcount g d a range => some (joinA 0x093 g d a 0 0 (2 * boolNat range))
  | .pfirst g d a last range => some (joinA 0x094 g d a 0 0 (boolNat last + 2 * boolNat range))
  | .ld x o sx => some (joinL 0x0C0 x o.code x.xs sx)
  | .st x o => some (joinL 0x0C1 x o.code x.xs false)
  | .lda x sc => some (joinL 0x0C2 x sc.code x.xs false)
  | .strel x sc => some (joinL 0x0C3 x sc.code x.xs false)
  | .atom x o op => some (joinL 0x0C4 x o.code (op.code / 2) (op.code % 2 == 1))
  | .cas x o => some (joinL 0x0C5 x o.code 0 false)
  | .fence g k sc mask => some (joinA 0x0C6 g 0 0 0 0 (mask + 16 * sc.code + 128 * k.code))
  | .sbar g mask => some (joinA 0x0C7 g 0 0 0 0 mask)
  | .pref x => some (joinL 0x0C8 x 0 x.xs false)
  | .pin x => some (joinL 0x0C9 x 0 x.xs false)
  | .unpin x => some (joinL 0x0CA x 0 x.xs false)
  | .mcast x rel => some (joinL 0x0CB x (2 * boolNat rel) 0 false)
  | .vsetl g d a lg lew imm => some (joinI 0x100 g d a (4 * lg + lew) imm)
  | .vld x => some (joinL 0x101 x 0 0 false)
  | .vlds x => some (joinL 0x102 x 0 0 false)
  | .vldx x => some (joinL 0x103 x 0 x.xs false)
  | .vldff x => some (joinL 0x104 x 0 0 false)
  | .vst x => some (joinL 0x105 x 0 0 false)
  | .vsts x => some (joinL 0x106 x 0 0 false)
  | .vstx x => some (joinL 0x107 x 0 x.xs false)
  | .vldb x => some (joinL 0x108 x 0 0 false)
  | .vadd x => some (encVec 0x140 x 0 0)
  | .vsub x => some (encVec 0x141 x 0 0)
  | .vmul x => some (encVec 0x142 x 0 0)
  | .vmulh x u => some (encVec 0x143 x 0 (boolNat u))
  | .vmac x => some (encVec 0x144 x 0 0)
  | .vmin x u => some (encVec 0x145 x 0 (boolNat u))
  | .vmax x u => some (encVec 0x146 x 0 (boolNat u))
  | .vand x => some (encVec 0x147 x 0 0)
  | .vor x => some (encVec 0x148 x 0 0)
  | .vxor x => some (encVec 0x149 x 0 0)
  | .vshl x => some (encVec 0x14A x 0 0)
  | .vshr x => some (encVec 0x14B x 0 0)
  | .vsra x => some (encVec 0x14C x 0 0)
  | .vcmp x cond => some (encVec 0x14D x 0 cond.code)
  | .vmerge x c => some (encVec 0x14E x c 0)
  | .vadds x u => some (encVec 0x14F x 0 (boolNat u))
  | .vsubs x u => some (encVec 0x150 x 0 (boolNat u))
  | .vnarrow x k => some (encVecUn 0x151 x k.code)
  | .vwiden x sx => some (encVecUn 0x152 x (boolNat sx))
  | .vid g d tp mp => some (joinV 0x153 g d 0 0 0 tp mp false 0)
  | .vdiv x u => some (encVec 0x154 x 0 (boolNat u))
  | .vrem x u => some (encVec 0x155 x 0 (boolNat u))
  | .vfadd x alt r => some (encVec 0x180 x 0 (fpFn 0 alt r))
  | .vfsub x alt r => some (encVec 0x181 x 0 (fpFn 0 alt r))
  | .vfmul x alt r => some (encVec 0x182 x 0 (fpFn 0 alt r))
  | .vfma x c k alt r => some (encVec 0x183 x c (fpFn k.code alt r))
  | .vfdiv x alt r => some (encVec 0x184 x 0 (fpFn 0 alt r))
  | .vfsqrt x alt r => some (encVecUn 0x185 x (fpFn 0 alt r))
  | .vfmin x alt => some (encVec 0x186 x 0 (8 * boolNat alt))
  | .vfmax x alt => some (encVec 0x187 x 0 (8 * boolNat alt))
  | .vfcmp x cond alt => some (encVec 0x188 x 0 (fpFn cond.code alt .dyn))
  | .vfcvt x src dst r => some (encVecUn 0x189 x (src.code + 8 * dst.code + 64 * r.code))
  | .vfexp2 x alt r => some (encVecUn 0x18A x (fpFn 0 alt r))
  | .vflog2 x alt r => some (encVecUn 0x18B x (fpFn 0 alt r))
  | .vfsgn x k alt => some (encVec 0x18C x 0 (fpFn k.code alt .dyn))
  | .vmxq g d a c e5 alt r => some (joinV 0x18D g d a 0 c false false false (r.code + 8 * boolNat alt + 16 * boolNat e5))
  | .vfclass x alt => some (encVecUn 0x18E x (8 * boolNat alt))
  | .vredsum x u => some (encRed 0x1C0 x (boolNat u))
  | .vfredsum x alt r => some (encRed 0x1C1 x (fpFn 0 alt r))
  | .vredmax x k alt => some (encRed 0x1C2 x (k.code + 4 * boolNat alt))
  | .vredmin x k alt => some (encRed 0x1C3 x (k.code + 4 * boolNat alt))
  | .vargmax g d a k alt => some (joinV 0x1C4 g d a 0 0 false false false (k.code + 4 * boolNat alt))
  | .vslideup x b => some (joinV 0x1C5 x.g x.d x.a b 0 x.tp x.mp true 0)
  | .vslidedn x b => some (joinV 0x1C6 x.g x.d x.a b 0 x.tp x.mp true 0)
  | .vperm x => some (encVec 0x1C7 x 0 0)
  | .vcompress d a c tp => some (joinV 0x1C8 noGuard d a 0 c tp false false 0)
  | .vbcast g d b tp mp => some (joinV 0x1C9 g d 0 b 0 tp mp true 0)
  | .vmvsv g d a b => some (joinV 0x1CA g d a b 0 false false true 0)
  | .vmvvs g d a b sx => some (joinV 0x1CB g d a b 0 false false true (boolNat sx))
  | .viota x => some (encVecUn 0x1CC x 0)
  | .vmv x => some (encVecUn 0x1CD x 0)
  | .tdset g d a f imm => some (joinI 0x200 g d a f.code imm)
  | .tdget g d a f => some (joinI 0x201 g d a f.code 0)
  | .kset g d a .raw imm => some (joinI 0x202 g d a 0 imm)
  | .kset g d a .uni imm => some (joinI 0x202 g d a 1 imm)
  | .kset g d a (.addr sp) imm => some (joinI 0x202 g d a (2 + 4 * sp.code) imm)
  | .mzero g d a b int => some (joinA 0x203 g d a b 0 (boolNat int))
  | .mma x => some (joinM 0x204 x 0)
  | .mmaq x qm => some (joinM 0x205 x qm)
  | .maccld g d a => some (joinE 0x206 g d a 0 0 0 0 0)
  | .maccst g d a relu f => some (joinE 0x207 g d a 0 0 (boolNat relu + 4 * f.code) 0 0)
  | .maccv g d a b tp mp bf => some (joinV 0x208 g d a b 0 tp mp true (boolNat bf))
  | .mcode g a sp => some (joinE 0x209 g 0 a 0 0 sp.code 0 0)
  | .mwait g d a => some (joinA 0x20A g d a 0 0 0)
  | .mstat g d a st clr => some (joinA 0x20B g d a 0 0 (boolNat st + 2 * boolNat clr))
  | .cpy x dsp ssp => some (encCopy 0x240 x (dsp.code + 8 * ssp.code + 64 * boolNat x.nm))
  | .cpym x k mode which => some (encCopy 0x241 x (k + 16 * mode.code + 64 * boolNat which + 128 * boolNat x.nm))
  | .cgather x ssp => some (encCopy 0x242 x (1 + 8 * ssp.code + 64 * boolNat x.nm))
  | .cscatter x dsp => some (encCopy 0x243 x (dsp.code + 8 + 64 * boolNat x.nm))
  | .cmapwt x => some (encMap 0x244 x 0)
  | .cmaptst x d => some (encMap 0x245 x d)
  | .cmapclr x => some (encMap 0x246 x 0)
  | .cdrain g d p => some (joinE 0x247 g d 0 0 0 p.code 0 0)
  | .qfence g mask => some (joinE 0x248 g 0 0 0 0 mask 0 0)
  | .cfill x dsp => some (encCopy 0x249 x (dsp.code + 64 * boolNat x.nm))
  | .cstat g d clr => some (joinE 0x24A g d 0 0 0 (boolNat clr) 0 0)
  | .deq g d c => some (joinA 0x280 g d 0 0 c 0)
  | .deqt g d a c => some (joinA 0x281 g d a 0 c 0)
  | .enq g a => some (joinA 0x282 g 0 a 0 0 0)
  | .chw g d a => some (joinV 0x283 g d a 0 0 false false false 0)
  | .chws g d a b => some (joinA 0x284 g d a b 0 0)
  | .commit g => some (joinA 0x285 g 0 0 0 0 0)
  | .abort g drop => some (joinA 0x286 g 0 0 0 0 (boolNat drop))
  | .widx g d a k => some (joinI 0x287 g d a k 0)
  | .bara g d c => some (joinA 0x288 g d 0 0 c 0)
  | .barw g a c => some (joinA 0x289 g 0 a 0 c 0)
  | .bari g a c => some (joinA 0x28A g 0 a 0 c 0)
  | .sigwait x acq => some (joinL 0x28B x (boolNat acq) 0 false)
  | .sigwake x => some (joinL 0x28C x 0 0 false)
  | .chstat g d .item => some (joinA 0x28D g d 0 0 0 0)
  | .chstat g d (.inp n) => some (joinA 0x28D g d n 0 0 1)
  | .chstat g d .cfg => some (joinA 0x28D g d 0 0 0 2)
  | .switch g a => some (joinA 0x28E g 0 a 0 0 0)
  | .spinit g a b c fin => some (joinA 0x2C0 g 0 a b c (boolNat fin))
  | .spnext g d b c => some (joinA 0x2C1 g d 0 b c 0)
  | .spacc g d a c f32 => some (joinA 0x2C2 g d a 0 c (boolNat f32))
  | .spstat g d c r => some (joinA 0x2C3 g d 0 0 c r.code)
  | .sptol g a c p => some (joinA 0x2C4 g 0 a 0 c p.code)
  | .spstop g c => some (joinA 0x2C5 g 0 0 0 c 0)
  | .spwait g d a c => some (joinA 0x2C6 g d a 0 c 0)
  | .lease g d a b nw => some (joinA 0x300 g d a b 0 (boolNat nw))
  | .unlease g d a b => some (joinA 0x301 g d a b 0 0)
  | .leaseq g d a => some (joinA 0x302 g d a 0 0 0)
  | .podid g d a sel => some (joinA 0x303 g d a 0 0 sel)
  | .cdec g d a b c p q => some (joinE 0x340 g d a b c p 0 q)
  | .cenc g d a b c q => some (joinE 0x341 g d a b c 0 0 q)
  | .usage g d a b => some (joinA 0x342 g d a b 0 0)
  | .sessinfo g d a sel => some (joinA 0x343 g d a 0 0 sel)
  | .grchk g d a sp => some (joinA 0x344 g d a 0 0 sp.code)
  | _ => none

end Sys2Proof
end

