-- ==== Sys2Proof/Machine/State.lean ====
section
/-! DEFINITION. The state of one Oslas device as plain data: strands, cores, dies, package, fabric and Hallmark, with the
outcomes of a step and the state after reset. -/

namespace Sys2Proof.Machine

/-- The faults of the model. `emptySlot` is raised by `exec` when no strand stands at the slot that `focus` names; it is
safe: the hardware has nothing to execute there, and every trap of the spec is a next state. -/
inductive Fault
  | emptySlot
  deriving DecidableEq, Repr

/-- The refusals of the model. `notModelled` is raised by an arm of `exec` without a meaning; it is safe, because the
machine stops. -/
inductive Refusal
  | notModelled (mnemonic : String)
  deriving DecidableEq, Repr

/-! ## The state of a strand -/

/-- A tile descriptor (01 R17). -/
structure Td where
  base : Word
  spfmt : Word
  rows : Word
  cols : Word
  stride : Word
  scalebase : Word
  device : Word
  deriving DecidableEq, Repr

/-- The register files and the system registers of a strand (01 R10, R25, R26). A q register holds the packets that have
arrived; its presence bit is that it is not empty (01 R15). -/
structure Regs where
  s : Vector Word 64
  v : Vector (BitVec 2048) 32
  p : Vector (BitVec 2048) 16
  q : Vector (List (BitVec 2048)) 16
  k : Vector Word 16
  td : Vector Td 16
  acc : Vector Word 16
  vl : Word
  vtype : Word
  fpctl : Word
  fpflags : Word
  deriving DecidableEq, Repr

/-- The register counts and channel counts a stage declares (01 R21, 14 R247). -/
structure Decls where
  s : Nat
  v : Nat
  p : Nat
  k : Nat
  td : Nat
  acc : Nat
  nin : Nat
  nout : Nat
  deriving DecidableEq, Repr

/-- One byte written under an item: its physical address and its value (10 R199). -/
abbrev LogByte := Nat × Byte

/-- A space-D write of an item's log (10 R199, R200). -/
structure PodWrite where
  dev : Nat
  va : Nat
  data : List Byte
  deriving DecidableEq, Repr

/-- A session update of an item's log (15 R285). -/
inductive SessLog
  | rxhi (slot world ctr : Nat)
  | usage (slot world amount : Nat)
  deriving DecidableEq, Repr

/-- The write log of an item (10 R199): its bytes in G, the virtual ranges they were stored to, the lines that they leave
poisoned, its sectors and reservations, and its other parts. -/
structure WriteLog where
  mem : List LogByte
  ranges : List (Nat × Nat)
  bad : List Nat
  sectors : List Nat
  reserved : Nat
  pod : List PodWrite
  chan : List (Nat × List Byte)
  enqs : List Word
  switch : Option Word
  spaccs : List (Nat × Nat)
  sess : List SessLog
  deriving DecidableEq, Repr

/-- An item in a work queue (10 R195). -/
structure Item where
  id : Word
  firing : Option Nat
  replay : Nat
  deriving DecidableEq, Repr

/-- The item a strand holds, with the CONFIG in force for it and its log (10 R195, R204, R199). -/
structure Held where
  item : Item
  config : Word
  log : WriteLog
  deriving DecidableEq, Repr

/-- Where the value of a waiting space-D access goes (05 R93, R98, R103, R104; 06 R119). `own` says that a load reads the
strand's own logged bytes (05 R100). `fails` is a vector load of which a higher element than those sent has failed here: its
trap comes when no lower one is refused. -/
inductive ReplyDest
  | scalar (d : Nat) (bytes : Nat) (sx own : Bool)
  | vector (d : Nat) (ew : Nat) (elems : List Nat) (broadcast : Bool)
  | pin (d : Nat)
  | fails (cause addr info : Nat)
  deriving DecidableEq, Repr

/-- A wait that has issued and not completed (04 R86; 10 R196, R206, R208; 07 R165; 09 R186, R188; 12 R230; 15 R284). The
`sent` of a COMMIT are the devices whose replies are due, one entry for each. -/
inductive Wait
  | waitp (until_ : Nat)
  | deq (d c : Nat) (limit : Option Nat) (since : Nat)
  | barw (bar gen since : Nat)
  | sigwait (sp : Space) (d : Nat) (ea bytes : Nat) (comparand : Nat) (acq woken : Bool) (since : Nat)
  | mwait (d limit since : Nat)
  | cmapwt (map : Nat) (mask : Nat) (since : Nat)
  | cdrain (d : Nat) (path : DrainPath) (upTo since : Nat)
  | commit (sent : List Nat) (refused : Option (Nat × Nat)) (phase : Nat) (published : Bool) (since : Nat)
  | remote (reqid dev : Nat) (vas : List Nat) (dest : ReplyDest) (left : List Nat) (got : List (Nat × Nat × List Nat))
  | spnext (est d b : Nat)
  | spacc (est d value : Nat)
  | spstat (est d : Nat) (sel : EstReg)
  | spwait (est d epoch : Nat) (limit : Option Nat) (since : Nat)
  | cdec (d a n slot p : Nat) (q : Nat) (before : Nat)
  | cenc (d a n slot : Nat) (q : Nat) (before : Nat)
  | usage (d slot amount : Nat)
  | sessinfo (d slot sel : Nat)
  | chkpt (inst : Nat)
  | exit
  deriving DecidableEq, Repr

/-- A suspension record of the frame: the virtual PC of the operation, its handle or queue and its first unfinished unit
or chunk (17 R311). -/
structure Prog where
  vpc : Word
  owner : Nat
  unit : Nat
  deriving DecidableEq, Repr

/-- A trap frame (17 R311). -/
structure Frame where
  cause : Nat
  vpc : Word
  addr : Word
  info : Word
  resume : Nat
  waited : Bool
  mprog : Option Prog
  cprog : Option Prog
  toDebugger : Bool
  deriving DecidableEq, Repr

/-- A suspension of a matrix operation or a copy, as it parks a strand or waits to (17 R313). -/
structure Susp where
  cause : Nat
  addr : Word
  info : Word
  matrix : Bool
  prog : Prog
  deriving DecidableEq, Repr

/-- A posted space-D store that is open: the device, the stream, the address and the tag, and for a member's part of an MCAST
the root that sends it (05 R93, R106, R109). -/
structure PostedStore where
  dev : Nat
  stream : Nat
  va : Nat
  tag : Nat
  root : Option Nat
  deriving DecidableEq, Repr

/-- Element progress of a stopped VLDX, VSTX or VLDFF (06 R120, R121). -/
structure VProg where
  elem : Nat
  loaded : Bool
  deriving DecidableEq, Repr

/-- The operations of the matrix engine (07 R145). -/
inductive MatKind
  | mma | mmaq (qm count : Nat) | maccld | maccst (relu : Bool) (fmt : ElemFmt) | mcode (sp : Space) (addr : Nat)
  deriving DecidableEq, Repr

/-- An outstanding matrix operation with everything it captured at issue (07 R145, R154, R160). `due` is the last local cycle
in which the partners of an MMAQ may issue, and `left` the cycles that are left while that time stands still (07 R158; 16
R308). `lost` holds when the item that it was issued under is gone, and its log with it (10 R201). -/
structure MatOp where
  id : Nat
  kind : MatKind
  vpc : Word
  handle : Option Nat
  a : Td
  b : Td
  ka : Word
  kb : Word
  mode : MmaMode
  mask : BitVec 2048
  fpctl : Word
  due : Nat
  left : Option Nat
  join : Option Nat
  copy : Option Nat
  underItem : Bool
  lost : Bool
  begun : Bool
  progress : Nat
  suspended : Bool
  poison : Option Nat
  vals : List Nat
  deriving DecidableEq, Repr

/-- A failed copy that no CDRAIN has reported yet (09 R188). -/
structure FailedCopy where
  num : Nat
  dst : Space
  deriving DecidableEq, Repr

/-- Matrix status: LASTCAUSE, MPOISON and MFLAGS (07 R165). -/
structure MxStatus where
  lastCause : Nat
  poison : Bool
  flags : Nat
  deriving DecidableEq, Repr

/-- Copy status: LASTCAUSE, JOINFAIL and FAILQ (09 R189). -/
structure CpStatus where
  lastCause : Nat
  joinFail : Bool
  failQ : Nat
  deriving DecidableEq, Repr

/-- Why the instruction of a strand does not issue: too few packets of a channel, a full copy queue, or another of the
conditions that its entry names (16 R305). -/
inductive Stall
  | packets | queue | other
  deriving DecidableEq, Repr

/-- Where a strand stands: issuing or waiting, or stopped by a checkpoint or kill (10 R210). -/
inductive Phase
  | live | stopped
  deriving DecidableEq, Repr

/-- A strand (01 R10, R25, R28 and the rules that each field names). `fenceFails` are the copies, each with its queue, that have failed on
its core and were issued since its last QFENCE (09 R187); `kept` holds packets consumed by an instruction that has
not completed (06 R141); `dissolved` lists the MMAQs of a team that timed out before this member issued (07 R158); `spilled`
holds the cells of regions to reload (17 R322); `again` is the tag under which an abandoned space-D ATOM or CAS issues again
(05 R110); `serial` numbers the strands that this device has started, so that the reply tags of two strands differ; `unacked`
are the posted space-D stores that are neither performed nor refused as far as this device knows (05 R93, R106; 19 R358). -/
structure Strand where
  at_ : SlotId
  super : Bool
  inst : Nat
  launch : Nat
  world : Nat
  cls : Nat
  entry : Word
  decls : Decls
  widths : List Nat
  regs : Regs
  pc : Word
  workid : Word
  held : Option Held
  mx : MxStatus
  ops : List MatOp
  nextOp : Nat
  mmaqCounts : List (Nat × Nat)
  dissolved : List (Nat × Nat)
  spilled : List (Nat × List Nat)
  cp : CpStatus
  failed : List FailedCopy
  fenceMark : Nat
  fenceFails : List (Nat × Nat)
  epochJoin : Option Nat
  refusals : List (Nat × Nat)
  counted : List (Nat × Nat × Nat)
  unacked : List PostedStore
  serial : Nat
  nextReq : Nat
  wait : Option Wait
  frame : Option Frame
  pending : List Susp
  vprog : Option VProg
  kept : List (Nat × List (BitVec 2048))
  consumed : List Nat
  again : Option Nat
  phase : Phase
  readyAt : Nat
  lastIssue : Nat
  urgent : Bool
  bankStall : Bool
  stall : Option Stall
  deriving DecidableEq, Repr

/-! ## The state of a core -/

/-- The copies (09 R178). -/
inductive CopyKind
  | cpy | cfill (pattern : Word) | cgather (list : Nat) (count rowb : Nat) | cscatter (list : Nat) (count rowb : Nat)
  | cpym (src dst : Td) (isA : Bool)
  deriving DecidableEq, Repr

/-- A copy in its queue, with everything it captured at issue (09 R177 to R185). `homes` are the cores in whose queues it has
stood, `asked` is the walk byte up to which its READs have been sent, and `asks` are those of them whose bytes have not all
landed: the walk byte and the length of each (21 R377). -/
structure CopyOp where
  num : Nat
  homes : List CoreId
  asked : Nat
  asks : List (Nat × Nat)
  owner : SlotId
  inst : Nat
  launch : Nat
  world : Nat
  vpc : Word
  kind : CopyKind
  dsp : Space
  ssp : Space
  dst : Nat
  src : Nat
  len : Nat
  dev : Nat
  map : Option Nat
  q : Nat
  joins : List Nat
  underItem : Bool
  lost : Bool
  begun : Bool
  landed : List Nat
  suspended : Bool
  poisoned : Bool
  grotto : Bool
  deriving DecidableEq, Repr

/-- A QFENCE join that is still open or has finished: the serial number of its strand, its queues, the copies it waits for and
whether it failed (09 R187). -/
structure Join where
  id : Nat
  owner : Nat
  queues : Nat
  waits : List Nat
  mark : Nat
  failed : Bool
  done : Bool
  deriving DecidableEq, Repr

/-- Who holds a region of the accumulator store: a handle of a strand, or the tag of a saved stage (07 R142; 17 R322). -/
inductive RegionOwner
  | handle (s : SlotId) (h : Nat)
  | tagged (inst : Nat) (s : SlotId) (h : Nat)
  deriving DecidableEq, Repr

/-- A region of the accumulator store (07 R142). -/
structure Region where
  base : Nat
  size : Nat
  owner : RegionOwner
  deriving DecidableEq, Repr

/-- The four states of a register bank (01 R23, R24). -/
inductive BankState
  | gated | powered | retention | waking (since : Nat)
  deriving DecidableEq, Repr

/-- A register bank: its state and the local cycle of the last issue that named it (01 R24). -/
structure Bank where
  state : BankState
  last : Nat
  deriving DecidableEq, Repr

/-- A cached translation, tagged by world (17 R317). -/
structure TlbEntry where
  world : Nat
  va : Nat
  size : Nat
  pa : Nat
  pte : Nat
  level : Nat
  deriving DecidableEq, Repr

/-- The debug window of a core (17 R324). `stepping` holds from a STEP to the instruction that it lets issue; copies with
numbers below `mark` were issued before the halt (17 R325). -/
structure Debug where
  stepslot : Nat
  drain : Bool
  halt : Bool
  attach : Bool
  brkpend : List SlotId
  quiet : Bool
  halted : Bool
  addr : Word
  data : Word
  rstat : Nat
  stepping : Bool
  mark : Nat
  deriving DecidableEq, Repr

/-- The grotto bit of a stripe: the stage instances whose copies marked it, and the packages that its bytes came from (09
R175; 15 R271). -/
structure GrottoStripe where
  stripe : Nat
  insts : List Nat
  pkgs : List Nat
  deriving DecidableEq, Repr

/-- A core (09 R171 to R179; 07 R142; 01 R23, R25; 17 R317, R324). `launch` is the launch whose stages stood here last: the
kernel-class state of the core belongs to it (00 R2). -/
structure Core where
  id : CoreId
  launch : Nat
  spad : List (Nat × Byte)
  spadPoison : List Nat
  grotto : List GrottoStripe
  cells : List (Nat × Nat)
  regions : List Region
  codebook : List Byte
  codeOwner : Option Nat
  maps : Vector (BitVec 512) 64
  copies : List CopyOp
  joins : List Join
  grottoLog : List CopyOp
  banks : Vector Bank 8
  cycle : Word
  tlb : List TlbEntry
  dbg : Debug
  deriving DecidableEq, Repr

/-! ## The state of a die -/

/-- The die revisions: the spec describes revision A (00 R1). -/
inductive DieRev
  | a
  deriving DecidableEq, Repr

/-- A Plate Store entry by its key (14 R256). -/
structure PlateEntry where
  meas : Nat
  world : Nat
  vbase : Nat
  rev : DieRev
  deriving DecidableEq, Repr

/-- A pinned line: its physical line number, world, launch, and whether it is in the far cache (05 R108). -/
structure Pin where
  line : Nat
  world : Nat
  launch : Nat
  far : Bool
  deriving DecidableEq, Repr

/-- A bandwidth port: the buckets by world, the spare pool and the requests held, each with its world and the tokens it still
wants (16 R302). -/
structure BwPort where
  port : Nat
  buckets : List (Nat × Nat)
  pool : Nat
  held : List (Nat × Nat)
  deriving DecidableEq, Repr

/-- A compute die (17 R311, R312, R317; 14 R256; 05 R108; 16 R302; 20 R361, R362). -/
structure Die where
  id : Nat
  released : Bool
  absent : Bool
  fsel : Word
  park : List SlotId
  plate : List PlateEntry
  tlb : List TlbEntry
  pins : List Pin
  ports : List BwPort
  runtimeFault : Bool
  deriving DecidableEq, Repr

/-! ## Worlds, packages and sessions -/

/-- The keys of a world, which the Hallmark generates and no program reads: free values; a scrambler key for each die (15 R262,
R263; 20 R364). -/
structure WorldKeys where
  mem : Nat
  tag : Nat
  scrambler : Vector Nat 8
  deriving DecidableEq, Repr

/-- A world (15 R262; 17 R315, R320; 14 R260). -/
structure World where
  id : Nat
  keys : WorldKeys
  root : Nat
  signers : List Nat
  pinQuota : Nat
  saveBase : Nat
  saveSize : Nat
  modules : List (Nat × Bool)
  ranges : List (Nat × Nat × Nat)
  deriving DecidableEq, Repr

/-- A loaded weight package, with its per-model key, a free value (15 R268 to R271; 20 R364). -/
structure Package where
  world : Nat
  handle : Nat
  gb : Nat
  size : Nat
  policy : List (Nat × Nat)
  unloading : Bool
  key : Nat
  deriving DecidableEq, Repr

/-- The states of a session slot (15 R275). -/
inductive SessState
  | free | opened | stopped | closed
  deriving DecidableEq, Repr

/-- A session slot (15 R275). -/
structure Session where
  slot : Nat
  state : SessState
  world : Nat
  key : Nat
  fixed : Nat
  kepoch : Nat
  pendKey : Option Nat
  warn : Bool
  invoc : Nat
  rxhi : Nat
  txctr : Nat
  usage : Nat
  buffers : List (Nat × Nat)
  seq : Nat
  final : Bool
  deriving DecidableEq, Repr

/-! ## Launches, stages and channels -/

/-- An operation that a strand has sent to an estimator and that has not arrived there (12 R239). `next` is an SPNEXT whose
strand a kill has stopped (R240). -/
inductive StipOp
  | init (n : Nat) (seed : Nat) (fin : Bool)
  | tol (par : EstParam) (v : Nat)
  | acc (v : Nat)
  | stop
  | next
  deriving DecidableEq, Repr

/-- A posted estimator operation with the launch and the estimator it goes to (12 R239). -/
structure Posted where
  owner : SlotId
  launch : Nat
  est : Nat
  op : StipOp
  deriving DecidableEq, Repr

/-- An estimator (12 R225, R226). `casts` are the stop broadcasts that have not been received: the die, the epoch of the run
and its END (R238). -/
structure Est where
  home : Nat
  count : Nat
  mean : Nat
  m2 : Nat
  stop : Bool
  init : Bool
  fin : Bool
  nonfin : Bool
  cause : Nat
  pos : Nat
  disc : Nat
  issued : Nat
  tol : Nat
  z : Nat
  nmin : Nat
  seed : Nat
  dom : Nat
  epoch : Nat
  casts : List (Nat × Nat × Bool)
  deriving DecidableEq, Repr

/-- A named barrier (10 R206). -/
structure Barrier where
  count : Nat
  arrived : Nat
  gen : Nat
  deriving DecidableEq, Repr

/-- A launch (16 R293 to R303); `hops` are the ports through which its accesses to
other devices have left, `lost` those that lost light or retrained while it was there (R299). -/
structure Launch where
  serial : Nat
  queue : Nat
  tag : Nat
  world : Nat
  cls : Nat
  policy : Nat
  tokens : Nat
  bwshare : Nat
  deadline : Nat
  energy : Nat
  used : Nat
  after : Option Nat
  stall : Nat
  cpladdr : Nat
  arrive : Nat
  bound : Nat
  start : Nat
  status : Nat
  void : Bool
  graphWords : List Nat
  nstage : Nat
  stageWords : List (Nat × Nat)
  ests : Vector (Option Est) 4
  bars : Vector Barrier 16
  killed : Bool
  hops : List Nat
  lost : List Nat
  deriving DecidableEq, Repr

/-- The states of a dependence table entry (16 R303). `stoppingSave` and `saved` name the launch that the stage was stopped
for; none where CHKPT asked. -/
inductive StageState
  | pending | ready | running | stoppingSave (for_ : Option Nat) | stoppingKill | stoppingDrain | saved (until_ : Option Nat) | done
  deriving DecidableEq, Repr

/-- What a checkpoint keeps of one core: the bytes and the poison of its retained stripes, its landing maps, and the copies and
joins of the stage (17 R320; 09 R174, R187). -/
structure SavedCore where
  id : CoreId
  spad : List (Nat × Byte)
  poison : List Nat
  grottoLog : List CopyOp
  maps : Vector (BitVec 512) 64
  copies : List CopyOp
  joins : List Join
  deriving DecidableEq, Repr

/-- What a checkpoint keeps of a stage instance (17 R320). -/
structure Saved where
  strands : List Strand
  cores : List SavedCore
  deriving DecidableEq, Repr

/-- A stage instance with its entry of the dependence table (16 R294, R303; 10 R191 to R205; 14 R247, R248). `cores` are the
cores that it is bound to. -/
structure Stage where
  id : Nat
  launch : Nat
  world : Nat
  index : Nat
  graph : Nat
  meas : Nat
  signer : Nat
  entry : Nat
  codeSize : Nat
  dataDist : Nat
  dataSize : Nat
  decls : Decls
  nstrands : Nat
  widths : List Nat
  outs : List (Option Nat × Nat)
  ins : List (Nat × Nat)
  queue : List Item
  waiters : List SlotId
  config : Word
  configs : List (Nat × Word)
  nextFiring : Nat
  dispatched : Nat
  committed : Nat
  inputClosed : Bool
  mode : Nat
  die : Nat
  cores : List CoreId
  core0 : Nat
  spc : Nat
  pkg : Nat
  remain : Nat
  ran : Nat
  since : Nat
  spmap : List (Nat × Nat)
  state : StageState
  saved : Option Saved
  discardedItems : Nat
  discardedBytes : Nat
  mcode : Option (Nat × Space)
  deriving DecidableEq, Repr

/-- One consumer input of a channel (10 R193, R203, R204): the firings committed in a row, those committed ahead of them, the
cycle of the buffer's core at its last commit, the switch token that has arrived and those on their way, each with its byte
position. -/
structure Consumer where
  inst : Nat
  input : Nat
  bytes : Nat
  detached : Bool
  freed : Nat
  ahead : List Nat
  last : Nat
  arrived : List (Nat × Word)
  tokens : List (Nat × Word)
  deriving DecidableEq, Repr

/-- A channel with its buffer (10 R192 to R194, R203): the bytes of the stream from byte `base` on, the bytes of firings
that committed ahead of a lower one, and since when each waiting COMMIT has found the buffer full. `skew` is what its clock is
ahead of the local cycle of its home: the clock goes on as it was when a resume moves the home. -/
structure Chan where
  id : Nat
  launch : Nat
  producer : Nat
  out : Nat
  bytes : Nat
  cap : Nat
  base : Nat
  buf : List Byte
  ahead : List (Nat × List Byte)
  consumers : List Consumer
  home : CoreId
  skew : Int
  stall : List (SlotId × Nat)
  deriving DecidableEq, Repr

/-! ## Submission queues and the Hallmark's host interface -/

/-- A completion entry (16 R290). -/
structure CplEntry where
  serial : Nat
  tag : Nat
  status : Nat
  void : Bool
  deriving DecidableEq, Repr

/-- A submission queue (16 R290 to R292). -/
structure SubQueue where
  q : Nat
  base : Nat
  size : Nat
  tail : Nat
  shadow : Option Nat
  head : Nat
  cqBase : Nat
  cqHead : Nat
  cqTail : Nat
  qctl : Nat
  inContext : Option Nat
  pendingSince : Option Nat
  emptySince : Option Nat
  waiting : List CplEntry
  swout : Bool
  deriving DecidableEq, Repr

/-- The event ring (20 R372). -/
structure EventRing where
  base : Nat
  size : Nat
  head : Nat
  tail : Nat
  overflow : Bool
  lost : Nat
  reserve : List (List Byte)
  deriving DecidableEq, Repr

/-- The counts that the host reads coarsened (15 R266): corrected errors of a die, replays and streams of a laser slot, and leases of
confidential worlds at a port. -/
inductive HostCount
  | corrected (die : Nat) | replayed (slot : Nat) | streams (slot : Nat) | leased (port : Nat)
  deriving DecidableEq, Repr

/-- A value of a coarsened count as the host last saw it change, with the package-reference cycle of the change (15 R266). -/
structure ShownCount where
  count : HostCount
  value : Nat
  cycle : Nat
  deriving DecidableEq, Repr

/-- The TDI of the submission, completion and event registers: whether it is bound to a TVM of the host, and whether it is in the
RUN state (20 R374). -/
structure Tdi where
  bound : Bool
  run : Bool
  deriving DecidableEq, Repr

/-- The Hallmark's long-lived state (20 R361 to R376). `linkUp` holds once the CXL link has trained at the end of a boot. `signed` holds what it has signed for the host to collect, `image` the
runtime image by physical address, `pkgAnswer` the status and the handle of the last package load (15 R270), and `shown` the
coarsened counts as the host saw them last. -/
structure Hallmark where
  slots : Vector Nat 12
  restarts : Nat
  repairs : List RepairMark
  hostcap : Nat
  thermcap : Nat
  events : EventRing
  signed : List (List Byte)
  image : List (Nat × List Nat)
  pkgAnswer : Option (Nat × Nat)
  shown : List ShownCount
  linkUp : Bool
  tdi : Tdi
  deriving DecidableEq, Repr

/-- What the last host read returned: its bytes and the CXL poison indication (15 R265). -/
structure HostAnswer where
  data : List Nat
  poison : Bool
  deriving DecidableEq, Repr

/-! ## The Passage fabric -/

/-- The states of a wavelength (19 R351). -/
inductive WaveState
  | up | retrain | dark | failed | off
  deriving DecidableEq, Repr

/-- A wavelength of one port in one direction (19 R351). -/
structure Wave where
  w : Nat
  dir : LinkDir
  state : WaveState
  retrains : Nat
  uncorr : Nat
  corrwin : Nat
  fails : Nat
  deriving DecidableEq, Repr

/-- A lease record (19 R339). -/
structure Lease where
  world : Nat
  dst : Nat
  waves : List Nat
  loans : List (Nat × Nat)
  pend : Nat
  start : Nat
  term : Nat
  revocable : Bool
  deriving DecidableEq, Repr

/-- One direction of a link: its key and fixed part, its counts and its phase (19 R355 to R357). At a receiver `oldKey` and
`oldCounts` serve the flits of the old phase until every UP wavelength is among `newWaves`, those that have carried the new
one, and `nextCounts` counts the flits of the next phase that were lost before its key came into force. -/
structure LinkState where
  dir : LinkDir
  up : Bool
  key : Nat
  fixed : Nat
  invoc : Nat
  warned : Bool
  pending : Option Nat
  phase : Bool
  oldKey : Option Nat
  oldCounts : List (Nat × Nat)
  newWaves : List Nat
  nextCounts : List (Nat × Nat)
  stopped : Bool
  counts : List (Nat × Nat)
  deriving DecidableEq, Repr

/-- A flit that waits to be sent: its stream, its SEQ when it already has one, the world whose wavelengths it may take, and
the tag of the message that it belongs to (19 R349, R350). -/
structure OutFlit where
  name : Nat
  seq : Option Nat
  world : Nat
  tag : Nat
  flit : Flit
  deriving DecidableEq, Repr

/-- A flit kept until it is acknowledged: where and when it was last sent, and whether it is to be replayed (19 R350). -/
structure SentFlit where
  name : Nat
  seq : Nat
  wave : Nat
  replay : Bool
  sentAt : Nat
  world : Nat
  tag : Nat
  flit : Flit
  deriving DecidableEq, Repr

/-- A stream as a receiver sees it on a link: the highest contiguous SEQ, the SEQs that came out of order, arrivals not yet
acknowledged with the cycle of the first of them, and since when a gap has stood (19 R350). -/
structure RxStream where
  stream : Nat
  name : Nat
  delivered : Nat
  early : List Nat
  sinceAck : Nat
  unackedSince : Nat
  gapSince : Option Nat
  deriving DecidableEq, Repr

/-- A stream at its destination: the last SEQ delivered, flits that came ahead of it, and the flits of a message that has not
come whole (19 R348, R349). -/
structure RxOrder where
  name : Nat
  delivered : Nat
  waiting : List Flit
  part : List Flit
  deriving DecidableEq, Repr

/-- A passage port (19 R336 to R357). A stream's number is its place in `streams`; `backlog` holds the flits that wait to be
sent, `line` what has been sent, each as the wavelength and the 80 bytes of the flit. -/
structure Port where
  port : Nat
  peer : Option (Nat × Nat)
  quota : Nat
  termlog : Nat
  waves : List Wave
  leases : List Lease
  pendList : List (Nat × Nat × Nat)
  links : List LinkState
  streams : List Nat
  backlog : List OutFlit
  retry : List SentFlit
  rx : List RxStream
  line : List (Nat × List Nat)
  downSince : Option Nat
  deriving DecidableEq, Repr

/-- A laser slot: its module, whether it is lit, and the restore in progress (19 R336, R353). -/
structure LaserSlot where
  slot : Nat
  modl : Nat
  lit : Bool
  restoring : Option (Nat × Nat × Nat × Nat)
  detect : Nat
  deriving DecidableEq, Repr

/-- A pod world (19 R335). -/
structure PodWorld where
  num : Nat
  world : Nat
  members : List Nat
  deriving DecidableEq, Repr

/-- A multicast group (19 R335). -/
structure McastGroup where
  num : Nat
  group : Nat
  root : Nat
  members : List Nat
  deriving DecidableEq, Repr

/-- A routing table entry (19 R333). -/
structure Route where
  dst : Nat
  direct : Bool
  port : Nat
  via : Nat
  slot : Nat
  alts : List Nat
  deriving DecidableEq, Repr

/-- A held write of a remote COMMIT: its bytes by physical address (19 R348; 10 R200). -/
structure HeldWrite where
  src : Nat
  reqid : Nat
  world : Nat
  va : Nat
  cells : List (Nat × Byte)
  deriving DecidableEq, Repr

/-- A reply: from which device to which, its tag, its status and its data (19 R348, R377). -/
structure RemoteReply where
  src : Nat
  dst : Nat
  reqid : Nat
  status : Nat
  data : List Nat
  deriving DecidableEq, Repr

/-- What a target knows of the counted stores of a strand's stream, which the upper bits of their tags name: the tags of those
that it has performed and that no release has counted yet (05 R102; log entry 33). -/
structure CountedStores where
  src : Nat
  podWorld : Nat
  key : Nat
  done : List Nat
  deriving DecidableEq, Repr

/-- The fabric side of the device (19 R331 to R358). `off` holds when the optical engines failed at boot (20 R361). `outbox`
and `replies` hold the messages sent to other devices; `inbox` holds the accesses that have been delivered here and are not
performed yet, the device's own to itself (05 R91) among them, and `repliesIn` the replies that have been delivered, both in
order of delivery. `seqs` holds the last SEQ of each stream that begins here, and `started` counts the strands started. -/
structure Fabric where
  member : Option Nat
  podId : Nat
  routes : List Route
  worlds : List PodWorld
  groups : List McastGroup
  ports : List Port
  lasers : List LaserSlot
  spares : List Nat
  failedModules : List Nat
  outbox : List RemoteAccess
  replies : List RemoteReply
  held : List HeldWrite
  answered : List (Nat × Nat × List Nat)
  unreachable : List Nat
  off : Bool
  inbox : List RemoteAccess
  repliesIn : List RemoteReply
  counts : List CountedStores
  orders : List RxOrder
  seqs : List (Nat × Nat)
  started : Nat
  deriving DecidableEq, Repr

/-! ## What happens next -/

/-- One choice of the agenda: which agent moves next. `issue` lets the issue selector of a core pick among its ready
strands except the busy slots; `part` does so too, and a VLDX, VSTX or VLDFF stops after some elements (06 R120); `event` is one step of another agent; `unit` is one K block or line of a matrix operation;
`cycles` advances the local clock of a core; `drop` evicts a cached translation; `barRead` is a host read of a register, `measurement`
one of an SPDM measurement block, and `tdi` a TDISP message that moves the TDI (20 R374). Log entry 2. -/
inductive Choice
  | issue (c : CoreId) (busy : List Nat)
  | part (c : CoreId) (busy : List Nat) (elems : Nat)
  | event (i : Instr)
  | unit (s : SlotId) (op : Nat) (far : List FarLine)
  | cycles (c : CoreId) (n : Nat)
  | drop (c : CoreId) (va : Nat)
  | barRead (off : Nat)
  | measurement (block : Nat)
  | tdi (t : Tdi)
  deriving DecidableEq, Repr

/-- The state of the machine. `agenda`, `focus`, `elemLimit` (how many elements a VLDX, VSTX or VLDFF performs before it
stops) and `freeCount` are the model's own fields (log entries 2 and 3); every
other field is state that the spec gives the device. -/
structure State where
  agenda : List Choice
  focus : SlotId
  freeCount : Nat
  elemLimit : Option Nat
  strands : List Strand
  cores : List Core
  dies : List Die
  mem : List (Nat × Byte)
  poison : List Nat
  owners : List (Nat × Nat)
  retired : List Nat
  worlds : List World
  packages : List Package
  sessions : List Session
  launches : List Launch
  stages : List Stage
  chans : List Chan
  posted : List Posted
  queues : List SubQueue
  nextSerial : Nat
  nextStage : Nat
  nextChan : Nat
  nextCopy : Nat
  nextJoin : Nat
  pkgCycle : Nat
  level : Int
  tlbcmd : Bool
  fabric : Fabric
  hallmark : Hallmark
  answer : Option HostAnswer
  deriving DecidableEq, Repr

/-! ## Reset values -/

/-- A zeroed tile descriptor (01 R17, R19). -/
def Td.reset : Td := ⟨0, 0, 0, 0, 0, 0, 0⟩

/-- The registers of a strand when it starts (01 R19). -/
def Regs.reset : Regs where
  s := Vector.replicate 64 0
  v := Vector.replicate 32 0
  p := Vector.replicate 16 0
  q := Vector.replicate 16 []
  k := Vector.replicate 16 0
  td := Vector.replicate 16 Td.reset
  acc := Vector.replicate 16 0
  vl := 0
  vtype := 0
  fpctl := 0
  fpflags := 0

/-- A strand as it starts in slot `at_` (01 R19). -/
def Strand.start (at_ : SlotId) (super : Bool) (inst launch world cls : Nat) (entry : Word) (decls : Decls)
    (widths : List Nat) (now : Nat) : Strand where
  at_ := at_
  super := super
  inst := inst
  launch := launch
  world := world
  cls := cls
  entry := entry
  decls := decls
  widths := widths
  regs := Regs.reset
  pc := entry
  workid := 0
  held := none
  mx := ⟨0, false, 0⟩
  ops := []
  nextOp := 0
  mmaqCounts := []
  dissolved := []
  spilled := []
  cp := ⟨0, false, 0⟩
  failed := []
  fenceMark := 0
  fenceFails := []
  epochJoin := none
  refusals := []
  counted := []
  unacked := []
  serial := 0
  nextReq := 0
  wait := none
  frame := none
  pending := []
  vprog := none
  kept := []
  consumed := []
  again := none
  phase := .live
  readyAt := now
  lastIssue := now
  urgent := false
  bankStall := false
  stall := none

/-- A debug window at reset (17 R324). -/
def Debug.reset : Debug := ⟨0, false, false, false, [], false, false, 0, 0, 0, false, 0⟩

/-- A core when its die is released (01 R23, R25; 09 R171, R179). The accumulator store starts at 0: DESIGN CHOICE, log
entry 1, unsafe only for a claim about a cell that no instruction can read (07 R144). -/
def Core.reset (id : CoreId) : Core where
  id := id
  launch := 0
  spad := []
  spadPoison := []
  grotto := []
  cells := []
  regions := []
  codebook := []
  codeOwner := none
  maps := Vector.replicate 64 0
  copies := []
  joins := []
  grottoLog := []
  banks := Vector.replicate 8 ⟨.gated, 0⟩
  cycle := 0
  tlb := []
  dbg := Debug.reset

/-- A die held in reset, as at power-good (20 R361). -/
def Die.reset (id : Nat) : Die := ⟨id, false, false, 0, [], [], [], [], [], false⟩

/-- A submission queue at reset (16 R290). -/
def SubQueue.reset (q : Nat) : SubQueue := ⟨q, 0, 0, 0, none, 0, 0, 0, 0, 0, none, none, none, [], false⟩

/-- A port at reset: QUOTA 64, TERMLOG 24, every wavelength OFF (19 R339, R351). -/
def Port.reset (p : Nat) : Port := ⟨p, none, 64, 24, [], [], [], [], [], [], [], [], [], none⟩

/-- A session slot at reset: FREE (15 R275). -/
def Session.reset (i : Nat) : Session := ⟨i, .free, 0, 0, 0, 0, none, false, 0, 0, 0, 0, [], 0, false⟩

/-- The fabric at power-good: in no pod, modules 0 to 15 in slots 0 to 15, 16 and 17 in reserve (19 R336). -/
def Fabric.reset : Fabric where
  member := none
  podId := 0
  routes := []
  worlds := []
  groups := []
  ports := []
  lasers := (List.range 16).map fun i => ⟨i, i, true, none, 0⟩
  spares := [16, 17]
  failedModules := []
  outbox := []
  replies := []
  held := []
  answered := []
  unreachable := []
  off := false
  inbox := []
  repliesIn := []
  counts := []
  orders := []
  seqs := []
  started := 0

/-- The Hallmark at power-good: measurement slots zero, HOSTCAP and THERMCAP 8 (20 R363, R376). -/
def Hallmark.reset : Hallmark where
  slots := Vector.replicate 12 0
  restarts := 0
  repairs := []
  hostcap := 8
  thermcap := 8
  events := ⟨0, 0, 0, 0, false, 0, []⟩
  signed := []
  image := []
  pkgAnswer := none
  shown := []
  linkUp := false
  tdi := ⟨false, false⟩

/-- The energy level in eighths of a quantum when the reservoir is full: 2^24 quanta (16 R300). -/
def fullLevel : Int := 8 * 2 ^ 24

/-- The machine right after power-good: every die in reset, memory with nothing listed, the reservoir full (20 R361; 16
R300). The package-reference cycle starts at 0 and the repair record is empty: DESIGN CHOICE, log entry 1. -/
def State.reset : State where
  agenda := []
  focus := ⟨0, 0, 0⟩
  freeCount := 0
  elemLimit := none
  strands := []
  cores := []
  dies := []
  mem := []
  poison := []
  owners := []
  retired := []
  worlds := []
  packages := []
  sessions := []
  launches := []
  stages := []
  chans := []
  posted := []
  queues := []
  nextSerial := 1
  nextStage := 1
  nextChan := 1
  nextCopy := 0
  nextJoin := 0
  pkgCycle := 0
  level := fullLevel
  tlbcmd := false
  fabric := Fabric.reset
  hallmark := Hallmark.reset
  answer := none

end Sys2Proof.Machine
end

