-- ==== Sys2Proof/Machine/Ops.lean ====
section
/-! DEFINITION. The named operations over the state: keyed records, memory bytes, translation, the checks of an access,
the write log, parking a strand on a trap and the return from it. -/

namespace Sys2Proof.Machine

/-- What a step of the machine answers. -/
abbrev Out := Host.Outcome State Fault Refusal

/-! ## Keyed records -/

/-- The entries of a list, each once, in the order of their first places. -/
def uniq {α : Type} [BEq α] : List α → List α
  | [] => []
  | x :: r => x :: (uniq r).filter fun y => !(y == x)

/-- Replaces the record with the key of `x`, or appends `x`. -/
def upsert {α κ : Type} [BEq κ] (key : α → κ) (x : α) : List α → List α
  | [] => [x]
  | y :: r => if key y == key x then x :: r else y :: upsert key x r

/-- Puts an entry before the first one that it stands at or below by `key`. -/
def insertBy {α : Type} (key : α → Nat) (x : α) : List α → List α
  | [] => [x]
  | y :: r => if key x ≤ key y then x :: y :: r else y :: insertBy key x r

/-- Sorts a list by a key, ascending. -/
def sortBy {α : Type} (key : α → Nat) (l : List α) : List α := l.foldr (insertBy key) []

/-- The entry of a list at a position, or a default. -/
def nth {α : Type} (l : List α) (i : Nat) (d : α) : α := (l[i]?).getD d

/-- The value of a key in a list of pairs, or a default. -/
def assocD {β : Type} (l : List (Nat × β)) (k : Nat) (d : β) : β := ((l.find? fun p => p.1 == k).map (·.2)).getD d

/-- Sets the value of a key in a list of pairs. -/
def assocSet {β : Type} (l : List (Nat × β)) (k : Nat) (v : β) : List (Nat × β) := upsert (·.1) (k, v) l

def State.strand? (s : State) (i : SlotId) : Option Strand := s.strands.find? fun t => t.at_ == i
def State.putStrand (s : State) (t : Strand) : State := { s with strands := upsert Strand.at_ t s.strands }
def State.dropStrand (s : State) (i : SlotId) : State := { s with strands := s.strands.filter fun t => t.at_ != i }
def State.core (s : State) (c : CoreId) : Core := (s.cores.find? fun x => x.id == c).getD (Core.reset c)
def State.putCore (s : State) (c : Core) : State := { s with cores := upsert Core.id c s.cores }
def State.die (s : State) (d : Nat) : Die := (s.dies.find? fun x => x.id == d).getD (Die.reset d)
def State.putDie (s : State) (d : Die) : State := { s with dies := upsert Die.id d s.dies }
def State.world? (s : State) (w : Nat) : Option World := s.worlds.find? fun x => x.id == w
def State.putWorld (s : State) (w : World) : State := { s with worlds := upsert World.id w s.worlds }
def State.launch? (s : State) (n : Nat) : Option Launch := s.launches.find? fun x => x.serial == n
def State.putLaunch (s : State) (l : Launch) : State := { s with launches := upsert Launch.serial l s.launches }
def State.stage? (s : State) (n : Nat) : Option Stage := s.stages.find? fun x => x.id == n
def State.putStage (s : State) (g : Stage) : State := { s with stages := upsert Stage.id g s.stages }
def State.chan? (s : State) (n : Nat) : Option Chan := s.chans.find? fun x => x.id == n
def State.putChan (s : State) (c : Chan) : State := { s with chans := upsert Chan.id c s.chans }
def State.session (s : State) (i : Nat) : Session := (s.sessions.find? fun x => x.slot == i).getD (Session.reset i)
def State.putSession (s : State) (x : Session) : State := { s with sessions := upsert Session.slot x s.sessions }
def State.queue (s : State) (q : Nat) : SubQueue := (s.queues.find? fun x => x.q == q).getD (SubQueue.reset q)
def State.putQueue (s : State) (x : SubQueue) : State := { s with queues := upsert SubQueue.q x s.queues }
def State.port (s : State) (p : Nat) : Port := (s.fabric.ports.find? fun x => x.port == p).getD (Port.reset p)
def State.putPort (s : State) (x : Port) : State :=
  { s with fabric := { s.fabric with ports := upsert Port.port x s.fabric.ports } }

/-- The core of a slot. -/
def coreOf (i : SlotId) : CoreId := ⟨i.die, i.core⟩

/-- The strands on a core, lowest slot first as they stand in the list. -/
def State.strandsOn (s : State) (c : CoreId) : List Strand := s.strands.filter fun t => coreOf t.at_ == c

/-- The strands of a stage instance. -/
def State.strandsOf (s : State) (inst : Nat) : List Strand := s.strands.filter fun t => t.inst == inst && !t.super

/-- The local cycle of a core (01 R25). -/
def State.now (s : State) (i : SlotId) : Nat := (s.core (coreOf i)).cycle.toNat

/-- Applies a change to every strand. -/
def State.mapStrands (s : State) (f : Strand → Strand) : State := { s with strands := s.strands.map f }

/-- A strand that has waited for something that now comes may issue again. -/
def Strand.unstall (t : Strand) (x : Stall) (now : Nat) : Strand :=
  if t.stall == some x then { t with stall := none, readyAt := now } else t

/-- The counter of free values moves on (log entry 3). -/
def State.drawFree (s : State) : State := { s with freeCount := s.freeCount + 1 }

/-! ## Bytes

A byte list holds (address, byte) with rising addresses and no zero byte; an address that is not listed reads as zero (20
R368 step 6; log entry 12). -/

/-- The byte at an address. -/
def memGet (m : List (Nat × Byte)) (a : Nat) : Byte :=
  match m with
  | [] => 0
  | (k, v) :: r => if k == a then v else if a < k then 0 else memGet r a

/-- Writes one byte and keeps the form. -/
def memSet (m : List (Nat × Byte)) (a : Nat) (b : Byte) : List (Nat × Byte) :=
  match m with
  | [] => if b == 0 then [] else [(a, b)]
  | (k, v) :: r =>
    if a < k then (if b == 0 then (k, v) :: r else (a, b) :: (k, v) :: r)
    else if a == k then (if b == 0 then r else (a, b) :: r)
    else (k, v) :: memSet r a b

/-- Whether every address of a byte list is above `a`, rising, and no byte is zero. -/
def memFrom (lo : Nat) : List (Nat × Byte) → Bool
  | [] => true
  | (k, v) :: r => lo ≤ k && v != 0 && memFrom (k + 1) r

/-- The canonical form of memory. -/
def memWf (m : List (Nat × Byte)) : Bool := memFrom 0 m

/-- `n` bytes from an address, lowest first. -/
def memBytes (m : List (Nat × Byte)) (a : Nat) : Nat → List Byte
  | 0 => []
  | n + 1 => memGet m a :: memBytes m (a + 1) n

/-- Writes bytes from an address, lowest first. -/
def memSetBytes (m : List (Nat × Byte)) (a : Nat) : List Byte → List (Nat × Byte)
  | [] => m
  | b :: r => memSetBytes (memSet m a b) (a + 1) r

/-- The big-endian number of bytes. -/
def beNat (l : List Byte) : Nat := leValue l.reverse

/-- A number from physical memory. -/
def State.physNat (s : State) (pa n : Nat) : Nat := leValue (memBytes s.mem pa n)

/-- Writes a number to physical memory; poison of a line is left to the caller. -/
def State.setPhysNat (s : State) (pa n v : Nat) : State := { s with mem := memSetBytes s.mem pa (leBytes n v) }

/-! ## The physical map and frames (15 R262, 20 R362, R368) -/

/-- Whether some die's stack is out of the map. -/
def State.someAbsent (s : State) : Bool := s.dies.any fun d => d.absent

/-- Whether a physical address lies in the map. -/
def State.inMap (s : State) (pa : Nat) : Bool :=
  pa < Config.physLimit && !s.retired.contains (pa / 65536) &&
    (if s.someAbsent then !(s.die (Config.homeDie pa % 8)).absent else true)

/-- The world that owns the frame of a physical address: world 0 unless another was given it; 256 outside the map. -/
def State.frameOwner (s : State) (pa : Nat) : Nat := if s.inMap pa then assocD s.owners (pa / 65536) 0 else 256

/-! ## Page tables and TLBs (17 R315 to R317) -/

/-- What an access does. -/
inductive Access
  | read | write | fetch
  deriving DecidableEq, Repr

/-- A trap before it is delivered (17 R309). -/
structure Trap where
  cause : Nat
  addr : Nat
  info : Nat
  deriving DecidableEq, Repr

def causeIllegalOp : Nat := 0x01
def causeIllegalEnc : Nat := 0x02
def causeIllegalReg : Nat := 0x03
def causePriv : Nat := 0x04
def causeMisalign : Nat := 0x05
def causePage : Nat := 0x06
def causePerm : Nat := 0x07
def causeGrottoRead : Nat := 0x08
def causeGrottoPolicy : Nat := 0x09
def causeBounds : Nat := 0x0A
def causeSoft : Nat := 0x0C
def causeSvc : Nat := 0x0D
def causeBrk : Nat := 0x0E
def causeTranslate : Nat := 0x0F
def causeCodeWrite : Nat := 0x10
def causeChannelLag : Nat := 0x11
def causeKeyExhausted : Nat := 0x12
def causePoison : Nat := 0x13
def causeRemote : Nat := 0x14
def causeEcc : Nat := 0x15
def causeWatchdog : Nat := 0x16

/-- BOUNDS with the check code of an entry. -/
def bounds (code : Nat) : Trap := ⟨causeBounds, 0, code⟩

/-- The walk word of PAGE and PERM (17 R316). -/
def walkWord (level : Nat) (rsvd : Bool) (k : Access) : Nat :=
  level + 16 * boolNat rsvd + 32 * boolNat (k == .write) + 64 * boolNat (k == .fetch)

def pteV (e : Nat) : Bool := bitAt e 0
def pteR (e : Nat) : Bool := bitAt e 1
def pteW (e : Nat) : Bool := bitAt e 2
def pteX (e : Nat) : Bool := bitAt e 3
def pteG (e : Nat) : Bool := bitAt e 4
def pteC (e : Nat) : Bool := bitAt e 5
def ptePolicy (e : Nat) : Nat := field e 8 2
def pteLeaf (e : Nat) : Bool := bitAt e 11
def ptePpn (e : Nat) : Nat := field e 16 30
def pteWorld (e : Nat) : Nat := field e 56 8
/-- Bits 55:46, 15:12 and 7:6 of a leaf are zero. -/
def pteReservedOk (e : Nat) : Bool := field e 46 10 == 0 && field e 12 4 == 0 && field e 6 2 == 0
/-- A table entry holds nothing beside V and PPN. -/
def pteTableOk (e : Nat) : Bool := e == 1 + ptePpn e * 65536

/-- The outcome of a walk: the entry to cache, or the level and RSVD bit of a fault. -/
inductive Walk
  | leaf (e : TlbEntry) (pteAddr : Nat)
  | fault (level : Nat) (rsvd : Bool)
  deriving DecidableEq, Repr

/-- The walk from level `lev` with table address `table`; `fuel` levels are left (17 R316). The frame whose owner is compared is
that of the accessed address, also under a leaf of more than one frame, all of which the cached entry then covers (DESIGN CHOICE,
log entry 58). -/
def walkFrom (s : State) (world va : Nat) : Nat → Nat → Nat → Walk
  | 0, lev, _ => .fault lev false
  | fuel + 1, lev, table =>
    let a := table + 8 * field va (46 - 10 * lev) 10
    let e := s.physNat a 8
    if !pteV e then .fault lev false
    else if !pteReservedOk e || ptePolicy e == 3 || (lev == 0 && pteLeaf e) then .fault lev true
    else if lev == 3 || pteLeaf e then
      let size := 2 ^ (16 + 10 * (3 - lev))
      let base := ptePpn e * 65536
      if base % size != 0 then .fault lev true
      else if s.frameOwner (base + va % size) != pteWorld e then .fault lev false
      else .leaf ⟨world, va / size * size, size, base, e, lev⟩ a
    else if !pteTableOk e then .fault lev true
    else walkFrom s world va fuel (lev + 1) (ptePpn e * 65536)

/-- The page-table root of a world. -/
def State.root (s : State) (world : Nat) : Nat := ((s.world? world).map World.root).getD 0

/-- Whether a cached translation covers an address of a world. -/
def TlbEntry.covers (e : TlbEntry) (world va : Nat) : Bool := e.world == world && e.va ≤ va && va < e.va + e.size

/-- Translates for a core: L1, then L2, then a walk that sets ACCESSED and fills both (17 R316, R317). -/
def translate (s : State) (c : CoreId) (world va : Nat) : State × Walk :=
  let core := s.core c
  match core.tlb.find? fun e => e.covers world va with
  | some e => (s, .leaf e 0)
  | none =>
    let die := s.die c.die
    match die.tlb.find? fun e => e.covers world va with
    | some e => (s.putCore { core with tlb := (e :: core.tlb).take 128 }, .leaf e 0)
    | none =>
      match walkFrom s world va 4 0 (s.root world) with
      | .fault l r => (s, .fault l r)
      | .leaf e a =>
        let pte := if bitAt e.pte 10 then e.pte else e.pte + 1024
        let e' := { e with pte := pte }
        let s1 := s.setPhysNat a 8 pte
        let s2 := s1.putCore { core with tlb := (e' :: core.tlb).take 128 }
        (s2.putDie { die with tlb := (e' :: die.tlb).take 8192 }, .leaf e' a)

/-! ## The checks of an access (05 R91, R92) -/

/-- On whose behalf an access is made. -/
structure Party where
  core : CoreId
  world : Nat
  inst : Nat
  deriving DecidableEq, Repr

/-- A strand as a party. -/
def Strand.party (t : Strand) : Party := ⟨coreOf t.at_, t.world, t.inst⟩

/-- The place of one byte. -/
inductive Loc
  | phys (pa : Nat)
  | spad (c : CoreId) (off : Nat)
  deriving DecidableEq, Repr

/-- Which checks an access takes: as a read, as a write, whether grotto is refused to it as a read or as a write, whether
poison is reported, the world its pages must have, and whether code pages are refused (05 R92; 07 R162; 09 R175; 15 R267). -/
structure CheckKind where
  rd : Bool
  wr : Bool
  grottoRead : Bool
  grottoWrite : Bool
  poison : Bool
  pageWorld : Option Nat
  code : Bool
  deriving DecidableEq, Repr

/-- LD, LDA, vector loads, CHWS. -/
def checkLoad : CheckKind := ⟨true, false, true, false, true, none, false⟩
/-- ST, STREL, MCAST, vector stores, MACCST, CFILL. -/
def checkStore : CheckKind := ⟨false, true, false, true, false, none, true⟩
/-- ATOM and CAS: grotto is refused to them as a read (15 R272). -/
def checkAtomic : CheckKind := ⟨true, true, true, false, true, none, true⟩
/-- Steps 2 to 5 of a read: PIN, and the source of a copy before its own grotto rule (05 R108; 09 R181). -/
def checkProbe : CheckKind := ⟨true, false, false, false, false, none, false⟩
/-- SIGWAKE: checks 2, 4 and 5 of a write (10 R208). -/
def checkSigwake : CheckKind := ⟨false, true, false, true, false, none, false⟩

/-- A run of bytes on one page: its first address, its length and its cached leaf. -/
structure Segment where
  va : Nat
  len : Nat
  leaf : TlbEntry
  deriving DecidableEq, Repr

/-- The physical address of a byte of a segment. -/
def Segment.phys (g : Segment) (va : Nat) : Nat := g.leaf.pa + va % g.leaf.size

/-- Translates every page of the `n` bytes at `va`; the first page that fails gives the trap. `fuel` bounds the pages. -/
def segments (c : CoreId) (world : Nat) (k : Access) : Nat → State → Nat → Nat → State × Except Trap (List Segment)
  | 0, s, _, _ => (s, .ok [])
  | fuel + 1, s, va, n =>
    if n == 0 then (s, .ok [])
    else
      match translate s c world va with
      | (s1, .fault l r) => (s1, .error ⟨causePage, va, walkWord l r k⟩)
      | (s1, .leaf e _) =>
        let here := min n (65536 - va % 65536)
        match segments c world k fuel s1 (va + here) (n - here) with
        | (s2, .error t) => (s2, .error t)
        | (s2, .ok l) => (s2, .ok (⟨va, here, e⟩ :: l))

/-- The lowest byte of the segments for which `bad` holds, looking at every byte. -/
def firstByte (bad : Segment → Nat → Bool) : List Segment → Option (Segment × Nat)
  | [] => none
  | g :: r =>
    match (List.range g.len).find? fun i => bad g (g.va + i) with
    | some i => some (g, g.va + i)
    | none => firstByte bad r

/-- Whether a physical byte lies in the `n` bytes at `va` of a world. `fuel` bounds the pages. -/
def State.mapsTo (s : State) (world pa : Nat) : Nat → Nat → Nat → Bool
  | 0, _, _ => false
  | fuel + 1, va, n =>
    if n == 0 then false
    else
      let here := min n (65536 - va % 65536)
      (match walkFrom s world va 4 0 (s.root world) with
        | .leaf e _ => e.pa + va % e.size ≤ pa && pa < e.pa + va % e.size + here
        | .fault .. => false) || s.mapsTo world pa fuel (va + here) (n - here)

/-- Whether a physical byte lies in a registered reply buffer: no strand of any world writes there, through any mapping (15
R276). -/
def State.inReplyBuffer (s : State) (pa : Nat) : Bool :=
  s.sessions.any fun x => (x.state == .opened || x.state == .stopped) &&
    x.buffers.any fun b => s.mapsTo x.world pa (b.2 / 65536 + 2) b.1 b.2

/-- Whether a byte belongs to the data section of a stage of the world. Such a byte stands for data even in a 64 KiB page that
code shares (14 R248, R259; log entry 24). -/
def State.inData (s : State) (world va : Nat) : Bool :=
  s.stages.any fun g => g.world == world && decide (g.entry + g.dataDist ≤ va) && decide (va < g.entry + g.dataDist + g.dataSize)

/-- Checks 5 to 8 on translated bytes, each over every byte before the next. ATOM and CAS on a grotto page, which has no W, give
GROTTO_READ (15 R272). A write to a confidential code page without W raises PERM, which R92 checks first, though 14 R259 says that
every write there raises CODE_WRITE (DEDUCED, log entry 57). -/
def checkSegments (s : State) (p : Party) (k : CheckKind) (acc : Access) (segs : List Segment) : Option Trap :=
  let perm := firstByte (fun g va =>
    pteWorld g.leaf.pte != k.pageWorld.getD p.world || (k.rd && !pteR g.leaf.pte) ||
      (k.wr && !pteW g.leaf.pte && !(k.grottoRead && pteG g.leaf.pte)) ||
      (k.grottoWrite && pteG g.leaf.pte) || (k.wr && k.pageWorld.isNone && s.inReplyBuffer (g.phys va))) segs
  match perm with
  | some (g, va) => some ⟨causePerm, va, walkWord g.leaf.level false acc⟩
  | none =>
    match if k.grottoRead then firstByte (fun g _ => pteG g.leaf.pte) segs else none with
    | some (_, va) => some ⟨causeGrottoRead, va, 0⟩
    | none =>
      match if k.code && p.world != 0 then firstByte (fun g va => pteC g.leaf.pte && !s.inData p.world va) segs else none with
      | some (_, va) => some ⟨causeCodeWrite, va, 0⟩
      | none =>
        match if k.poison then firstByte (fun g va => s.poison.contains (g.phys va / 64)) segs else none with
        | some (_, va) => some ⟨causePoison, va, 0⟩
        | none => none

/-- Whether a stripe of a core has the grotto bit (09 R175). -/
def Core.grottoAt (c : Core) (off : Nat) : Bool := c.grotto.any fun g => g.stripe == off / 2048

/-- The lowest position below `n` for which `bad` holds. -/
def firstIndex (n : Nat) (bad : Nat → Bool) : Option Nat := (List.range n).find? bad

/-- The core and offset of a scratchpad byte in space L or Q (05 R91), if in range. -/
def spadLoc (p : Party) (sp : Space) (a : Nat) : Option (CoreId × Nat) :=
  if sp == .l then (if a < 2 ^ 21 then some (p.core, a) else none)
  else if a < 2 ^ 23 then some (⟨p.core.die, p.core.core / 4 * 4 + a / 2 ^ 21⟩, a % 2 ^ 21) else none

/-- The checks of an access to spaces L and Q. No walk takes place there: the TINFO of a PERM on a grotto stripe is the walk
word of level 0 with the bit of a write (DESIGN CHOICE, log entry 52). -/
def checkSpad (s : State) (p : Party) (k : CheckKind) (acc : Access) (sp : Space) (ea n : Nat) : Except Trap (List Loc) :=
  let at_ := fun i => spadLoc p sp (ea + i)
  match firstIndex n fun i => (at_ i).isNone with
  | some i => .error ⟨causeBounds, (ea + i) % 2 ^ 64, 0⟩
  | none =>
    let grotto := fun i => match at_ i with | some (c, o) => (s.core c).grottoAt o | none => false
    match if k.grottoWrite then firstIndex n grotto else none with
    | some i => .error ⟨causePerm, ea + i, walkWord 0 false acc⟩
    | none =>
      match if k.grottoRead then firstIndex n grotto else none with
      | some i => .error ⟨causeGrottoRead, ea + i, 0⟩
      | none =>
        let bad := fun i => match at_ i with | some (c, o) => (s.core c).spadPoison.contains (o / 32) | none => false
        match if k.poison then firstIndex n bad else none with
        | some i => .error ⟨causePoison, ea + i, 0⟩
        | none => .ok ((List.range n).filterMap fun i => (at_ i).map fun x => .spad x.1 x.2)

/-- The lowest byte of `n` bytes at `ea` outside the 56-bit range, if any (05 R91). -/
def outside56 (ea n : Nat) : Option Nat :=
  if 2 ^ 56 ≤ ea then some ea else if 2 ^ 56 < ea + n then some (2 ^ 56) else none

/-- The checks of an access in spaces G, L and Q, whole before any part is performed (05 R92). The answer gives the place of
every byte, lowest first; translations fill the TLBs even when a check fails. -/
def checkAccess (s : State) (p : Party) (k : CheckKind) (sp : Space) (ea n : Nat) : State × Except Trap (List Loc) :=
  let acc : Access := if k.wr then .write else .read
  if sp == .g then
    match outside56 ea n with
    | some a => (s, .error ⟨causeBounds, a, 0⟩)
    | none =>
      match segments p.core p.world acc (n / 65536 + 2) s ea n with
      | (s1, .error t) => (s1, .error t)
      | (s1, .ok segs) =>
        match checkSegments s1 p k acc segs with
        | some t => (s1, .error t)
        | none => (s1, .ok (segs.flatMap fun g => (List.range g.len).map fun i => .phys (g.phys (g.va + i))))
  else (s, checkSpad s p k acc sp ea n)

/-! ## Reading and writing bytes by place -/

/-- The byte at a place, through the write log of the reader (10 R100, R199). -/
def State.byteAt (s : State) (log : List LogByte) : Loc → Byte
  | .phys pa => match log.find? fun b => b.1 == pa with
    | some b => b.2
    | none => memGet s.mem pa
  | .spad c off => memGet (s.core c).spad off

/-- Whether a place reads poisoned (15 R264; 09 R176). -/
def State.poisonAt (s : State) : Loc → Bool
  | .phys pa => s.poison.contains (pa / 64)
  | .spad c off => (s.core c).spadPoison.contains (off / 32)

/-- Writes one byte at a place. -/
def State.setByteAt (s : State) (l : Loc) (b : Byte) : State :=
  match l with
  | .phys pa => { s with mem := memSet s.mem pa b }
  | .spad c off =>
    let core := s.core c
    s.putCore { core with spad := memSet core.spad off b }

/-- Writes bytes at places, in order. -/
def State.setBytesAt (s : State) : List (Loc × Byte) → State
  | [] => s
  | (l, b) :: r => (s.setByteAt l b).setBytesAt r

/-- Removes the poison of lines and sectors that the places cover whole (15 R264; 09 R176). -/
def State.clearPoison (s : State) (ls : List Loc) : State :=
  let lineCovered := fun line => (List.range 64).all fun i => ls.contains (.phys (line * 64 + i))
  let s1 := if s.poison.isEmpty then s else { s with poison := s.poison.filter fun l => !lineCovered l }
  let cores := uniq (ls.filterMap fun l => match l with | .spad c _ => some c | .phys _ => none)
  cores.foldl (fun s c =>
    let core := s.core c
    if core.spadPoison.isEmpty then s
    else s.putCore { core with spadPoison := core.spadPoison.filter fun sec =>
      !((List.range 32).all fun i => ls.contains (.spad c (sec * 32 + i))) }) s1

/-! ## Accesses through a world's page tables

The schedulers, the Hallmark and the session engine walk the tables at each access; they hold no translations. -/

/-- A run of bytes in physical memory. -/
abbrev PhysRun := Nat × Nat

/-- The physical runs of the `n` bytes at `va`, when every page has a leaf of the world whose entry passes. `fuel` bounds the
pages. -/
def worldRuns (s : State) (world : Nat) (ok : Nat → Bool) : Nat → Nat → Nat → Option (List PhysRun)
  | 0, _, n => if n == 0 then some [] else none
  | fuel + 1, va, n =>
    if n == 0 then some []
    else if 2 ^ 56 ≤ va then none
    else
      match walkFrom s world va 4 0 (s.root world) with
      | .fault .. => none
      | .leaf e _ =>
        if !ok e.pte then none
        else
          let here := min n (65536 - va % 65536)
          (worldRuns s world ok fuel (va + here) (n - here)).map fun r => (e.pa + va % e.size, here) :: r

/-- A save or a spill writes to the save area of a world: which of its bytes and with what is a free value, since its layout is
private (17 R320, R322; log entry 16). -/
def State.writeSaveArea (s : State) (world : Nat) : State :=
  match s.world? world with
  | none => s
  | some w =>
    if w.saveSize == 0 then s
    else
      let img := (Config.saveImage s.freeCount).filter fun b => b.1 < w.saveSize
      img.foldl (fun s b => match worldRuns s world (fun _ => true) 1 (w.saveBase + b.1) 1 with
        | some ((pa, _) :: _) => s.setByteAt (.phys pa) b.2
        | _ => s) s.drawFree

/-- Whether some bytes of world 0's address space lie in a physical range. -/
def State.meets0 (s : State) (va n pa len : Nat) : Bool :=
  (worldRuns s 0 (fun _ => true) (n / 65536 + 2) va n).any fun l => l.any fun r => r.1 < pa + len && pa < r.1 + r.2

/-- A write to physical bytes invalidates the Plate Store entries of world 0's regions that hold them and marks the modules of world
0 that they belong to STALE, through whatever mapping it was made (11 R213; 14 R257, R260). -/
def State.frameWritten (s : State) (pa n : Nat) : State :=
  let s1 := { s with dies := s.dies.map (fun (d : Die) =>
    { d with plate := d.plate.filter fun e => !(e.world == 0 && s.meets0 e.vbase 4096 pa n) }) }
  match s1.world? 0 with
  | none => s1
  | some w =>
    let touched := w.ranges.filter fun r => s.meets0 r.2.1 r.2.2 pa n
    if touched.isEmpty then s1
    else s1.putWorld { w with modules := w.modules.map fun m => (m.1, m.2 || touched.any fun r => r.1 == m.1) }

/-- The physical places among some, as runs. -/
def physRuns : List Loc → List PhysRun
  | [] => []
  | .spad .. :: r => physRuns r
  | .phys pa :: r =>
    match physRuns r with
    | (b, n) :: l => if b == pa + 1 then (pa, n + 1) :: l else (pa, 1) :: (b, n) :: l
    | [] => [(pa, 1)]

/-- What a write at checked places does to code of world 0. -/
def State.placesWritten (s : State) (ls : List Loc) : State := (physRuns ls).foldl (fun s r => s.frameWritten r.1 r.2) s

/-- Performs a write of bytes at checked places. -/
def State.storeAt (s : State) (ls : List Loc) (bs : List Byte) : State :=
  ((s.setBytesAt (ls.zip bs)).clearPoison ls).placesWritten ls

/-! ## The write log (10 R199) -/

def WriteLog.empty : WriteLog := ⟨[], [], [], [], 0, [], [], [], none, [], []⟩

/-- The most sectors a log holds. -/
def logCapacity : Nat := 4096

/-- The sectors of places in physical memory, each once. -/
def sectorsOf (ls : List Loc) : List Nat :=
  uniq (ls.filterMap fun l => match l with | .phys pa => some (pa / 32) | .spad .. => none)

/-- Adds sectors to a log's list, each once. -/
def addSectors (have_ new_ : List Nat) : List Nat := have_ ++ new_.filter fun x => !have_.contains x

/-- Sectors of the log that are held or reserved. -/
def WriteLog.used (l : WriteLog) : Nat := l.sectors.length + l.reserved

/-- Logs bytes at physical places. -/
def WriteLog.put (l : WriteLog) (ls : List Loc) (bs : List Byte) : WriteLog :=
  { l with
    mem := (ls.zip bs).foldl (fun m x => match x.1 with | .phys pa => assocSet m pa x.2 | .spad .. => m) l.mem
    sectors := addSectors l.sectors (sectorsOf ls) }

/-- The log bytes a strand reads through. -/
def Strand.logMem (t : Strand) : List LogByte := (t.held.map fun h => h.log.mem).getD []

/-! ## Parking and killing (17 R309 to R314; 10 R210) -/

/-- An end of VOID's promise (16 R299). -/
def State.setVoid (s : State) (launch : Nat) : State :=
  match s.launch? launch with
  | none => s
  | some l => s.putLaunch { l with void := true }

/-- A POISON event that affects a launch (16 R299): one of its copies or matrix operations read a poisoned line, cause 1
(log entry 48). -/
def State.voidByPoison (s : State) (launch : Nat) (cause : Option Nat) : State :=
  if cause == some 1 then s.setVoid launch else s

/-- A park ends the WAITP of the runtime strand of the die at once (17 R312). -/
def wakeRuntime (s : State) (die : Nat) (t : Strand) : Strand :=
  match t.wait with
  | some (.waitp _) =>
    if t.super && t.at_.die == die then { t with wait := none, pc := t.pc + 8, readyAt := s.now t.at_ } else t
  | _ => t

/-- What a kill does to one dependence table entry (10 R210; 17 R323). One that has stood on cores leaves its marks there, and
the items that its saved strands hold go back, as its kill completes. -/
def Stage.kill (g : Stage) (now : Nat) : Stage :=
  match g.state with
  | .done => g
  | .running | .stoppingSave _ | .stoppingKill | .stoppingDrain => { g with state := .stoppingKill }
  | .ready | .saved _ => { g with state := .stoppingKill, since := now }
  | .pending => { g with state := .done, queue := [], discardedItems := g.queue.length }

/-- Whether an earlier operation of a queue of the strand's core is outstanding. -/
def State.queueBusy (s : State) (t : Strand) (q before : Nat) : Bool :=
  (s.core (coreOf t.at_)).copies.any fun o => o.q == q && o.num < before

/-- What a kill leaves of a wait: a session operation that was sent is performed once (15 R285), and a COMMIT whose writes are
held at their targets has them discarded when the kill completes (phase 3). -/
def State.killedWait (s : State) (t : Strand) : Option Wait :=
  match t.wait with
  | some (.usage ..) => t.wait
  | some (.cdec _ _ _ _ _ q before) | some (.cenc _ _ _ _ q before) => if s.queueBusy t q before then none else t.wait
  | some (.commit _ _ phase _ since) => if phase == 1 || phase == 3 then some (.commit [] none 3 false since) else none
  | _ => none

/-- A strand as a kill stops it. -/
def State.killStrand (s : State) (t : Strand) : Strand :=
  { t with phase := .stopped, frame := none, pending := [], stall := none, wait := s.killedWait t }

/-- Kills every stage of a launch: its strands issue nothing more, frames are discarded and the completion status becomes
KILLED (17 R309, R310, R323). KILL_COMPLETE finishes each stage. -/
def State.killLaunch (s : State) (serial : Nat) : State :=
  match s.launch? serial with
  | none => s
  | some l =>
    let s1 := s.putLaunch { l with killed := true, status := 0x48 }
    let s2 := { s1 with stages := s1.stages.map (fun (g : Stage) => if g.launch == serial then g.kill s1.pkgCycle else g) }
    let mine := fun (t : Strand) => t.launch == serial && !t.super
    let gone := (s2.strands.filter mine).map Strand.at_
    let s3 := s2.mapStrands fun t => if mine t then s2.killStrand t else t
    { s3 with dies := s3.dies.map (fun (d : Die) => { d with park := d.park.filter fun i => !gone.contains i }) }

/-- Whether the trap kills a confidential launch instead of parking the strand (17 R309). -/
def killsConfidential (cause : Nat) : Bool := cause == causePage || cause == causeGrottoPolicy

/-- The default RESUME of a cause (17 R312). -/
def defaultResume (cause : Nat) : Nat := if cause == causeSoft || cause == causeSvc || cause == causeBrk then 1 else 0

/-- The frame of a trap at virtual PC `vpc` (17 R311). -/
def Trap.frame (t : Trap) (vpc : Word) (resume : Nat) (m c : Option Prog) : Frame :=
  ⟨t.cause, vpc, BitVec.ofNat 64 t.addr, BitVec.ofNat 64 t.info, resume, resume == 2, m, c, false⟩

/-- Parks a strand with a frame: the park list of its die takes it, or the debugger does for a BRK of an open world under
ATTACH (17 R312, R324, R326). -/
def State.parkWith (s : State) (t : Strand) (f : Frame) : State :=
  let core := s.core (coreOf t.at_)
  let dbg := f.cause == causeBrk && t.world == 0 && core.dbg.attach && !t.super
  let t' := { t with frame := some { f with toDebugger := dbg }, wait := none, urgent := false, stall := none }
  let s1 := (s.putStrand t').setVoid t.launch
  if dbg then s1.putCore { core with dbg := { core.dbg with brkpend := core.dbg.brkpend ++ [t.at_] } }
  else
    let d := s1.die t.at_.die
    (s1.putDie { d with park := d.park ++ [t.at_] }).mapStrands (wakeRuntime s1 t.at_.die)

/-- TAKING A TRAP at the strand's current instruction: the frame saves the cause, the virtual PC, the address and the
information word; the strand leaves the issuing state and the runtime strand is told (17 R311, R312). A trap of the runtime
strand itself is not delivered (17 R310); a PAGE or GROTTO_POLICY of a confidential world kills the launch (17 R309). -/
def State.trap (s : State) (t : Strand) (x : Trap) : State :=
  if t.super then
    let d := s.die t.at_.die
    (s.putStrand { t with phase := .stopped, wait := none }).putDie { d with runtimeFault := true }
  else if t.world != 0 && killsConfidential x.cause then (s.putStrand t).killLaunch t.launch
  else s.parkWith t (x.frame t.pc (defaultResume x.cause) none none)

/-- Whether a suspension record is the one of an operation at `vpc` with an owner. -/
def Prog.is (p : Prog) (vpc : Word) (owner : Nat) : Bool := p.vpc == vpc && p.owner == owner

/-- The handle of a matrix operation in its records; 0 for none. -/
def MatOp.owner (o : MatOp) : Nat := o.handle.getD 0

/-- Continues the suspended matrix operations of a released strand but those whose own suspension is still pending (17
R314). -/
def Strand.continueOps (t : Strand) : Strand :=
  { t with ops := t.ops.map fun o =>
      { o with suspended := o.suspended && t.pending.any fun x => x.matrix && x.prog.is o.vpc o.owner } }

/-- Continues the suspended copies of a released strand likewise. -/
def Core.continueCopies (c : Core) (t : Strand) : Core :=
  { c with copies := c.copies.map fun o =>
      if o.owner == t.at_ then
        { o with suspended := o.suspended && t.pending.any fun x => !x.matrix && x.prog.is o.vpc o.q }
      else o }

/-- The frame of a suspension (07 R160; 09 R181): RESUME 2 when the strand waited in MWAIT or EXIT, else 0. -/
def Susp.frame (x : Susp) (vpc : Word) (resume : Nat) : Frame :=
  ⟨x.cause, vpc, x.addr, x.info, resume, resume == 2, if x.matrix then some x.prog else none,
    if x.matrix then none else some x.prog, false⟩

/-- Delivers a suspension to a strand that is not parked (07 R160, 17 R313): a wait in MWAIT or EXIT goes on after the
return, a WAITP ends complete, any other wait ends unissued. -/
def State.suspendStrand (s : State) (t : Strand) (x : Susp) : State :=
  match t.wait with
  | some (.mwait ..) | some .exit =>
    let w := t.wait
    let s1 := s.parkWith t (x.frame t.pc 2)
    match s1.strand? t.at_ with
    | some t' => s1.putStrand { t' with wait := w }
    | none => s1
  | some (.waitp _) => let t' := { t with pc := t.pc + 8, wait := none }; s.parkWith t' (x.frame t'.pc 0)
  | _ => s.parkWith t (x.frame t.pc 0)

/-- The strand stands at an instruction. The tag of an abandoned ATOM or CAS stays with it only at the place where it stood
(05 R110). -/
def Strand.standAt (t : Strand) (pc : Word) : Strand := { t with pc := pc, again := if pc == t.pc then t.again else none }

/-- What RESUME does: 0 reissues the instruction at TVPC, 1 goes on after it and drops its progress and packets, 2 lets the
wait at TVPC go on. -/
def Strand.resumeBy (t : Strand) (f : Frame) : Strand :=
  match f.resume with
  | 0 => { t.standAt f.vpc with wait := none }
  | 1 => { t with pc := f.vpc + 8, wait := none, vprog := none, kept := [], again := none }
  | _ => { t with pc := f.vpc }

/-- THE RETURN FROM A TRAP: TRET releases the parked strand (17 R314). With a suspension pending it parks again at once, and
RESUME has no effect. -/
def State.releaseStrand (s : State) (t : Strand) (f : Frame) : State :=
  let t1 := { t.continueOps with frame := none, readyAt := s.now t.at_, stall := none }
  let core := s.core (coreOf t.at_)
  let s1 := s.putCore ({ core with dbg := { core.dbg with brkpend := core.dbg.brkpend.filter fun i => i != t.at_ } }.continueCopies t)
  let d := s1.die t.at_.die
  let s2 := s1.putDie { d with park := d.park.filter fun i => i != t.at_ }
  match t.pending with
  | [] => s2.putStrand (t1.resumeBy f)
  | x :: r => s2.suspendStrand { t1 with pending := r } x

end Sys2Proof.Machine
end

