-- ==== Sys2Proof/Machine/Operands.lean ====
section
/-! DEFINITION. Operands: reading and writing the register files, the vector type, effective addresses, the registers that
an instruction names with their checks, and the checks of step 2 of R61 that read registers (01, 03 R57 to R61, 06 R112 to
R115, 07 R150). -/

namespace Sys2Proof.Machine

/-! ## Scalars (01 R11) -/

/-- A scalar register; s0 reads zero. -/
def Strand.rs (t : Strand) (n : Nat) : Word := if n == 0 then 0 else (t.regs.s[n]?).getD 0

/-- A scalar register as a number. -/
def Strand.rn (t : Strand) (n : Nat) : Nat := (t.rs n).toNat

/-- Writes a scalar register; a write to s0 is discarded. -/
def Strand.setS (t : Strand) (n : Nat) (v : Word) : Strand :=
  if n == 0 then t else { t with regs := { t.regs with s := t.regs.s.setIfInBounds n v } }

/-- Writes a number, reduced to 64 bits. -/
def Strand.setN (t : Strand) (n v : Nat) : Strand := t.setS n (BitVec.ofNat 64 v)

/-- Writes consecutive scalars. -/
def Strand.setRun (t : Strand) (n : Nat) : List Nat → Strand
  | [] => t
  | v :: r => (t.setN n v).setRun (n + 1) r

/-- A scalar field read as a signed number. -/
def Strand.ri (t : Strand) (n : Nat) : Int := signedOf (t.rn n) 64

/-- `wrap64`. -/
def wrap64 (x : Int) : Nat := wrapTo 64 x

/-! ## The vector type (01 R12, R26) -/

/-- LEW of VTYPE. -/
def Strand.lew (t : Strand) : Nat := field t.regs.vtype.toNat 0 2
/-- LG of VTYPE. -/
def Strand.lg (t : Strand) : Nat := field t.regs.vtype.toNat 2 2
/-- The element width EW. -/
def Strand.ew (t : Strand) : Nat := 8 * 2 ^ t.lew
/-- The group count G. -/
def Strand.grp (t : Strand) : Nat := 2 ^ t.lg
/-- VLEN of revision A. -/
def vlen : Nat := 2048
/-- VLMAX. -/
def Strand.vlmax (t : Strand) : Nat := vlen * t.grp / t.ew
/-- VL as a number. -/
def Strand.vl (t : Strand) : Nat := t.regs.vl.toNat

/-! ## Predicates (01 R13) -/

/-- All ones. -/
def allOnes : Nat := 2 ^ vlen - 1

/-- A predicate as a number; p0 reads all ones. -/
def Strand.rp (t : Strand) (n : Nat) : Nat := if n == 0 then allOnes else ((t.regs.p[n]?).getD 0).toNat

/-- A predicate bit. -/
def Strand.pbit (t : Strand) (n i : Nat) : Bool := bitAt (t.rp n) i

/-- Writes a predicate; bits at VLMAX and above become zero. -/
def Strand.setP (t : Strand) (n v : Nat) : Strand :=
  if n == 0 then t
  else { t with regs := { t.regs with p := t.regs.p.setIfInBounds n (BitVec.ofNat vlen (v % 2 ^ t.vlmax)) } }

/-- Bit `i` of the guard, inverted when N = 1 (03 R59). -/
def Strand.guardBit (t : Strand) (g : Guard) (i : Nat) : Bool := t.pbit g.reg i != g.neg

/-- The number whose bit `i` is `f i`, for `i < n`. -/
def bitsOf (n : Nat) (f : Nat → Bool) : Nat := (List.range n).foldr (fun i a => if f i then a + 2 ^ i else a) 0

/-! ## Vector groups (01 R12) -/

/-- The bits of a group of `g` registers from `n`, as one number. -/
def Strand.vgroup (t : Strand) (n : Nat) : Nat → Nat
  | 0 => 0
  | g + 1 => ((t.regs.v[n]?).getD 0).toNat + 2 ^ vlen * t.vgroup (n + 1) g

/-- Writes a group of `g` registers from `n`. -/
def Strand.setGroup (t : Strand) (n : Nat) : Nat → Nat → Strand
  | 0, _ => t
  | g + 1, x =>
    ({ t with regs := { t.regs with v := t.regs.v.setIfInBounds n (BitVec.ofNat vlen x) } }).setGroup (n + 1) g (x / 2 ^ vlen)

/-- The bits of a list of registers' values, lowest first. -/
def joinPackets : List (BitVec 2048) → Nat
  | [] => 0
  | x :: r => x.toNat + 2 ^ vlen * joinPackets r

/-- The bits of a vector source field: a group of registers, or the packets kept for a channel register (01 R14, R15). -/
def Strand.vsrc (t : Strand) (f g : Nat) : Nat :=
  if f < 32 then t.vgroup f g else joinPackets (assocD t.kept (f - 32) [])

/-- The elements of width `w` in `x`, `n` of them. -/
def elemsOf (w n x : Nat) : List Nat := (List.range n).map fun i => field x (w * i) w

/-- Elements joined, lowest first. -/
def joinElems (w : Nat) : List Nat → Nat
  | [] => 0
  | e :: r => e % 2 ^ w + 2 ^ w * joinElems w r

/-! ## Scale registers, descriptors and handles (01 R16 to R18) -/

/-- A scale register. -/
def Strand.rk (t : Strand) (n : Nat) : Word := (t.regs.k[n]?).getD 0
def Strand.setK (t : Strand) (n v : Nat) : Strand :=
  { t with regs := { t.regs with k := t.regs.k.setIfInBounds n (BitVec.ofNat 64 v) } }
/-- The tile descriptor that a field names: none for a field of 16 to 63 (01 R14). -/
def Strand.td? (t : Strand) (n : Nat) : Option Td := t.regs.td[n]?
/-- A tile descriptor. -/
def Strand.rtd (t : Strand) (n : Nat) : Td := (t.regs.td[n]?).getD Td.reset
def Strand.setTd (t : Strand) (n : Nat) (d : Td) : Strand :=
  { t with regs := { t.regs with td := t.regs.td.setIfInBounds n d } }
/-- A handle word. -/
def Strand.racc (t : Strand) (n : Nat) : Nat := ((t.regs.acc[n]?).getD 0).toNat
def Strand.setAcc (t : Strand) (n v : Nat) : Strand :=
  { t with regs := { t.regs with acc := t.regs.acc.setIfInBounds n (BitVec.ofNat 64 v) } }

/-- A field of a descriptor (01 R17). -/
def Td.get (d : Td) : TdField → Word
  | .base => d.base | .spfmt => d.spfmt | .rows => d.rows | .cols => d.cols | .stride => d.stride
  | .scalebase => d.scalebase | .device => d.device

/-- Writes a field of a descriptor. -/
def Td.put (d : Td) (f : TdField) (v : Word) : Td :=
  match f with
  | .base => { d with base := v } | .spfmt => { d with spfmt := v } | .rows => { d with rows := v }
  | .cols => { d with cols := v } | .stride => { d with stride := v } | .scalebase => { d with scalebase := v }
  | .device => { d with device := v }

/-- The space of a descriptor. -/
def Td.space (d : Td) : Space := (Space.of? (field d.spfmt.toNat 0 3)).getD .g
/-- The element format of a descriptor. -/
def Td.fmt (d : Td) : ElemFmt := (ElemFmt.of? (field d.spfmt.toNat 4 5)).getD .fp32
/-- The transpose bit of a descriptor. -/
def Td.transpose (d : Td) : Bool := bitAt d.spfmt.toNat 12

/-- SPFMT is legal when captured (01 R17). -/
def Td.captureOk (d : Td) : Bool :=
  let w := d.spfmt.toNat
  field w 0 3 < 4 && field w 4 5 < 10 && w == field w 0 3 + 16 * field w 4 5 + 4096 * field w 12 1

/-- A scale register is legal when captured (01 R16); a reserved SPACE code of an address is a reserved code of R58. -/
def scaleOk (k : Word) : Bool :=
  let w := k.toNat
  let kind := field w 62 2
  kind != 3 && field w 56 3 == 0 && (kind != 1 || field w 8 48 == 0) && (kind != 2 || field w 59 3 < 4)

/-! ## Handle words (01 R18) -/

def accValid (w : Nat) : Bool := bitAt w 63
def accPoison (w : Nat) : Bool := bitAt w 62
def accInt (w : Nat) : Bool := bitAt w 61
def accRows (w : Nat) : Nat := field w 48 8
def accCols (w : Nat) : Nat := field w 32 8
def accBase (w : Nat) : Nat := field w 0 15

/-- A handle word from its fields. -/
def accWord (valid poison int : Bool) (rows cols base : Nat) : Nat :=
  boolNat valid * 2 ^ 63 + boolNat poison * 2 ^ 62 + boolNat int * 2 ^ 61 + rows * 2 ^ 48 + cols * 2 ^ 32 + base

/-! ## Effective addresses (03 R57) -/

/-- `sign_extend(OFF17, 17)`. -/
def off17 (off : Nat) : Int := signedOf off 17
/-- `sign_extend(IMM32, 32)`. -/
def imm32s (imm : Nat) : Int := signedOf imm 32

/-- Bytes of a size code. -/
def szBytes (z : MemSize) : Nat := 2 ^ z.code

/-- The address of a scalar Format L access; in space D the B field names the device and there is no index. -/
def ea (x : MemForm) (t : Strand) : Nat :=
  if x.sp == .d then wrap64 (t.rn x.a + off17 x.off)
  else wrap64 (t.rn x.a + (t.rn x.b * 2 ^ x.xs : Nat) + off17 x.off)

/-- The address without an index: ATOM, CAS, SIGWAIT and unit vector accesses. -/
def ea0 (x : MemForm) (t : Strand) : Nat := wrap64 (t.rn x.a + off17 x.off)

/-- The device of a space-D access: bits 10:0 of the register. -/
def devOf (x : MemForm) (t : Strand) : Nat := t.rn x.b % 2048

/-! ## The registers that an instruction names (03 R61 step 3) -/

/-- A register field with the check it takes. -/
inductive Ref
  /-- Scalars `n` to `n + count - 1`; `n` is a multiple of `mult`, and nonzero when `nz`. -/
  | sc (n count mult : Nat) (nz : Bool)
  /-- A vector source group of `g`, which may be a channel register. -/
  | vsrc (f g : Nat)
  /-- A vector group of `g` that may be no channel register. -/
  | vec (f g : Nat)
  /-- A predicate source. -/
  | p (f : Nat)
  /-- A predicate destination, not p0. -/
  | pd (f : Nat)
  /-- Scale registers. -/
  | k (f count : Nat)
  /-- A tile descriptor. -/
  | td (f : Nat)
  /-- An accumulator handle. -/
  | acc (f : Nat)
  /-- Two groups that must not share a register, unless the source is a channel. -/
  | apart (d gd a ga : Nat)
  /-- An input channel by number. -/
  | inp (n : Nat)
  /-- An output channel by number. -/
  | out (n : Nat)
  deriving DecidableEq, Repr

/-- Whether a field passes: position, alignment, declared count, binding, overlap (01 R12 to R15, R22; 06 R115). -/
def Ref.ok (c : Decls) : Ref → Bool
  | .sc n count mult nz => n % mult == 0 && !(nz && n == 0) && n + count ≤ c.s
  | .vsrc f g => if f < 32 then f % g == 0 && f + g ≤ c.v else f < 48 && f - 32 < c.nin
  | .vec f g => f % g == 0 && f + g ≤ c.v && f < 32
  | .p f => f < 16 && f < c.p
  | .pd f => 0 < f && f < 16 && f < c.p
  | .k f count => f < 16 && f + count ≤ c.k
  | .td f => f < 16 && f < c.td
  | .acc f => f < 16 && f < c.acc
  | .apart d gd a ga => 32 ≤ a || d + gd ≤ a || a + ga ≤ d
  | .inp n => n < 16 && n < c.nin
  | .out n => n < 16 && n < c.nout

/-- The bank of each register that a field names (01 R23). -/
def Ref.banks : Ref → List Nat
  | .sc n count _ _ => (List.range count).map fun i => (n + i) / 8
  | .vsrc f g => if f < 32 then (List.range g).map fun i => (f + i) / 4 else []
  | .vec f g => (List.range g).map fun i => (f + i) / 4
  | .p f | .pd f => [f / 2]
  | .k f count => (List.range count).map fun i => (f + i) / 2
  | .td f | .acc f => [f / 2]
  | .apart .. | .inp _ | .out _ => []

/-- One scalar field. -/
def s1 (n : Nat) : Ref := .sc n 1 1 false

/-- Two-source integer instructions. -/
def aluRefs (x : AluForm) : List Ref := [s1 x.d, s1 x.a, s1 x.b]
def fpRefs (x : FpForm) : List Ref := [s1 x.d, s1 x.a, s1 x.b]

/-- The data registers of LD and ST (05 R98). -/
def ldRef (d : Nat) : MemSize → Ref
  | .qd => .sc d 2 2 true
  | .sec => .sc d 4 4 true
  | _ => s1 d

/-- The data registers of CAS (05 R104). -/
def casRef (d : Nat) : MemSize → Ref
  | .qd => .sc d 4 4 true
  | _ => .sc d 2 2 true

def addrRefs (x : MemForm) : List Ref := [s1 x.a, s1 x.b]

/-- Two-source vector instructions with a vector destination. -/
def vecSrcs (x : VecForm) (g : Nat) : List Ref := [.vsrc x.a g, if x.xb then s1 x.b else .vsrc x.b g]
def vecRefs (x : VecForm) (g : Nat) : List Ref := .vec x.d g :: vecSrcs x g
def unRefs (x : VecUn) (g : Nat) : List Ref := [.vec x.d g, .vsrc x.a g]
def redRefs (x : RedForm) (g : Nat) : List Ref := [s1 x.d, .vsrc x.a g, s1 x.b]
def mmaRefs (x : MmaForm) : List Ref := [.acc x.d, .td x.a, .td x.b, .k x.ka 1, .k x.kb 1]
def mapRefs (x : MapForm) : List Ref := [s1 x.a, s1 x.b]

/-- Group sizes of VFCVT: of the source and of the destination (06 R131). -/
def cvtGroups (t : Strand) (src dst : CvtType) : Nat × Nat :=
  let ws := cvtWidth src
  let wd := cvtWidth dst
  let n := min ws wd
  (t.grp * (ws / n), t.grp * (wd / n))

/-- A VFCVT source: the wider operand may be no channel register (06 R115). -/
def cvtSrc (f gs gd : Nat) : Ref := if gd < gs then .vec f gs else .vsrc f gs

/-- Registers of the element bytes of VMXQ (06 R133). -/
def mxqGroup (t : Strand) : Nat := 2 ^ (t.lg - t.lew)

/-- Register fields of an instruction beside its guard. An event names none. -/
def regRefs (i : Instr) (t : Strand) : List Ref :=
  let g := t.grp
  match i with
  | .nop _ | .br _ _ _ | .exit _ | .yield _ | .trap _ _ | .svc _ _ | .brk _ _ | .commit _ | .abort _ _
  | .fence _ _ _ _ | .sbar _ _ | .qfence _ _ | .spstop _ _ => []
  | .brx _ a _ | .ret _ a _ | .loop _ a _ _ | .waitp _ a | .setsr _ a _ | .tret _ a | .tlbinv _ a _
  | .plateinv _ a _ | .chkpt _ a _ | .enq _ a | .switch _ a | .mcode _ a _ | .barw _ a _ | .bari _ a _
  | .sptol _ a _ _ => [s1 a]
  | .call _ d _ _ | .getsr _ d _ | .energy _ d _ | .movi _ d _ _ | .addpc _ d _ | .cstat _ d _ | .bara _ d _
  | .spstat _ d _ _ => [s1 d]
  | .callx _ d a _ | .addi _ d a _ _ | .logi _ d a _ _ _ | .shi _ d a _ _ _ | .clz _ d a _ | .popc _ d a _
  | .ctz _ d a _ | .movhi _ d a _ | .extr _ d a _ _ _ | .insr _ d a _ _ | .fsqrt _ d a _ _ | .fcvt _ d a _ _ _
  | .fclass _ d a _ | .widx _ d a _ | .leaseq _ d a | .podid _ d a _ | .sessinfo _ d a _ => [s1 d, s1 a]
  | .add x | .sub x | .mul x | .mulh x | .div x | .rem x | .and x | .or x | .xor x | .shl x | .shr x | .sra x
  | .min x | .max x => aluRefs x
  | .sel _ d a b c _ => [s1 d, s1 a, s1 b, .p c]
  | .cmp _ d a b _ _ _ => [.pd d, s1 a, s1 b]
  | .cmpi _ d a _ _ _ => [.pd d, s1 a]
  | .fadd x | .fsub x | .fmul x | .fdiv x => fpRefs x
  | .fma x c _ => fpRefs x ++ [s1 c]
  | .fmin _ d a b _ | .fmax _ d a b _ | .fsgn _ d a b _ _ => [s1 d, s1 a, s1 b]
  | .fcmp _ d a b _ _ _ => [.pd d, s1 a, s1 b]
  | .plog _ d a b _ => [.pd d, .p a, .p b]
  | .pset _ d a _ _ => [.pd d, s1 a]
  | .pmov _ d a b k => match k with
    | .pp => [.pd d, .p a]
    | .sp => [s1 d, .p a, s1 b]
    | .ps => [.pd d, s1 a, s1 b]
  | .pcount _ d a _ | .pfirst _ d a _ _ => [s1 d, .p a]
  | .ld x _ _ | .st x _ => ldRef x.d x.sz :: addrRefs x
  | .mcast x _ => ldRef x.d x.sz :: addrRefs x
  | .lda x _ | .strel x _ | .atom x _ _ => s1 x.d :: addrRefs x
  | .cas x _ => casRef x.d x.sz :: addrRefs x
  | .pref x | .unpin x | .sigwake x => addrRefs x
  | .pin x | .sigwait x _ => .pd x.d :: addrRefs x
  | .vsetl _ d a _ _ _ => [s1 d, s1 a]
  | .vld x | .vst x | .vldb x | .vlds x | .vsts x | .vldff x => .vec x.d g :: addrRefs x
  | .vldx x => [.vec x.d g, s1 x.a, .vsrc x.b g, .apart x.d g x.b g]
  | .vstx x => [.vec x.d g, s1 x.a, .vsrc x.b g]
  | .vadd x | .vsub x | .vmul x | .vmac x | .vand x | .vor x | .vxor x | .vshl x | .vshr x | .vsra x => vecRefs x g
  | .vmulh x _ | .vmin x _ | .vmax x _ | .vadds x _ | .vsubs x _ | .vdiv x _ | .vrem x _ => vecRefs x g
  | .vcmp x _ | .vfcmp x _ _ => .pd x.d :: vecSrcs x g
  | .vmerge x c => vecRefs x g ++ [.p c]
  | .vnarrow x _ => [.vec x.d g, .vec x.a (2 * g), .apart x.d g x.a (2 * g)]
  | .vwiden x _ => [.vec x.d (2 * g), .vsrc x.a g, .apart x.d (2 * g) x.a g]
  | .vid _ d _ _ => [.vec d g]
  | .vfadd x _ _ | .vfsub x _ _ | .vfmul x _ _ | .vfdiv x _ _ | .vfmin x _ | .vfmax x _ | .vfsgn x _ _ => vecRefs x g
  | .vfma x c _ _ _ => vecRefs x g ++ [.vsrc c g]
  | .vfsqrt x _ _ | .vfexp2 x _ _ | .vflog2 x _ _ | .vfclass x _ => unRefs x g
  | .vfcvt x src dst _ =>
    let (gs, gd) := cvtGroups t src dst
    [.vec x.d gd, cvtSrc x.a gs gd] ++
      (if gs == gd then [] else [.apart x.d gd x.a gs])
  | .vmxq _ d a c _ _ _ => [.vec d (mxqGroup t), .vsrc a g, .vec c 1, .apart d (mxqGroup t) c 1]
  | .vredsum x _ | .vfredsum x _ _ | .vredmax x _ _ | .vredmin x _ _ => redRefs x g
  | .vargmax _ d a _ _ => [s1 d, .vsrc a g]
  | .vslideup x b | .vslidedn x b => unRefs x g ++ [s1 b, .apart x.d g x.a g]
  | .vperm x => vecRefs x g ++ [.apart x.d g x.a g] ++ (if x.xb then [] else [.apart x.d g x.b g])
  | .vcompress d a c _ => [.vec d g, .vsrc a g, .p c, .apart d g a g]
  | .vbcast _ d b _ _ => [.vec d g, s1 b]
  | .vmvsv _ d a b => [.vec d g, s1 a, s1 b]
  | .vmvvs _ d a b _ => [s1 d, .vsrc a g, s1 b]
  | .viota x => [.vec x.d g, .p x.a]
  | .vmv x => unRefs x g
  | .tdset _ d a _ _ => [.td d, s1 a]
  | .tdget _ d a _ => [s1 d, .td a]
  | .kset _ d a _ _ => [.k d 1, s1 a]
  | .mzero _ d a b _ => [.acc d, s1 a, s1 b]
  | .mma x | .mmaq x _ => mmaRefs x
  | .maccld _ d a => [.acc d, .td a]
  | .maccst _ d a _ _ => [.td d, .acc a]
  | .maccv _ d a b _ _ _ => [.vec d g, .acc a, s1 b]
  | .mwait _ d a => [.p d, s1 a]
  | .mstat _ d a isSt _ => if isSt then [s1 d] else [s1 d, .acc a]
  | .cpy x _ _ | .cgather x _ | .cscatter x _ | .cfill x _ => [s1 x.d, s1 x.a, s1 x.b, s1 x.c]
  | .cpym x k _ _ => [.acc x.d, .td x.a, .td x.b, .td x.c, .k k 2]
  | .cmapwt x | .cmapclr x => mapRefs x
  | .cmaptst x d => .pd d :: mapRefs x
  | .cdrain _ d _ => [.p d]
  | .deq _ d c => [s1 d, .pd c]
  | .deqt _ d a c => [s1 d, s1 a, .pd c]
  | .chw _ d a => [.out d, .vsrc a g]
  | .chws _ d a b => [.out d, s1 a, s1 b]
  | .chstat _ d sl => match sl with
    | .inp n => [s1 d, .inp n]
    | _ => [s1 d]
  | .spinit _ a b _ _ => [s1 a, s1 b]
  | .spnext _ d b _ => [s1 d, .pd b]
  | .spacc _ d a _ _ => [.p d, s1 a]
  | .spwait _ d a _ => [.pd d, s1 a]
  | .lease _ d a b _ | .unlease _ d a b | .usage _ d a b => [s1 d, s1 a, s1 b]
  | .cdec _ d a b c p _ => [s1 d, s1 a, s1 b, s1 c, .pd p]
  | .cenc _ d a b c _ => [s1 d, s1 a, s1 b, s1 c]
  | .grchk _ d a _ => [.pd d, s1 a]
  | _ => []

/-! ## Guards (03 R59) -/

/-- The guard field of an instruction; VCOMPRESS has none and an event has none. -/
def guardOf : Instr → Guard
  | .nop g | .br g _ _ | .brx g _ _ | .call g _ _ _ | .callx g _ _ _ | .ret g _ _ | .loop g _ _ _ | .exit g | .yield g
  | .waitp g _ | .trap g _ | .svc g _ | .brk g _ | .getsr g _ _ | .setsr g _ _ | .tret g _ | .tlbinv g _ _
  | .plateinv g _ _ | .chkpt g _ _ | .energy g _ _ => g
  | .add x | .sub x | .mul x | .mulh x | .div x | .rem x | .and x | .or x | .xor x | .shl x | .shr x | .sra x
  | .min x | .max x => x.g
  | .addi g _ _ _ _ | .logi g _ _ _ _ _ | .shi g _ _ _ _ _ | .clz g _ _ _ | .popc g _ _ _ | .ctz g _ _ _
  | .sel g _ _ _ _ _ | .movi g _ _ _ | .movhi g _ _ _ | .extr g _ _ _ _ _ | .insr g _ _ _ _ | .cmp g _ _ _ _ _ _
  | .cmpi g _ _ _ _ _ | .addpc g _ _ => g
  | .fadd x | .fsub x | .fmul x | .fdiv x | .fma x _ _ => x.g
  | .fsqrt g _ _ _ _ | .fmin g _ _ _ _ | .fmax g _ _ _ _ | .fcmp g _ _ _ _ _ _ | .fcvt g _ _ _ _ _ | .fclass g _ _ _
  | .fsgn g _ _ _ _ _ | .plog g _ _ _ _ | .pset g _ _ _ _ | .pmov g _ _ _ _ | .pcount g _ _ _ | .pfirst g _ _ _ _ => g
  | .ld x _ _ | .st x _ | .lda x _ | .strel x _ | .atom x _ _ | .cas x _ | .pref x | .pin x | .unpin x | .mcast x _ => x.g
  | .fence g _ _ _ | .sbar g _ | .vsetl g _ _ _ _ _ => g
  | .vld x | .vlds x | .vldx x | .vldff x | .vst x | .vsts x | .vstx x | .vldb x => x.g
  | .vadd x | .vsub x | .vmul x | .vmulh x _ | .vmac x | .vmin x _ | .vmax x _ | .vand x | .vor x | .vxor x | .vshl x
  | .vshr x | .vsra x | .vcmp x _ | .vmerge x _ | .vadds x _ | .vsubs x _ | .vdiv x _ | .vrem x _ => x.g
  | .vnarrow x _ | .vwiden x _ => x.g
  | .vid g _ _ _ => g
  | .vfadd x _ _ | .vfsub x _ _ | .vfmul x _ _ | .vfma x _ _ _ _ | .vfdiv x _ _ | .vfmin x _ | .vfmax x _
  | .vfcmp x _ _ | .vfsgn x _ _ => x.g
  | .vfsqrt x _ _ | .vfcvt x _ _ _ | .vfexp2 x _ _ | .vflog2 x _ _ | .vfclass x _ => x.g
  | .vmxq g _ _ _ _ _ _ => g
  | .vredsum x _ | .vfredsum x _ _ | .vredmax x _ _ | .vredmin x _ _ => x.g
  | .vargmax g _ _ _ _ => g
  | .vslideup x _ | .vslidedn x _ | .viota x | .vmv x => x.g
  | .vperm x => x.g
  | .vbcast g _ _ _ _ | .vmvsv g _ _ _ | .vmvvs g _ _ _ _ => g
  | .tdset g _ _ _ _ | .tdget g _ _ _ | .kset g _ _ _ _ | .mzero g _ _ _ _ => g
  | .mma x | .mmaq x _ => x.g
  | .maccld g _ _ | .maccst g _ _ _ _ | .maccv g _ _ _ _ _ _ | .mcode g _ _ | .mwait g _ _ | .mstat g _ _ _ _ => g
  | .cpy x _ _ | .cpym x _ _ _ | .cgather x _ | .cscatter x _ | .cfill x _ => x.g
  | .cmapwt x | .cmaptst x _ | .cmapclr x => x.g
  | .cdrain g _ _ | .qfence g _ | .cstat g _ _ | .deq g _ _ | .deqt g _ _ _ | .enq g _ | .chw g _ _ | .chws g _ _ _
  | .commit g | .abort g _ | .widx g _ _ _ | .bara g _ _ | .barw g _ _ | .bari g _ _ | .chstat g _ _ | .switch g _ => g
  | .sigwait x _ | .sigwake x => x.g
  | .spinit g _ _ _ _ | .spnext g _ _ _ | .spacc g _ _ _ _ | .spstat g _ _ _ | .sptol g _ _ _ | .spstop g _
  | .spwait g _ _ _ | .lease g _ _ _ _ | .unlease g _ _ _ | .leaseq g _ _ | .podid g _ _ _ | .cdec g _ _ _ _ _ _
  | .cenc g _ _ _ _ _ | .usage g _ _ _ | .sessinfo g _ _ _ | .grchk g _ _ _ => g
  | _ => ⟨0, false⟩

/-- Element-guarded instructions: Formats V and M but for VMVVS and VCOMPRESS, and the vector loads and stores. -/
def elementGuarded : Instr → Bool
  | .vld _ | .vlds _ | .vldx _ | .vldff _ | .vst _ | .vsts _ | .vstx _ | .vldb _
  | .vadd _ | .vsub _ | .vmul _ | .vmulh _ _ | .vmac _ | .vmin _ _ | .vmax _ _ | .vand _ | .vor _ | .vxor _ | .vshl _
  | .vshr _ | .vsra _ | .vcmp _ _ | .vmerge _ _ | .vadds _ _ | .vsubs _ _ | .vdiv _ _ | .vrem _ _
  | .vnarrow _ _ | .vwiden _ _ | .vid _ _ _ _
  | .vfadd _ _ _ | .vfsub _ _ _ | .vfmul _ _ _ | .vfma _ _ _ _ _ | .vfdiv _ _ _ | .vfmin _ _ | .vfmax _ _
  | .vfcmp _ _ _ | .vfsgn _ _ _ | .vfsqrt _ _ _ | .vfcvt _ _ _ _ | .vfexp2 _ _ _ | .vflog2 _ _ _ | .vfclass _ _
  | .vmxq _ _ _ _ _ _ _ | .vredsum _ _ | .vfredsum _ _ _ | .vredmax _ _ _ | .vredmin _ _ _ | .vargmax _ _ _ _ _
  | .vslideup _ _ | .vslidedn _ _ | .viota _ | .vmv _ | .vperm _ | .vbcast _ _ _ _ _ | .vmvsv _ _ _ _
  | .vcompress _ _ _ _ | .mma _ | .mmaq _ _ | .maccv _ _ _ _ _ _ _ | .chw _ _ _ => true
  | _ => false

/-- The registers that an instruction names, its guard among them (01 R22). -/
def allRefs (i : Instr) (t : Strand) : List Ref := .p (guardOf i).reg :: regRefs i t

/-- Every register check of step 3. -/
def refsOk (i : Instr) (t : Strand) : Bool := (allRefs i t).all fun r => r.ok t.decls

/-- Whether the first field of an instruction's registers is only written. -/
def firstWritten : Instr → Bool
  | .brx .. | .ret .. | .loop .. | .waitp .. | .setsr .. | .tret .. | .tlbinv .. | .plateinv .. | .chkpt .. | .enq .. | .switch ..
  | .mcode .. | .barw .. | .bari .. | .sptol .. | .spinit .. | .insr .. | .vmac .. | .st .. | .mcast .. | .strel .. | .cas ..
  | .pref .. | .unpin .. | .sigwake .. | .vst .. | .vsts .. | .vstx .. | .cpy .. | .cgather .. | .cscatter .. | .cfill .. | .cpym ..
  | .cmapwt .. | .cmapclr .. | .cdec .. | .cenc .. | .maccst .. | .mma .. | .mmaq .. => false
  | _ => true

/-- The registers that an instruction reads: only its guard when a scalar guard is false (03 R59). -/
def sourceRefs (i : Instr) (t : Strand) : List Ref :=
  let l := regRefs i t
  .p (guardOf i).reg :: if !elementGuarded i && !t.guardBit (guardOf i) 0 then [] else if firstWritten i then l.drop 1 else l

/-- Whether a field names a register. -/
def Ref.names (file : RegFile) (n : Nat) : Ref → Bool
  | .sc b count _ _ => file == .s && decide (b ≤ n) && decide (n < b + count)
  | .vsrc f g | .vec f g => file == .v && decide (f ≤ n) && decide (n < f + g)
  | .p f | .pd f => file == .p && f == n
  | .k f count => file == .k && decide (f ≤ n) && decide (n < f + count)
  | .td f => file == .td && f == n
  | .acc f => file == .acc && f == n
  | .apart .. | .inp _ | .out _ => false

/-- The channel registers that an instruction reads, each once, with the packets it takes (01 R15). -/
def chanReads (i : Instr) (t : Strand) : List (Nat × Nat) :=
  uniq ((regRefs i t).filterMap fun r => match r with
    | .vsrc f g => if f < 32 then none else some (f - 32, g)
    | _ => none)

/-! ## Checks of step 2 that read registers (06 R114; 01 R16, R17; 07 R150) -/

/-- Floating-point element widths. -/
def fpEwOk (t : Strand) (alt : Bool) : Bool := 1 ≤ t.lew && (!alt || t.lew == 1)

/-- Formats of matrix operands. -/
def operandFmt : ElemFmt → Bool
  | .bf16 | .mxfp8 | .mxfp8e5 | .int8 => true
  | _ => false

/-- A scale register may stand beside an operand. -/
def scaleFits (k : Word) (f : ElemFmt) : Bool :=
  scaleOk k && (field k.toNat 62 2 == 0 || !(f == .bf16 || f == .int8))

/-- The captured operands of an MMA (07 R150). A descriptor field of 16 to 63 names no descriptor: nothing is captured from it, and
step 3 refuses it (01 R14); the scale registers are captured all the same. -/
def mmaEncOk (a b : Option Td) (ka kb : Word) : Bool :=
  scaleOk ka && scaleOk kb && a.all (fun a => a.captureOk && operandFmt a.fmt && scaleFits ka a.fmt) &&
    b.all (fun b => b.captureOk && (operandFmt b.fmt || b.fmt == .vq2x) &&
      !(b.fmt == .vq2x && (b.transpose || b.stride.toNat % 8 != 0)) && scaleFits kb b.fmt) &&
    a.all fun a => b.all fun b => (a.fmt == .int8) == (b.fmt == .int8)

/-- The widths declared by `.workid`; one field of 64 without a declaration (10 R198). -/
def Strand.workWidths (t : Strand) : List Nat := if t.widths.isEmpty then [64] else t.widths

/-- The checks of step 2 that depend on registers. -/
def encOk (i : Instr) (t : Strand) : Bool :=
  match i with
  | .vld x | .vlds x | .vldx x | .vldff x | .vst x | .vsts x | .vstx x | .vldb x => x.sz.code == t.lew
  | .vnarrow _ _ | .vwiden _ _ => t.lew ≤ 2 && t.lg ≤ 2
  | .vfadd _ alt _ | .vfsub _ alt _ | .vfmul _ alt _ | .vfma _ _ _ alt _ | .vfdiv _ alt _ | .vfmin _ alt
  | .vfmax _ alt | .vfcmp _ _ alt | .vfsgn _ _ alt | .vfsqrt _ alt _ | .vfexp2 _ alt _ | .vflog2 _ alt _
  | .vfclass _ alt | .vfredsum _ alt _ | .vmxq _ _ _ _ _ alt _ => fpEwOk t alt
  | .vredmax _ k alt | .vredmin _ k alt | .vargmax _ _ _ k alt => k != .f || fpEwOk t alt
  | .vfcvt _ src dst _ =>
    t.ew == min (cvtWidth src) (cvtWidth dst) && t.grp * (max (cvtWidth src) (cvtWidth dst) / t.ew) ≤ 8
  | .maccv _ _ _ _ _ _ bf => if bf then t.lew == 1 else t.lew == 2
  | .mma x => mmaEncOk (t.td? x.a) (t.td? x.b) (t.rk x.ka) (t.rk x.kb)
  | .mmaq x _ => mmaEncOk (t.td? x.a) (t.td? x.b) (t.rk x.ka) (t.rk x.kb)
  | .cpym x k _ _ =>
    (t.td? x.c).all Td.captureOk && mmaEncOk (t.td? x.a) (t.td? x.b) (t.rk k) (t.rk (k + 1))
  | .maccld _ _ a => (t.td? a).all fun d =>
    d.captureOk && (d.fmt == .fp32 || d.fmt == .bf16 || d.fmt == .int32) && !d.transpose
  | .maccst _ d _ _ f => (t.td? d).all fun x => x.captureOk && x.fmt == f && !x.transpose
  | .widx _ _ _ k => k < t.workWidths.length
  | _ => true

/-- The privilege check of step 5 (01 R29; 04 R87; 17 R314 to R323). -/
def privOk (i : Instr) (t : Strand) : Bool :=
  match i with
  | .getsr _ _ n | .setsr _ _ n => n < 0x100 || (t.super && n < 0xF00)
  | .tret _ _ | .tlbinv _ _ _ | .plateinv _ _ _ | .chkpt _ _ _ => t.super
  | .exit _ => !t.super
  | _ => true

/-! ## The common frame of an instruction (03 R61) -/

/-- An instruction that completes: the PC moves past it and nothing of a stop inside it is kept. -/
def Strand.finish (t : Strand) : Strand :=
  { t with pc := t.pc + 8, kept := [], vprog := none, again := none }

/-- Stores a strand whose instruction has completed. -/
def State.complete (s : State) (t : Strand) : State := s.putStrand t.finish

/-- Stores a strand whose instruction waits. -/
def State.waitIn (s : State) (t : Strand) (w : Wait) : State := s.putStrand { t with wait := some w }

/-- The instruction of a strand does not issue yet, and is attempted again (16 R305). -/
def State.stall (s : State) (t : Strand) (x : Stall) : State := s.putStrand { t with stall := some x }

/-- A waiting instruction completes; a suspension that came meanwhile is then delivered (07 R160; 17 R313). -/
def State.finishWait (s : State) (t : Strand) : State :=
  let t1 := { t.finish with wait := none, readyAt := s.now t.at_ }
  match t1.frame, t1.pending with
  | none, x :: r => s.suspendStrand { t1 with pending := r } x
  | _, _ => s.putStrand t1

/-- The bytes of one firing of an input, and whether it is detached. -/
def State.inputOf (s : State) (inst n : Nat) : Option Consumer :=
  (s.stage? inst).bind fun g => (g.ins.find? fun p => p.1 == n).bind fun p =>
    (s.chan? p.2).bind fun c => c.consumers.find? fun k => k.inst == inst && k.input == n

/-- Bytes of a packet: VLEN / 8. -/
def packetBytes : Nat := 256

/-- The packets of a firing of an input. -/
def Consumer.packets (c : Consumer) : Nat := (c.bytes + packetBytes - 1) / packetBytes

/-- What stands before an instruction's packets. -/
inductive Packets
  | ready (t : Strand) | stall | trap (x : Trap)
  deriving DecidableEq, Repr

/-- Takes the packets of channel `q` (01 R15; 10 R193, R203): none while too few have arrived. -/
def takePackets (s : State) (t : Strand) (q g : Nat) : Packets :=
  if t.kept.any fun p => p.1 == q then .ready t
  else
    match t.held with
    | none => .trap (bounds 13)
    | some _ =>
      match s.inputOf t.inst q with
      | none => .trap (bounds 13)
      | some c =>
        if c.detached then .trap ⟨causeChannelLag, 0, q⟩
        else if c.packets < nth t.consumed q 0 + g then .trap (bounds 15)
        else
          let have_ := (t.regs.q[q]?).getD []
          if have_.length < g then .stall
          else .ready { t with
            regs := { t.regs with q := t.regs.q.setIfInBounds q (have_.drop g) }
            kept := t.kept ++ [(q, have_.take g)]
            consumed := (List.range 16).map fun i => nth t.consumed i 0 + (if i == q then g else 0) }

/-- Takes the packets of every channel that an instruction reads: all or none. A channel that traps does so even where an
earlier one would make the strand wait (01 R15). -/
def takeAll (s : State) (t : Strand) : List (Nat × Nat) → Packets
  | [] => .ready t
  | (q, g) :: r =>
    match takePackets s t q g with
    | .ready t' => takeAll s t' r
    | .stall =>
      match takeAll s t r with
      | .trap x => .trap x
      | _ => .stall
    | .trap x => .trap x

/-- Steps 2 to 5 of R61 on the strand at the focus, then the packets of R15, then the instruction's own effect. A strand
that waits for packets notes so and leaves the rest of the state as it is. -/
def State.gatedStep (s : State) (t : Strand) (i : Instr) (body : State → Strand → State) : State :=
  if !encOk i t then s.trap t ⟨causeIllegalEnc, 0, 0⟩
  else if !refsOk i t then s.trap t ⟨causeIllegalReg, 0, 0⟩
  else if !elementGuarded i && !t.guardBit (guardOf i) 0 then s.complete t
  else if !privOk i t then s.trap t ⟨causePriv, 0, 0⟩
  else
    match takeAll s t (chanReads i t) with
    | .trap x => s.trap t x
    | .stall => s.stall t .packets
    | .ready t' => body s t'

/-- Runs an instruction on the strand at the focus; where no strand stands there is nothing to run. -/
def gated (i : Instr) (s : State) (body : State → Strand → State) : Out :=
  match s.strand? s.focus with
  | none => .fault .emptySlot
  | some t => .next (s.gatedStep t i body)

end Sys2Proof.Machine
end

