-- ==== Sys2Proof/Machine/Flags.lean ====
section
/-! DEFINITION. Flag computations: the sticky floating-point flags, the rounding mode an instruction uses, `write_pred`,
integer and floating-point conditions (01 R26; 04 R75, R76, R79). -/

namespace Sys2Proof.Machine

/-- ORs flags into FPFLAGS (01 R26). -/
def Strand.orFlags (t : Strand) (fl : Nat) : Strand :=
  { t with regs := { t.regs with fpflags := t.regs.fpflags ||| BitVec.ofNat 64 fl } }

/-- FPCTL.RM. -/
def Strand.rm (t : Strand) : RMode := RMode.ofCode (field t.regs.fpctl.toNat 0 3)

/-- FPCTL.SAT. -/
def Strand.sat (t : Strand) : Bool := bitAt t.regs.fpctl.toNat 3

/-- The rounding mode of an instruction: its static RND, or FPCTL.RM (04 R76). -/
def Strand.mode (t : Strand) (r : Rnd) : RMode := if r == .dyn then t.rm else RMode.ofCode (r.code - 1)

/-- SETSR of FPCTL: an RM code of 5 to 7 leaves the register unchanged; bits above 3 read zero (01 R26). -/
def setFpctl (old : Word) (v : Nat) : Word := if 4 < field v 0 3 then old else BitVec.ofNat 64 (field v 0 4)

/-- `write_pred` (04 R75): the condition at every position below VLMAX, combined with the old bits by COMB. -/
def Strand.writePred (t : Strand) (d : Nat) (c : Bool) (comb : Comb) : Strand :=
  let full := 2 ^ t.vlmax - 1
  let old := t.rp d % 2 ^ t.vlmax
  t.setP d (match comb with
    | .set => if c then full else 0
    | .and => if c then old else 0
    | .or => if c then full else old)

/-- The integer conditions on `w`-bit patterns (04 R75). -/
def intCond (c : IntCond) (w a b : Nat) : Bool :=
  match c with
  | .eq => a == b
  | .ne => a != b
  | .lt => decide (signedOf a w < signedOf b w)
  | .ge => decide (signedOf b w ≤ signedOf a w)
  | .ltu => decide (a < b)
  | .geu => decide (b ≤ a)

/-- The scalar formats (04 R76). -/
def fpFmt : FpFmt → Fmt
  | .f64 => fp64 | .f32 => fp32 | .bf16 => bf16 | .f16 => fp16

/-- A scalar source in a format: its low bits (04 R76). -/
def Strand.rf (t : Strand) (n : Nat) (f : Fmt) : Nat := t.rn n % 2 ^ f.width

/-- The format of vector elements by EW and ALT (06 R128). -/
def elemFmt (ew : Nat) (alt : Bool) : Fmt := if ew == 64 then fp64 else if ew == 32 then fp32 else if alt then fp16 else bf16

/-- `least` and `greatest` of a width and signedness, and `clamp` (02 R41; 04 R71). -/
def clampTo (w : Nat) (u : Bool) (x : Int) : Int :=
  let lo : Int := if u then 0 else -(2 ^ (w - 1) : Nat)
  let hi : Int := if u then (2 ^ w : Nat) - 1 else (2 ^ (w - 1) : Nat) - 1
  if x < lo then lo else if hi < x then hi else x

/-- A `w`-bit pattern read unsigned or signed. -/
def readInt (w : Nat) (u : Bool) (a : Nat) : Int := if u then ((a % 2 ^ w : Nat) : Int) else signedOf a w

/-- Sign-extends a `w`-bit pattern to 64 bits. -/
def sext (w a : Nat) : Nat := wrapTo 64 (signedOf a w)

/-- The quotient of 02 R41: truncated toward zero; by zero it is all ones; the least value by -1 is the least value. -/
def divInt (w : Nat) (x y : Int) : Int := if y == 0 then (2 ^ w : Nat) - 1 else Int.tdiv x y

/-- The remainder of 02 R41: x - y × quotient; by zero it is x. -/
def remInt (x y : Int) : Int := if y == 0 then x else Int.tmod x y

end Sys2Proof.Machine
end

