-- ==== Sys2Proof/Machine/Issue.lean ====
section
/-! DEFINITION. Issue and fetch: which strand of a core issues next, the register banks its instruction wakes, and the
fetch of its word with the Plate Store (01 R24; 03 R54; 14 R256, R258; 16 R305). -/

namespace Sys2Proof.Machine

/-! ## The issue selector (16 R305) -/

/-- Whether issue is stopped for a strand by a debugger halt (17 R325): not for the runtime strand on core 0, and not for
the strand that STEP names. -/
def State.haltedFor (s : State) (t : Strand) : Bool :=
  let d := (s.core (coreOf t.at_)).dbg
  d.halt && !t.super && !(d.stepping && d.stepslot == t.at_.slot)

/-- Whether a strand has found that it waits for packets or for a copy queue. -/
def Strand.heldUp (t : Strand) : Bool := t.stall == some .packets || t.stall == some .queue

/-- Whether a strand may issue: it is live and waits for nothing, in no trap, in no halt, not for a bank, not for packets
and not for a copy queue. -/
def State.canIssue (s : State) (t : Strand) : Bool :=
  t.phase == .live && t.wait.isNone && t.frame.isNone && !t.bankStall && !t.heldUp && !s.haltedFor t

/-- Cycles without an issue after which a ready strand is urgent. -/
def urgentAfter : Nat := 48

/-- The cycle from which the age of a strand counts: the later of its ready time and its last issue. -/
def Strand.ageFrom (t : Strand) : Nat := max t.readyAt t.lastIssue

/-- Whether a ready strand is urgent. -/
def State.isUrgent (s : State) (t : Strand) : Bool := t.urgent || decide (urgentAfter ≤ s.now t.at_ - t.ageFrom)

/-- Whether strand `a` issues before strand `b`, given which are urgent. -/
def issuesBefore (urgent : Strand → Bool) (a b : Strand) : Bool :=
  let older := a.readyAt < b.readyAt || (a.readyAt == b.readyAt && a.at_.slot < b.at_.slot)
  if urgent a != urgent b then urgent a
  else if urgent a then older
  else if a.super != b.super then a.super
  else if a.cls != b.cls then b.cls < a.cls
  else older

/-- The strand that issues first among several. -/
def firstToIssue (urgent : Strand → Bool) : List Strand → Option Strand
  | [] => none
  | t :: r =>
    match firstToIssue urgent r with
    | none => some t
    | some u => if issuesBefore urgent u t then some u else some t

/-- The last local cycle of a wait with a limit: the end of a WAITP or a DEQT, and the cycle after the end of an SPWAIT, whose stop
may still reach it in the cycle of its end (04 R86; 10 R196; 12 R237). -/
def Wait.stopsAt : Wait → Option Nat
  | .waitp until_ => some until_
  | .deq _ _ (some l) since => some (since + l)
  | .spwait _ _ _ (some l) since => some (since + l + 1)
  | _ => none

/-- The cycles at which limits of waits on a core end; a strand that is parked, stopped or halted counts none. -/
def State.limitsOn (s : State) (c : CoreId) : List Nat :=
  ((s.strandsOn c).filter fun t => t.phase == .live && t.frame.isNone && (t.super || !(s.core c).dbg.halt)).filterMap
    fun t => t.wait.bind Wait.stopsAt

/-- Whether a limit ends in the present cycle of a core: its event comes before the clock goes on. -/
def State.limitDue (s : State) (c : CoreId) : Bool := (s.limitsOn c).any fun x => x ≤ (s.core c).cycle.toNat

/-- Whether a strand that waits for nothing may still not be ready: it has issued in the cycle before, or has not been ready since,
so that what its next instruction reads may be on its way (03 R62; log entry 2). A strand that has become ready stays so. -/
def State.mayLag (s : State) (t : Strand) : Bool := decide (s.now t.at_ ≤ t.lastIssue + 1) || decide (s.now t.at_ ≤ t.readyAt)

/-- Whether a strand is ready; `busy` are the slots of which the agenda says that they are not yet. -/
def State.isReady (s : State) (busy : List Nat) (t : Strand) : Bool :=
  s.canIssue t && decide (t.readyAt ≤ s.now t.at_) && !(busy.contains t.at_.slot && s.mayLag t)

/-- The strand that the selector of a core takes among those that are ready. -/
def State.selected (s : State) (c : CoreId) (busy : List Nat) : Option Strand :=
  if s.limitDue c then none else firstToIssue s.isUrgent ((s.strandsOn c).filter (s.isReady busy))

/-- Strands of a core that are not ready for `n` cycles more: that is when their ready time comes. -/
def State.lagBy (s : State) (c : CoreId) (which : Strand → Bool) (n : Nat) : State :=
  s.mapStrands fun t =>
    if coreOf t.at_ == c && s.canIssue t && s.mayLag t && which t then { t with readyAt := max t.readyAt (s.now t.at_ + n) } else t

/-- The slots that the agenda names are not ready in this cycle. -/
def State.holdBack (s : State) (c : CoreId) (busy : List Nat) : State :=
  if busy.isEmpty then s else s.lagBy c (fun t => busy.contains t.at_.slot) 1

/-! ## Register banks (01 R23, R24) -/

/-- The banks an instruction waits for: only the guard's when a scalar guard is false (03 R59). -/
def banksNeeded (i : Instr) (t : Strand) : List Nat :=
  let g := (guardOf i).reg / 2
  if !elementGuarded i && !t.guardBit (guardOf i) 0 then [g]
  else uniq ((allRefs i t).flatMap Ref.banks)

/-- Whether a bank keeps an instruction from issuing. -/
def Bank.asleep (b : Bank) : Bool :=
  match b.state with
  | .retention | .waking _ => true
  | _ => false

/-- The first attempt on a bank in retention starts its wake-up. -/
def Bank.startWake (b : Bank) (now : Nat) : Bank :=
  match b.state with
  | .retention => { b with state := .waking now }
  | _ => b

/-- Changes the named banks of a core. -/
def Core.mapBanks (c : Core) (l : List Nat) (f : Bank → Bank) : Core :=
  { c with banks := Vector.ofFn fun i => let b := c.banks[i]; if l.contains i.val then f b else b }

/-- Whether some named bank is asleep. -/
def Core.anyAsleep (c : Core) (l : List Nat) : Bool :=
  l.any fun i => match c.banks[i]? with | some b => b.asleep | none => false

/-! ## Fetch (14 R256, R258; 03 R54) -/

/-- The strand executing in a Plate Store entry keeps it in use. -/
def State.plateInUse (s : State) (die : Nat) (e : PlateEntry) : Bool :=
  s.strands.any fun t => t.at_.die == die && t.world == e.world && t.phase != .stopped &&
    t.pc.toNat / 4096 * 4096 == e.vbase &&
    (match s.stage? t.inst with | some g => g.meas == e.meas | none => false)

/-- Bytes of die code that an entry takes: the translation of its region, which the spec does not give (log entry 50). -/
def PlateEntry.bytes (e : PlateEntry) : Nat := Config.dieCodeBytes e.meas e.vbase

/-- Whether an entry fits beside others: 4,096 entries and 8 MiB of die code. An empty store takes any region. -/
def plateFits (e : PlateEntry) : List PlateEntry → Bool
  | [] => true
  | l => l.length < 4096 && (l.map PlateEntry.bytes).foldl (· + ·) e.bytes ≤ 2 ^ 23

/-- Makes room for an entry: the least recent entry that is not in use goes, until it fits. `fuel` bounds the entries. -/
def plateRoom (inUse : PlateEntry → Bool) (e : PlateEntry) : Nat → List PlateEntry → Option (List PlateEntry)
  | 0, l => if plateFits e l then some l else none
  | fuel + 1, l =>
    if plateFits e l then some l
    else
      match l.reverse.find? fun x => !inUse x with
      | none => none
      | some old => plateRoom inUse e fuel (l.filter fun x => x != old)

/-- Takes the entry of a region, most recent first. -/
def State.plateTake (s : State) (die : Nat) (e : PlateEntry) : Option State :=
  let d := s.die die
  if d.plate.contains e then some (s.putDie { d with plate := e :: d.plate.filter fun x => x != e })
  else (plateRoom (s.plateInUse die) e d.plate.length d.plate).map fun l => s.putDie { d with plate := e :: l }

/-- Reads the word at the PC of a strand through the fetch checks of R92: PAGE, PERM without X, POISON. -/
def fetchBytes (s : State) (t : Strand) : State × Except Trap Nat :=
  let pc := t.pc.toNat
  if 2 ^ 56 ≤ pc then (s, .error ⟨causeBounds, pc, 0⟩)
  else
    match translate s (coreOf t.at_) t.world pc with
    | (s1, .fault l r) => (s1, .error ⟨causePage, pc, walkWord l r .fetch⟩)
    | (s1, .leaf e _) =>
      let pa := e.pa + pc % e.size
      if !pteX e.pte || pteWorld e.pte != t.world then (s1, .error ⟨causePerm, pc, walkWord e.level false .fetch⟩)
      else if s1.poison.contains (pa / 64) then (s1, .error ⟨causePoison, pc, 0⟩)
      else (s1, .ok (s1.physNat pa 8))

/-- The fetch of the next virtual instruction. A stage strand finds no word outside its code (03 R54; 04 R85), and its
region takes a Plate Store entry (14 R256, R258); the runtime strand runs no module. -/
def fetchWord (s : State) (t : Strand) : State × Except Trap Nat :=
  if t.super then fetchBytes s t
  else
    match s.stage? t.inst with
    | none => (s, .error ⟨causeIllegalOp, 0, 0⟩)
    | some g =>
      let pc := t.pc.toNat
      if pc < g.entry || g.entry + g.codeSize < pc + 8 then (s, .error ⟨causeIllegalOp, 0, 0⟩)
      else
        match fetchBytes s t with
        | (s1, .error x) => (s1, .error x)
        | (s1, .ok w) =>
          match s1.plateTake t.at_.die ⟨g.meas, t.world, pc / 4096 * 4096, .a⟩ with
          | none => (s1, .error ⟨causeTranslate, 0, 1⟩)
          | some s2 => (s2, .ok w)

/-- What stands at the PC of a strand. -/
inductive Fetched
  | instr (i : Instr) | illegalEnc | fault (x : Trap)
  deriving DecidableEq, Repr

/-- Fetches and decodes: an undefined opcode or the all-zero word is ILLEGAL_OP (03 R60). -/
def fetchDecode (s : State) (t : Strand) : State × Fetched :=
  match fetchWord s t with
  | (s1, .error x) => (s1, .fault x)
  | (s1, .ok w) =>
    match decode w with
    | .instr i => (s1, .instr i)
    | .illegalEnc => (s1, .illegalEnc)
    | .illegalOp => (s1, .fault ⟨causeIllegalOp, 0, 0⟩)

/-- Whether the issue of a strand uses up the STEP of its core: it is the strand that STEP names (17 R324). -/
def Debug.stepsFor (d : Debug) (t : Strand) : Bool := d.stepping && d.stepslot == t.at_.slot && !t.super

/-- The fetch of a strand faults, which uses up a STEP as an issue does. -/
def State.stopStepping (s : State) (t : Strand) : State :=
  let core := s.core (coreOf t.at_)
  if core.dbg.stepsFor t then s.putCore { core with dbg := { core.dbg with stepping := false } } else s

/-- FETCH_FAULT: parks a strand whose fetch fails; where the fetch succeeds there is nothing to do. -/
def execFetchFault (slot : SlotId) (s : State) : Out :=
  match s.strand? slot with
  | none => .next s
  | some t =>
    if s.canIssue t then
      match fetchDecode s t with
      | (s1, .fault x) => .next ((s1.stopStepping t).trap t x)
      | (_, _) => .next s
    else .next s

/-! ## One issue -/

/-- What the issue of a strand is to run. -/
inductive Issue
  /-- The next state is settled: a fetch fault, ILLEGAL_ENC of the word, or a bank that must wake first. -/
  | settled (s : State)
  /-- The instruction runs at the state `s`, in which the strand stands at the focus; `before` is the state without the marks
  of an issue. -/
  | run (i : Instr) (s before : State)

/-- Marks the issue of an instruction: the local cycle goes on, the strand and the banks it names note the cycle. -/
def State.markIssue (s : State) (t : Strand) (i : Instr) : State :=
  let core := s.core (coreOf t.at_)
  let now := core.cycle.toNat
  let core' := core.mapBanks (banksNeeded i t) fun b => { b with last := now }
  let core'' := { core' with cycle := core.cycle + 1, dbg := { core.dbg with stepping := core.dbg.stepping && !core.dbg.stepsFor t } }
  { (s.putCore core'').putStrand { t with lastIssue := now, urgent := false, stall := none } with focus := t.at_ }

/-- Why the strand in a slot has not issued its instruction, if it has not. -/
def State.stallAt (s : State) (i : SlotId) : Option Stall := (s.strand? i).bind Strand.stall

/-- An attempt that does not issue is no issue: it takes no local cycle, and the strand was not ready (16 R305). `before` is
the state before the attempt, and `o` what the attempt gave. -/
def State.orStall (before : State) (t : Strand) (o : Out) : Out :=
  match o with
  | .next s =>
    match s.stallAt t.at_ with
    | none => o
    | some x => .next (before.putStrand { t with stall := some x, readyAt := before.now t.at_ + 1, urgent := false })
  | _ => o

/-- Prepares the issue of a strand. -/
def State.prepare (s : State) (t : Strand) : Issue :=
  match fetchDecode s t with
  | (s1, .fault x) => .settled ({ s1.stopStepping t with focus := t.at_ }.trap t x)
  | (s1, .illegalEnc) => .settled ({ s1.stopStepping t with focus := t.at_ }.trap t ⟨causeIllegalEnc, 0, 0⟩)
  | (s1, .instr i) =>
    let core := s1.core (coreOf t.at_)
    let need := banksNeeded i t
    if core.anyAsleep need then
      let now := core.cycle.toNat
      .settled ((s1.putCore (core.mapBanks need fun b => b.startWake now)).putStrand { t with bankStall := true })
    else .run i (s1.markIssue t i) { s1 with focus := t.at_ }

/-- Whether a constructor is an event: it has no encoding, and no fetch gives it. -/
def isEvent (i : Instr) : Bool := (encode i).isNone

/-- How many of `n` local cycles of a core may pass without an issue: none on a die in reset, none past the end of a limited
wait, and none while a strand is ready (01 R25; 16 R305). -/
def State.cyclesRoom (s : State) (c : CoreId) (n : Nat) : Nat :=
  let now := (s.core c).cycle.toNat
  if (s.die c.die).released && !(s.strandsOn c).any fun t => s.canIssue t && !s.mayLag t then
    (s.limitsOn c).foldl (fun m x => min m (x - now)) n
  else 0

/-- A local cycle of a core in which nothing issues, or several of them. -/
def State.passCycles (s : State) (c : CoreId) (n : Nat) : State :=
  let core := s.core c
  let k := s.cyclesRoom c n
  (s.lagBy c (fun _ => true) k).putCore { core with cycle := core.cycle + BitVec.ofNat 64 k }

/-- A cached translation is dropped: the caches may lose an entry at any time (17 R317). -/
def State.dropTranslation (s : State) (c : CoreId) (va : Nat) : State :=
  let core := s.core c
  let die := s.die c.die
  let stays := fun (e : TlbEntry) => !(decide (e.va ≤ va) && decide (va < e.va + e.size))
  (s.putCore { core with tlb := core.tlb.filter stays }).putDie { die with tlb := die.tlb.filter stays }

/-! ## Placing one instruction where the next step fetches it -/

/-- Full register declarations. -/
def fullDecls : Decls := ⟨64, 32, 16, 16, 16, 16, 16, 16⟩

/-- The virtual and physical page of a placed word. -/
def placedAt : Nat := 0x10000

/-- A stage instance with one word of code at `placedAt`. -/
def placedStage : Stage where
  id := 1
  launch := 1
  world := 0
  index := 0
  graph := 0
  meas := 0
  signer := 0
  entry := placedAt
  codeSize := 8
  dataDist := 4096
  dataSize := 0
  decls := fullDecls
  nstrands := 1
  widths := []
  outs := []
  ins := []
  queue := []
  waiters := []
  config := 0
  configs := []
  nextFiring := 0
  dispatched := 0
  committed := 0
  inputClosed := false
  mode := 0
  die := 0
  cores := [⟨0, 0⟩]
  core0 := 0
  spc := 1
  pkg := 0
  remain := 0
  ran := 0
  since := 0
  spmap := []
  state := .running
  saved := none
  discardedItems := 0
  discardedBytes := 0
  mcode := none

/-- The slot of a placed strand. -/
def placedSlot : SlotId := ⟨0, 0, 0⟩

/-- A strand that starts at the placed word. -/
def placedStrand (now : Nat) : Strand :=
  Strand.start placedSlot false 1 1 0 0 (BitVec.ofNat 64 placedAt) fullDecls [] now

/-- Stores a word where the next step fetches: a world 0 strand stands in slot 0 of core 0 of die 0, its page is cached as
readable and executable, and the strands in the other slots of the core are not ready in this cycle. Log entry 2. -/
def State.placeWord (s : State) (w : Nat) : State :=
  let core := s.core ⟨0, 0⟩
  let e : TlbEntry := ⟨0, placedAt, 65536, placedAt, 1 + 2 + 8 + placedAt, 3⟩
  let core' := { core with
    tlb := e :: core.tlb
    banks := Vector.replicate 8 ⟨.powered, core.cycle.toNat⟩
    dbg := { core.dbg with halt := false } }
  let waits := fun (t : Strand) => if coreOf t.at_ == ⟨0, 0⟩ then { t with readyAt := max t.readyAt core.cycle.toNat } else t
  let s1 := (((s.mapStrands waits).putCore core').putStage placedStage).putStrand (placedStrand core.cycle.toNat)
  let s2 := { s1 with
    mem := memSetBytes s1.mem placedAt (leBytes 8 w)
    poison := s1.poison.filter fun l => l != placedAt / 64 }
  { s2 with focus := placedSlot, agenda := [.issue ⟨0, 0⟩ ((List.range 15).map (· + 1))] }

end Sys2Proof.Machine
end

