-- ==== Sys2Proof/Machine/Pod.lean ====
section
/-! DEFINITION. Space D at this device: membership and routes, flits and the streams that carry them, the messages it sends,
posted stores and pending refusals, and the checks at a target (05 R91 to R93, R96, R102, R109; 19 R333 to R338, R347 to
R350, R356 to R358, R377). What the spec leaves open of the transport stands in log entry 51. -/

namespace Sys2Proof.Machine

/-! ## Membership -/

/-- DEVICE: INPOD and the pod device id (01 R25). -/
def State.deviceWord (s : State) : Nat :=
  match s.fabric.member with
  | some d => 2 ^ 63 + d
  | none => 0

/-- This device's id; meaningful in a pod. -/
def State.deviceId (s : State) : Nat := s.fabric.member.getD 0

/-- The pod world that a local world has joined. -/
def State.podWorldOf (s : State) (world : Nat) : Option PodWorld := s.fabric.worlds.find? fun p => p.world == world

/-- The local world that has joined a pod world. -/
def State.localWorld (s : State) (podWorld : Nat) : Option PodWorld := s.fabric.worlds.find? fun p => p.num == podWorld

/-- The world whose wavelengths the streams of a pod world may take; 256 for a pod world that is not registered here. -/
def State.streamWorld (s : State) (podWorld : Nat) : Nat := ((s.localWorld podWorld).map PodWorld.world).getD 256

/-- Check 3 of R92 at the issuing device: in a pod, the world a pod world, the device valid and a member. -/
def State.podTarget (s : State) (world dev : Nat) : Option PodWorld :=
  if s.fabric.member.isNone then none
  else
    match s.podWorldOf world with
    | none => none
    | some p => if dev < 1057 && p.members.contains dev then some p else none

/-! ## Routes (19 R333, R334, R337, R352) -/

/-- PORT of a destination without a minimal route. -/
def noPort : Nat := 0x3F

/-- VIA and ALT of a route that does not exist. -/
def noDevice : Nat := 0x7FF

/-- The routing table entry of a destination. -/
def State.routeTo (s : State) (dev : Nat) : Option Route := s.fabric.routes.find? fun r => r.dst == dev

/-- The first-hop port of the minimal route; `noPort` where there is none. -/
def State.portTo (s : State) (dev : Nat) : Nat := ((s.routeTo dev).map Route.port).getD noPort

/-- Whether no wavelength of a port is UP in either direction (19 R352). -/
def Port.down (p : Port) : Bool := !p.waves.any fun w => w.state == .up

/-- Whether a first hop may be taken. -/
def State.hopOk (s : State) (port : Nat) : Bool := port != noPort && !(s.port port).down

/-- The path that new flits take: its first-hop port, and 0 for the minimal route or the alternate plus 1. It is the minimal
route, else the first alternate whose own first hop is not DOWN; with all of them DOWN, flits wait at the first hop that
exists. -/
def State.pathTo (s : State) (dev : Nat) : Option (Nat × Nat) :=
  match s.routeTo dev with
  | none => none
  | some r =>
    let ways := (r.port, 0) :: r.alts.map fun a => (s.portTo a, a + 1)
    (ways.find? fun w => s.hopOk w.1).orElse fun _ => ways.find? fun w => w.1 != noPort

/-- The first hop that new flits take. -/
def State.firstHop (s : State) (dev : Nat) : Option Nat := (s.pathTo dev).map (·.1)

/-- Whether a destination is unreachable (19 R358): found so, or without any path. -/
def State.unreachableTo (s : State) (dev : Nat) : Bool :=
  s.fabric.unreachable.contains dev || (dev != s.deviceId && (s.pathTo dev).isNone)

/-- Whether the new flits toward a destination are rerouted: its minimal route exists and they do not take it (R334, R354). -/
def State.rerouted (s : State) (dst : Nat) : Bool :=
  s.portTo dst != noPort && (s.pathTo dst).any fun x => x.2 != 0

/-- Notes the first hop of a path that a launch uses; a path that lost light or retrained, or that is another than the minimal
route, sets VOID (16 R299; 19 R354; log entry 48). -/
def State.usePath (s : State) (launch dst : Nat) : State :=
  match s.firstHop dst, s.launch? launch with
  | some p, some l =>
    let void := l.void || l.lost.contains p || s.rerouted dst
    let hops := if l.hops.contains p then l.hops else l.hops ++ [p]
    if hops == l.hops && void == l.void then s else s.putLaunch { l with hops := hops, void := void }
  | _, _ => s

/-! ## AES-256-GCM (15 R277; 19 R356; log entry 5) -/

/-- Bytes as numbers in a message. -/
def toNats (l : List Byte) : List Nat := l.map BitVec.toNat
/-- Numbers of a message as bytes. -/
def toBytes (l : List Nat) : List Byte := l.map (BitVec.ofNat 8)

/-- The bytes with the key stream added: encryption and decryption alike. -/
def gcmStream (key iv : Nat) (bs : List Byte) : List Byte :=
  (List.range bs.length).map fun i => (nth bs i 0) ^^^ Config.keystream key iv i

/-- A big-endian number of `n` bytes. -/
def beBytes (n v : Nat) : List Byte := (leBytes n v).reverse

/-! ## Flits (19 R347, R348, R356, R377) -/

/-- TYPE. -/
def flitCode : FlitType → Nat
  | .idle => 0 | .read => 1 | .write => 2 | .data => 3 | .atomic => 4 | .reply => 5 | .release => 6 | .perform => 7
  | .ack => 8 | .nack => 9 | .control => 10 | .reserved => 15

/-- The type of a TYPE field. -/
def flitTypeOf : Nat → FlitType
  | 0 => .idle | 1 => .read | 2 => .write | 3 => .data | 4 => .atomic | 5 => .reply | 6 => .release | 7 => .perform
  | 8 => .ack | 9 => .nack | 10 => .control | _ => .reserved

/-- The header word. -/
def flitHeader (f : Flit) : Nat :=
  flitCode f.type * 2 ^ 60 + f.dst % 2 ^ 11 * 2 ^ 49 + f.src % 2 ^ 11 * 2 ^ 38 + f.stream % 2 ^ 12 * 2 ^ 26 + f.seq % 2 ^ 24 * 4 +
    boolNat f.last * 2 + boolNat f.phase

/-- The flit of a header word and a payload. -/
def flitOf (h : Nat) (payload : List Nat) : Flit :=
  ⟨flitTypeOf (field h 60 4), field h 49 11, field h 38 11, field h 26 12, field h 2 24, bitAt h 1, bitAt h 0, payload⟩

/-- Numbers padded with zeros to a length. -/
def padTo (n : Nat) (l : List Nat) : List Nat := (l ++ List.replicate n 0).take n

/-- The bytes of a number, lowest first, as they stand in a payload. -/
def natBytes (n v : Nat) : List Nat := toNats (leBytes n v)

/-- The number of `n` payload bytes from position `i`. -/
def payloadNat (l : List Nat) (i n : Nat) : Nat := leValue (toBytes ((l.drop i).take n))

/-- The 80 bytes of a flit: the header in clear, the payload encrypted, and the first 8 bytes of the tag. -/
def flitBytes (key iv : Nat) (f : Flit) : List Nat :=
  let head := leBytes 8 (flitHeader f)
  let ct := gcmStream key iv (toBytes f.payload)
  toNats (head ++ ct ++ (beBytes 16 (Config.packageTag key iv head ct)).take 8)

/-- The payload of a flit whose CHECK holds. -/
def openFlit (key iv : Nat) (bytes : List Nat) : Option (List Nat) :=
  let head := toBytes (bytes.take 8)
  let ct := toBytes ((bytes.drop 8).take 64)
  if toBytes (bytes.drop 72) == (beBytes 16 (Config.packageTag key iv head ct)).take 8 then some (toNats (gcmStream key iv ct))
  else none

/-- The TYPE of an access's descriptor. -/
def kindFlitType : RemoteKind → FlitType
  | .read | .probe => .read
  | .write | .held | .mcast _ | .part _ => .write
  | .atomic _ | .cas => .atomic
  | .release _ => .release
  | .perform | .discard => .perform

/-- OPX of an access: AOP, CAS and HELD as R348 has them; the other bits are the model's (log entry 51). -/
def kindOpx : RemoteKind → Nat
  | .atomic op => op.code
  | .cas => 8
  | .held | .probe | .discard => 1
  | .mcast _ => 2
  | .part _ => 4
  | .read | .write | .release _ | .perform => 0

/-- SZ of an access: its size, for ATOMIC and RELEASE. -/
def accessSz (r : RemoteAccess) : Nat :=
  match r.kind with
  | .atomic _ | .cas | .release _ => Nat.log2 r.len
  | _ => 0

/-- COUNT of an access: the counted stores of a RELEASE; for an MCAST its group, and for a member's part its issuer. -/
def accessCount (r : RemoteAccess) : Nat :=
  match r.kind with
  | .release c => c
  | .mcast g => g
  | .part _ => r.src
  | _ => 0

/-- The device from which an access travels: the root for a member's part of an MCAST, else its issuer. -/
def senderOf (r : RemoteAccess) : Nat :=
  match r.kind with
  | .part root => root
  | _ => r.src

/-- Data that stands in the descriptor or the reply itself. -/
def inlineData (data : List Nat) : List Nat := if data.length ≤ 32 then padTo 32 data else List.replicate 32 0

/-- The payload of a descriptor. -/
def accessPayload (r : RemoteAccess) : List Nat :=
  natBytes 8 r.va ++ natBytes 4 r.len ++ [kindOpx r.kind, accessSz r] ++ natBytes 2 (accessCount r) ++ natBytes 8 r.reqid ++
    inlineData r.data ++ List.replicate 8 0

/-- The payload of a REPLY. -/
def RemoteReply.payload (r : RemoteReply) : List Nat :=
  natBytes 8 r.reqid ++ [r.status % 256, 0, 0, 0] ++ natBytes 4 r.data.length ++ inlineData r.data ++ List.replicate 16 0

/-- A flit before it has a stream number, a SEQ and a key phase. -/
def bareFlit (type : FlitType) (src dst : Nat) (last : Bool) (payload : List Nat) : Flit := ⟨type, dst, src, 0, 0, last, false, payload⟩

/-- The DATA flits behind a descriptor or a reply: the last is zero-padded and marked LAST. -/
def dataFlits (src dst : Nat) (data : List Nat) : List Flit :=
  if data.length ≤ 32 then []
  else
    let n := (data.length + 63) / 64
    (List.range n).map fun i => bareFlit .data src dst (i + 1 == n) (padTo 64 (data.drop (64 * i)))

/-- The flits of an access. -/
def accessFlits (r : RemoteAccess) : List Flit :=
  bareFlit (kindFlitType r.kind) (senderOf r) r.dst (decide (r.data.length ≤ 32)) (accessPayload r) :: dataFlits (senderOf r) r.dst r.data

/-- The flits of a reply. -/
def RemoteReply.flits (r : RemoteReply) : List Flit :=
  bareFlit .reply r.src r.dst (decide (r.data.length ≤ 32)) r.payload :: dataFlits r.src r.dst r.data

/-- The data of a message: inline, or the bytes of its DATA flits. -/
def messageData (len : Nat) (inline_ : List Nat) (rest : List Flit) : List Nat :=
  if rest.isEmpty then inline_.take len else (rest.flatMap Flit.payload).take len

/-- AOP of R103. -/
def atomOf (n : Nat) : AtomOp := ((([.swap, .add, .and, .or, .smin, .smax, .umin, .umax] : List AtomOp)[n]?).getD .swap)

/-- The access kind of a descriptor, by TYPE, OPX and COUNT. -/
def kindOf (f : Flit) (opx count : Nat) : RemoteKind :=
  match f.type with
  | .read => if bitAt opx 0 then .probe else .read
  | .write => if bitAt opx 0 then .held else if bitAt opx 1 then .mcast count else if bitAt opx 2 then .part f.src else .write
  | .atomic => if bitAt opx 3 then .cas else .atomic (atomOf (opx % 8))
  | .release => .release count
  | _ => if bitAt opx 0 then .discard else .perform

/-- Bytes of data that an access carries. -/
def kindCarries (k : RemoteKind) (len : Nat) : Nat :=
  match k with
  | .read | .probe | .perform | .discard => 0
  | .cas => 2 * len
  | _ => len

/-- The access of a descriptor and its DATA flits. -/
def accessOf (podWorld : Nat) (f : Flit) (rest : List Flit) : RemoteAccess :=
  let p := f.payload
  let len := payloadNat p 8 4
  let count := payloadNat p 14 2
  let k := kindOf f (nth p 12 0) count
  ⟨(match k with | .part _ => count | _ => f.src), f.dst, podWorld, k, payloadNat p 0 8, len, payloadNat p 16 8,
    messageData (kindCarries k len) ((p.drop 24).take 32) rest⟩

/-- The reply of a REPLY flit and its DATA flits. -/
def replyOf (f : Flit) (rest : List Flit) : RemoteReply :=
  let p := f.payload
  ⟨f.src, f.dst, payloadNat p 0 8, nth p 8 0, messageData (payloadNat p 12 4) ((p.drop 16).take 32) rest⟩

/-! ## Links and their keys (19 R356, R357) -/

/-- One direction of a link at reset. -/
def LinkState.reset (d : LinkDir) : LinkState := ⟨d, false, 0, 0, 0, false, none, false, none, [], [], [], false, []⟩

/-- One direction of a port's link. -/
def Port.link (p : Port) (d : LinkDir) : LinkState := (p.links.find? fun l => l.dir == d).getD (LinkState.reset d)

/-- Stores one direction of a port's link. -/
def Port.putLink (p : Port) (l : LinkState) : Port := { p with links := upsert LinkState.dir l p.links }

/-- INVOC at the warning, at the data stop, and where nothing at all is sent. -/
def linkWarnAt : Nat := 2 ^ 32 - 2 ^ 20
def linkStopAt : Nat := 2 ^ 32 - 2 ^ 16
def invocEnd : Nat := 2 ^ 32

/-- Whether a direction is STOPPED: it has reached its limit with no pending key. -/
def LinkState.isStopped (l : LinkState) : Bool := l.stopped || (decide (linkStopAt ≤ l.invoc) && l.pending.isNone)

/-- The IV: F, a zero byte, the wavelength, and a 48-bit count. The first flit under a key uses count 0: the count of flits
sent before it (DEDUCED, log entry 51). -/
def LinkState.iv (l : LinkState) (w n : Nat) : Nat := l.fixed * 2 ^ 64 + w * 2 ^ 48 + n

/-- Counts one invocation on a wavelength of a direction. -/
def LinkState.count (l : LinkState) (w : Nat) : LinkState :=
  { l with invoc := l.invoc + 1, counts := assocSet l.counts w (assocD l.counts w 0 + 1) }

/-- Counts one more of a wavelength. -/
def countOne (l : List (Nat × Nat)) (w : Nat) : List (Nat × Nat) := assocSet l w (assocD l w 0 + 1)

/-- The sender switches to its pending key: PHASE toggles, the counts start again, and a STOPPED direction resumes. -/
def LinkState.switch (l : LinkState) : LinkState :=
  match l.pending with
  | none => l
  | some k =>
    { l with key := k, pending := none, phase := !l.phase, warned := false, stopped := false, invoc := 0, counts := [] }

/-- One flit leaves on a wavelength, under the key that is in force at this flit boundary. -/
def Port.transmit (p : Port) (w : Nat) (f : Flit) : Port :=
  let l := (p.link .tx).switch
  let bytes := flitBytes l.key (l.iv w (assocD l.counts w 0)) { f with phase := l.phase }
  ({ p with line := p.line ++ [(w, bytes)] } : Port).putLink (l.count w)

/-- The port of the first hop toward a destination, when it has stopped sending data. -/
def State.stoppedHop (s : State) (dev : Nat) : Option Nat :=
  (s.firstHop dev).filter fun p => ((s.port p).link .tx).isStopped

/-! ## Wavelengths of a stream (19 R337, R338) -/

/-- The base wavelengths of a slot. -/
def baseWaves (slot : Nat) : List Nat := [slot, 64 + (slot + 32) % 64]

/-- Whether a transmit wavelength of a port is UP. -/
def Port.txUp (p : Port) (w : Nat) : Bool := p.waves.any fun x => x.w == w && x.dir == .tx && x.state == .up

/-- The number of destinations whose minimal route leaves through a port. -/
def State.slotsOn (s : State) (port : Nat) : Nat := (s.fabric.routes.filter fun r => r.port == port).length

/-- The pool of a port. -/
def State.pool (s : State) (port : Nat) : List Nat :=
  let base := (List.range (s.slotsOn port)).flatMap baseWaves
  (List.range 128).filter fun w => !base.contains w

/-- The record that holds or borrows a wavelength. -/
def Port.holderOf (p : Port) (w : Nat) : Option Lease := p.leases.find? fun l => l.waves.contains w || l.loans.any fun x => x.2 == w

/-- The wavelengths on which a world's stream toward a destination may send now, in ascending order: its base wavelengths on
its own port, what its world leases, and what is UP and unleased in the pool. -/
def State.wavesFor (s : State) (port world dev : Nat) : List Nat :=
  let p := s.port port
  let base := match s.routeTo dev with | some r => if r.port == port then baseWaves r.slot else [] | none => []
  (List.range 128).filter fun w => p.txUp w &&
    (base.contains w || ((s.pool port).contains w && (p.holderOf w).all fun l => l.world == world && l.dst == dev))

/-! ## Streams (19 R349, R350) -/

/-- The name of a stream: its path (0 minimal, else the alternate plus 1), pod world, source and destination. -/
def streamName (path podWorld src dst : Nat) : Nat := path * 2 ^ 38 + podWorld * 2 ^ 22 + src * 2 ^ 11 + dst

/-- The traffic of a stream whatever its path: SEQ values go on along another path. -/
def flowOf (name : Nat) : Nat := name % 2 ^ 38

def nameDst (name : Nat) : Nat := name % 2 ^ 11
def nameSrc (name : Nat) : Nat := name / 2 ^ 11 % 2 ^ 11
def nameWorld (name : Nat) : Nat := name / 2 ^ 22 % 2 ^ 16
def namePath (name : Nat) : Nat := name / 2 ^ 38

/-- The same traffic along another path. -/
def onPath (path name : Nat) : Nat := path * 2 ^ 38 + flowOf name

/-- SEQ values are compared modulo 2^24. -/
def wrap24 (n : Nat) : Nat := n % 2 ^ 24

/-- Streams that a direction numbers, flits of a retry buffer, and unacknowledged flits of one stream. -/
def streamLimit : Nat := 4096
def retryLimit : Nat := 4096

/-- The number of a stream on a port: the one it has, a new one, or that of a stream with nothing unacknowledged. -/
def Port.streamNo (p : Port) (name : Nat) : Option Nat :=
  match p.streams.findIdx? (· == name) with
  | some n => some n
  | none =>
    if p.streams.length < streamLimit then some p.streams.length
    else p.streams.findIdx? fun x => !p.retry.any fun f => f.name == x

/-- Gives a stream its number. -/
def Port.numbered (p : Port) (n name : Nat) : Port :=
  { p with streams := if n < p.streams.length then p.streams.set n name else p.streams ++ [name] }

/-- How long a flit stays unacknowledged before it is replayed. -/
def replayAfter : Nat := 2 ^ 16

/-- Whether a flit is to go again: it was NACKed or lost, or it has stayed unacknowledged too long (19 R350). -/
def State.replayDue (s : State) (f : SentFlit) : Bool := f.replay || decide (replayAfter ≤ s.pkgCycle - f.sentAt)

/-- Whether a flit of a stream is to be replayed: replays go ahead of new flits. -/
def State.replaying (s : State) (p : Port) (name : Nat) : Bool := p.retry.any fun f => f.name == name && s.replayDue f

/-- What the sending of a backlog has reached: the port, the last SEQ of each flow, and what still waits. -/
structure Sending where
  port : Port
  seqs : List (Nat × Nat)
  left : List OutFlit
  deriving DecidableEq, Repr

/-- The stream number and the wavelengths for a flit that may leave now: the direction sends, for a CONTROL flit also while it is
STOPPED, the retry buffer has room, nothing of its stream waits before it, and it has a wavelength. -/
def State.wayOut (s : State) (x : Sending) (f : OutFlit) : Option (Nat × List Nat) :=
  let l := x.port.link .tx
  let waves := s.wavesFor x.port.port f.world (nameDst f.name)
  if l.up && (!l.isStopped || f.flit.type == .control) && l.invoc < invocEnd && x.port.retry.length < retryLimit &&
      !s.replaying x.port f.name &&
      !(x.left.any fun g => g.name == f.name) && !waves.isEmpty then
    (x.port.streamNo f.name).map fun n => (n, waves)
  else none

/-- Sends one waiting flit, or leaves it waiting. A flit without a SEQ takes the next one of its flow; it stays in the retry
buffer until it is acknowledged. -/
def State.trySend (s : State) (x : Sending) (f : OutFlit) : Sending :=
  match s.wayOut x f with
  | none => { x with left := x.left ++ [f] }
  | some (n, waves) =>
    let seq := f.seq.getD (wrap24 (assocD x.seqs (flowOf f.name) 0 + 1))
    let w := nth waves (seq % waves.length) 0
    let flit := { f.flit with stream := n, seq := seq }
    let p := x.port.numbered n f.name
    { port := ({ p with retry := p.retry ++ [⟨f.name, seq, w, false, s.pkgCycle, f.world, f.tag, flit⟩] } : Port).transmit w flit
      seqs := if f.seq.isNone then assocSet x.seqs (flowOf f.name) seq else x.seqs
      left := x.left }

/-- Sends what a port can send of its backlog, in order. -/
def State.drainPort (s : State) (n : Nat) : State :=
  let p := s.port n
  let x := p.backlog.foldl s.trySend ⟨p, s.fabric.seqs, []⟩
  let s1 := s.putPort { x.port with backlog := x.left }
  { s1 with fabric := { s1.fabric with seqs := x.seqs } }

/-- A flit joins the backlog of a port. -/
def State.addBacklog (s : State) (port : Nat) (f : OutFlit) : State :=
  let p := s.port port
  s.putPort { p with backlog := p.backlog ++ [f] }

/-- VOID for the launches of a stream's world that use a path through a port (16 R299; 19 R354). -/
def State.voidStream (s : State) (port name : Nat) : State :=
  let world := s.streamWorld (nameWorld name)
  { s with launches := s.launches.map (fun (l : Launch) => { l with void := l.void || (l.world == world && l.hops.contains port) }) }

/-- A flit of a DOWN port goes to the path that new flits take. -/
def State.moveFlit (s : State) (f : OutFlit) : State :=
  match s.pathTo (nameDst f.name) with
  | none => s
  | some (port, path) => s.addBacklog port { f with name := onPath path f.name }

/-- Flits of a DOWN port follow the new ones of their streams to another path: first the unacknowledged ones, with their SEQ
values and in ascending order, then those that have not been sent (19 R334, R350). -/
def State.movePort (s : State) (n : Nat) : State :=
  let p := s.port n
  let goes := fun (name : Nat) => p.down && (s.pathTo (nameDst name)).any fun x => x.1 != n
  let moved := (p.retry.filter fun f => goes f.name).map (fun f => (⟨f.name, some f.seq, f.world, f.tag, f.flit⟩ : OutFlit)) ++
    p.backlog.filter fun f => goes f.name
  let s1 := s.putPort { p with retry := p.retry.filter fun f => !goes f.name, backlog := p.backlog.filter fun f => !goes f.name }
  moved.foldl (fun s f => (s.voidStream n f.name).moveFlit f) s1

/-- Every port moves and sends what it can, after wavelengths have changed. -/
def State.flow (s : State) : State :=
  let ports := s.fabric.ports.map Port.port
  ports.foldl State.drainPort (ports.foldl State.movePort s)

/-! ## Messages -/

/-- The tag of a message among those of every device. -/
def globalTag (src tag : Nat) : Nat := src * 2 ^ 64 + tag

/-- Puts flits on their way along the path of their destination. -/
def State.sendFlits (s : State) (podWorld src dst tag : Nat) (l : List Flit) : State :=
  match s.pathTo dst with
  | none => s
  | some (port, path) =>
    let name := streamName path podWorld src dst
    (l.foldl (fun s f => s.addBacklog port ⟨name, none, s.streamWorld podWorld, tag, f⟩) s).drainPort port

/-- The key of counted stores: the strand and the stream that a tag names. -/
def storeKey (reqid : Nat) : Nat := reqid / 2 ^ 32

/-- The strand that a tag names. -/
def tagStrand (reqid : Nat) : Nat := reqid / 2 ^ 34

/-- Counted stores of a key that the target has performed and no release has counted yet, by their tags. -/
def State.storesDone (s : State) (src podWorld key : Nat) : List Nat :=
  ((s.fabric.counts.find? fun c => c.src == src && c.podWorld == podWorld && c.key == key).map CountedStores.done).getD []

/-- Sets the counted stores of a key. -/
def State.setDone (s : State) (src podWorld key : Nat) (l : List Nat) : State :=
  { s with fabric := { s.fabric with counts := upsert (fun c => (c.src, c.podWorld, c.key)) ⟨src, podWorld, key, l⟩ s.fabric.counts } }

/-- Accesses of one strand in one stream. -/
def sameKey (a b : RemoteAccess) : Bool :=
  a.src == b.src && a.podWorld == b.podWorld && storeKey a.reqid == storeKey b.reqid

/-- Whether a kind is a store that a release may count (05 R102). -/
def kindCounted : RemoteKind → Bool
  | .write | .part _ => true
  | _ => false

/-- The tags of the counted stores of a RELEASE's stream that were issued before it and wait here. -/
def State.storesWaiting (s : State) (r : RemoteAccess) : List Nat :=
  (s.fabric.inbox.filter fun a => sameKey a r && kindCounted a.kind && a.reqid < r.reqid).map RemoteAccess.reqid

/-- How many of the stores that a RELEASE with COUNT `c` counts are not performed yet, given the tags of those that are and of
those that wait here. Tags rise in the order of issue, so the last `c` of them are counted: stores from before a restart of
the count come lower (05 R102). -/
def releaseLeft (c : Nat) (done waiting : List Nat) : Nat :=
  c - (((sortBy id (done ++ waiting)).reverse.take c).filter fun n => done.contains n).length

/-- Whether a copy has not completed: it stands in a queue, or a checkpoint keeps it. -/
def State.copyOpen (s : State) (num : Nat) : Bool :=
  s.cores.any (fun c => c.copies.any fun o => o.num == num) ||
    s.stages.any fun g => g.saved.any fun v => v.cores.any fun c => c.copies.any fun o => o.num == num

/-- The reply tag of the READ of a copy for the bytes of its walk from `at_` on: bit 63 tells it from the tags of strands
(DESIGN CHOICE, log entry 51). -/
def copyTag (num at_ : Nat) : Nat := 2 ^ 63 + num % 2 ^ 31 * 2 ^ 32 + at_

/-- Whether a reply still has someone to come to: a strand, or an open copy. -/
def State.replyWanted (s : State) (reqid : Nat) : Bool :=
  let of := fun (o : CopyOp) => o.asks.any fun a => copyTag o.num a.1 == reqid
  reqid < 2 ^ 63 || s.cores.any (fun c => c.copies.any of) ||
    s.stages.any fun g => g.saved.any fun v => v.cores.any fun c => c.copies.any of

/-- Delivers an access to this device. A RELEASE waits for the counted stores that are not performed yet: its count becomes
their number. -/
def State.deliverAccess (s : State) (r : RemoteAccess) : State :=
  match r.kind with
  | .release c =>
    let key := storeKey r.reqid
    let done := s.storesDone r.src r.podWorld key
    let s1 := if done.isEmpty then s else s.setDone r.src r.podWorld key (done.filter fun n => r.reqid < n)
    let left := releaseLeft c (done.filter fun n => n < r.reqid) (s.storesWaiting r)
    { s1 with fabric := { s1.fabric with inbox := s1.fabric.inbox ++ [{ r with kind := .release left }] } }
  | _ => { s with fabric := { s.fabric with inbox := s.fabric.inbox ++ [r] } }

/-- Puts an access on its way to another pod member; one to the own device is delivered here (05 R91). -/
def State.send (s : State) (r : RemoteAccess) : State :=
  if s.fabric.member == some r.dst then s.deliverAccess r
  else
    let s1 := { s with fabric := { s.fabric with outbox := s.fabric.outbox ++ [r] } }
    s1.sendFlits r.podWorld (senderOf r) r.dst (globalTag r.src r.reqid) (accessFlits r)

/-- A notice that a posted store is over reaches a strand. One that was not performed because its member cannot be reached is
a refusal with cause 0 (19 R358). -/
def Strand.hearNotice (t : Strand) (tag dev : Nat) (lost : Bool) : Strand :=
  let mine := fun (x : PostedStore) => x.tag == tag && x.dev == dev
  { t with
    unacked := t.unacked.filter fun x => !mine x
    refusals := if lost then t.refusals ++ (t.unacked.filter mine).map fun x => (x.va, 0) else t.refusals }

/-- A notice reaches the strand whose tag it names, on a core or saved. -/
def State.hearNotice (s : State) (tag dev : Nat) (lost : Bool) : State :=
  let f := fun (t : Strand) => t.hearNotice tag dev lost
  { s with
    strands := s.strands.map f
    stages := s.stages.map fun (g : Stage) => { g with saved := g.saved.map fun v => { v with strands := v.strands.map f } } }

/-- The payload of a notice: the tag, the member and whether the store was lost (DESIGN CHOICE, log entry 51). -/
def noticePayload (tag dev : Nat) (lost : Bool) : List Nat := padTo 64 (natBytes 8 tag ++ natBytes 2 dev ++ [boolNat lost])

/-- Tells the issuer of a posted store that it is over at a member: by a CONTROL flit, where the issuer is another device
(DESIGN CHOICE, log entry 51). -/
def State.sendNotice (s : State) (podWorld src tag dev : Nat) (lost : Bool) : State :=
  if s.fabric.member == some src then s.hearNotice tag dev lost
  else
    s.sendFlits podWorld s.deviceId src (globalTag s.deviceId 0)
      [bareFlit .control s.deviceId src true (noticePayload tag dev lost)]

/-- Puts a reply on its way; one to the own device is delivered here. -/
def State.sendReply (s : State) (podWorld : Nat) (r : RemoteReply) : State :=
  if s.fabric.member == some r.dst then { s with fabric := { s.fabric with repliesIn := s.fabric.repliesIn ++ [r] } }
  else
    let s1 := { s with fabric := { s.fabric with replies := s.fabric.replies ++ [r] } }
    s1.sendFlits podWorld r.src r.dst (globalTag r.src 0) r.flits

/-! ## Checks at the issuer (05 R92, R93) -/

/-- KEY_EXHAUSTED for a link: TINFO bit 16 and the port (17 R309). -/
def linkExhausted (port : Nat) : Trap := ⟨causeKeyExhausted, 0, 2 ^ 16 + port⟩

/-- REMOTE with LOCAL set: check 3 failed here (05 R93). -/
def remoteLocal (va : Nat) : Trap := ⟨causeRemote, va, 0x114⟩

/-- REMOTE with the target's cause, or 0 for an unreachable destination. -/
def remoteTrap (va cause : Nat) : Trap := ⟨causeRemote, va, cause % 256⟩

/-- Checks 2 and 3 of a space-D access at address `ea`, over `n` bytes. -/
def checkMember (s : State) (t : Strand) (dev ea n : Nat) : Except Trap PodWorld :=
  match outside56 ea n with
  | some a => .error ⟨causeBounds, a, 0⟩
  | none =>
    match s.podTarget t.world dev with
    | none => .error (remoteLocal ea)
    | some p => .ok p

/-- Checks 2 and 3, and after them the first hop must not be STOPPED (19 R357). -/
def checkPod (s : State) (t : Strand) (dev ea n : Nat) : Except Trap PodWorld :=
  match checkMember s t dev ea n with
  | .error x => .error x
  | .ok p =>
    match s.stoppedHop dev with
    | some port => .error (linkExhausted port)
    | none => .ok p

/-! ## Tags, posted stores and refusals (05 R93, R102, R106) -/

/-- The last reply tag that a strand has given out, as a tag of stream `m`: tags of different strands differ. -/
def Strand.tagIn (t : Strand) (m : Nat) : Nat := (t.serial * 4 + m) * 2 ^ 32 + t.nextReq

/-- The last reply tag, for what belongs to no stream. -/
def Strand.lastTag (t : Strand) : Nat := t.tagIn 0

/-- Moves on to the next tag. -/
def Strand.nextTag (t : Strand) : Strand := { t with nextReq := t.nextReq + 1 }

/-- The oldest pending refusal of a strand as a trap, and the strand without it (05 R93). -/
def Strand.takeRefusal (t : Strand) : Option (Trap × Strand) :=
  match t.refusals with
  | [] => none
  | (va, cause) :: r => some (remoteTrap va cause, { t with refusals := r })

/-- The space-D stores that a strand has counted in a stream toward a device (05 R102). -/
def Strand.countOf (t : Strand) (m dev : Nat) : Nat :=
  ((t.counted.find? fun c => c.1 == m && c.2.1 == dev).map fun c => c.2.2).getD 0

/-- Counts a space-D store. -/
def Strand.countStore (t : Strand) (m dev : Nat) : Strand :=
  { t with counted := upsert (fun c => (c.1, c.2.1)) (m, dev, t.countOf m dev + 1) t.counted }

/-- The count restarts. -/
def Strand.clearCount (t : Strand) (m dev : Nat) : Strand :=
  { t with counted := t.counted.filter fun c => !(c.1 == m && c.2.1 == dev) }

/-- The most stores that a count holds. -/
def countLimit : Nat := 65535

/-- Whether counted stores of a stream toward a device are open. -/
def Strand.countOpen (t : Strand) (m dev : Nat) : Bool := t.unacked.any fun x => x.stream == m && x.dev == dev

/-- Whether `n` more stores may issue: the count has room, or the target has acknowledged every counted store by a notice (05
R102; log entry 33). -/
def Strand.countRoom (t : Strand) (m dev n : Nat) : Bool := t.countOf m dev + n ≤ countLimit || !t.countOpen m dev

/-- The count as `n` more stores find it: it restarts where they would exceed the limit. -/
def Strand.roomFor (t : Strand) (m dev n : Nat) : Strand := if t.countOf m dev + n ≤ countLimit then t else t.clearCount m dev

/-- Whether posted estimator operations of a strand have not arrived: a release at package scope waits for them (12
R239). -/
def State.postedBy (s : State) (t : Strand) : Bool := s.posted.any fun p => p.owner == t.at_

/-- Every stream. -/
def allStreams : Nat := 15

/-- Space-D stores of a strand in the streams of a mask that are not performed yet. -/
def Strand.owesStores (t : Strand) (mask : Nat) : Bool := t.unacked.any fun x => bitAt mask x.stream

/-- Those of them that go to this device itself. -/
def State.owesOwn (s : State) (t : Strand) (mask : Nat) : Bool :=
  t.unacked.any fun x => bitAt mask x.stream && x.dev == s.deviceId

/-- An instruction that is a release toward an operation of an engine, of the session engine or of an estimator: the space-D
stores to this device come first (07 R147; 09 R178; 12 R239; 15 R284). -/
def released (i : Instr) (s : State) (body : State → Strand → State) : Out :=
  gated i s fun s t => if s.owesOwn t allStreams then s.stall t .other else body s t

/-- Whether posted stores of a strand to a device are open. -/
def Strand.owesTo (t : Strand) (dev : Nat) : Bool := t.unacked.any fun x => x.dev == dev

/-- Parts of MCASTs toward a device that are not performed yet: they go by way of the root of their group. -/
def Strand.owesParts (t : Strand) (dev : Nat) : Bool := t.unacked.any fun x => x.dev == dev && x.root.isSome

/-- What a release waits for at a scope, in the streams of a mask: space-D stores to this device from core scope on, posted
estimator operations at package scope, and the space-D stores to every device at pod scope (05 R101, R106; 12 R239). -/
def State.owesAt (s : State) (t : Strand) (sc : Scope) (mask : Nat) : Bool :=
  match sc with
  | .strand => false
  | .core | .quad | .die => s.owesOwn t mask
  | .pkg => s.postedBy t || s.owesOwn t mask
  | .pod => s.postedBy t || t.owesStores mask

/-- What a release at package scope waits for. -/
def State.owesPkg (s : State) (t : Strand) : Bool := s.owesAt t .pkg allStreams

/-- The scope that a space implies (05 R99). -/
def spaceScope : Space → Scope
  | .g => .pkg
  | .l => .core
  | .q => .quad
  | .d => .pod

/-- Whether an ordering code has to wait: a release for what its scope covers, and a `.sc` access for every open space-D store,
so that `.sc` accesses of a strand are performed in program order (05 R99; 11 R220). -/
def State.owesRelease (s : State) (t : Strand) (o : Order) (sp : Space) : Bool :=
  ((o == .rel || o == .sc) && s.owesAt t (spaceScope sp) allStreams) || (o == .sc && t.owesStores allStreams)

/-- Whether an access in a space has to wait for open space-D stores that may touch the same sector (05 R95; 11 R213): one in G
for those to this device, and one in D for parts of MCASTs toward its device, which other stores and loads do not follow. Both
wait for more than the rule orders (log entry 4). -/
def State.owesSector (s : State) (t : Strand) (sp : Space) (dev : Nat) : Bool :=
  (sp == .g && s.owesOwn t allStreams) || (sp == .d && t.owesParts dev)

/-- Whether an access with an ordering code has to wait. -/
def State.owesAccess (s : State) (t : Strand) (x : MemForm) (o : Order) : Bool :=
  s.owesRelease t o x.sp || s.owesSector t x.sp (devOf x t)

/-- A posted store that has left: it is open until its notice or its refusal. -/
def Strand.posting (t : Strand) (m dev va : Nat) (root : Option Nat) : Strand :=
  { t with unacked := t.unacked ++ [⟨dev, m, va, t.tagIn m, root⟩] }

/-- Posts a space-D store: it leaves at once, or its refusal is pending when the destination is unreachable (19 R358). -/
def State.postStore (s : State) (t : Strand) (p : PodWorld) (m dev ea : Nat) (data : List Byte) : State × Strand :=
  if s.unreachableTo dev then (s, { t with refusals := t.refusals ++ [(ea, 0)] })
  else
    let t1 := t.nextTag
    ((s.usePath t.launch dev).send ⟨s.deviceId, dev, p.num, .write, ea, data.length, t1.tagIn m, toNats data⟩,
      (t1.posting m dev ea none).countStore m dev)

/-! ## Checks at the target (05 R93; 15 R273; 17 R316; 19 R335) -/

/-- Walks every page of `n` bytes of a world at the target, which holds no translations for space D, and sets ACCESSED in each
leaf. `fuel` bounds the pages. -/
def targetSegments (world : Nat) (k : Access) : Nat → State → Nat → Nat → State × Except Trap (List Segment)
  | 0, s, _, _ => (s, .ok [])
  | fuel + 1, s, va, n =>
    if n == 0 then (s, .ok [])
    else
      match walkFrom s world va 4 0 (s.root world) with
      | .fault l r => (s, .error ⟨causePage, va, walkWord l r k⟩)
      | .leaf e a =>
        let s1 := s.setPhysNat a 8 (if bitAt e.pte 10 then e.pte else e.pte + 1024)
        let here := min n (65536 - va % 65536)
        match targetSegments world k fuel s1 (va + here) (n - here) with
        | (s2, .error t) => (s2, .error t)
        | (s2, .ok l) => (s2, .ok (⟨va, here, e⟩ :: l))

/-- The party of an access of another device: no core of this one, no stage. -/
def targetParty (world : Nat) : Party := ⟨⟨0, 0⟩, world, 0⟩

/-- Checks 4 to 8 at the target, with the refusal of grotto pages before check 5: the places of the bytes, or the trap that
they would raise here. -/
def State.targetCheck (s : State) (world : Nat) (k : CheckKind) (va n : Nat) : State × Except Trap (List Loc) :=
  let acc : Access := if k.wr then .write else .read
  match outside56 va n with
  | some a => (s, .error ⟨causeBounds, a, 0⟩)
  | none =>
    match targetSegments world acc (n / 65536 + 2) s va n with
    | (s1, .error x) => (s1, .error x)
    | (s1, .ok segs) =>
      match firstByte (fun g _ => pteG g.leaf.pte) segs with
      | some (_, a) => (s1, .error ⟨causeGrottoRead, a, 0⟩)
      | none =>
        match checkSegments s1 (targetParty world) k acc segs with
        | some x => (s1, .error x)
        | none => (s1, .ok (segs.flatMap fun g => (List.range g.len).map fun i => .phys (g.phys (g.va + i))))

end Sys2Proof.Machine
end

