-- ==== Sys2Proof/Machine/Items.lean ====
section
/-! DEFINITION. Work items and channels: holding, requeueing and dropping an item, readiness of firings, switch tokens, the
room that a COMMIT needs and `publish` (10 R191 to R204; 12 R240; 15 R285). -/

namespace Sys2Proof.Machine

/-! ## Holding an item -/

/-- Work queue capacity (10 R195). -/
def queueCapacity : Nat := 4096

/-- An item back at the head of its queue, with REPLAY raised. A queue that is full takes it too and stands above its capacity
until items leave it, since a requeued item is never lost (DESIGN CHOICE, log entry 53). -/
def Stage.requeue (g : Stage) (i : Item) : Stage := { g with queue := { i with replay := min 65535 (i.replay + 1) } :: g.queue }

/-- The strand without its item: WORKID 0, its packets and the log gone. Matrix operations issued under the item lose their
log. -/
def Strand.dropItem (t : Strand) : Strand :=
  { t with
    held := none
    workid := 0
    consumed := []
    regs := { t.regs with q := Vector.replicate 16 [] }
    ops := t.ops.map fun o => if o.underItem then { o with lost := true } else o }

/-- Copies of a strand that were issued under its item lose their log. -/
def State.loseCopies (s : State) (i : SlotId) : State :=
  let core := s.core (coreOf i)
  if core.copies.isEmpty then s
  else s.putCore { core with copies := core.copies.map fun o => if o.owner == i && o.underItem then { o with lost := true } else o }

/-- ABORT's effect (10 R201): the log is discarded and the item requeued or retired. -/
def State.abortItem (s : State) (t : Strand) (drop : Bool) : State × Strand :=
  match t.held with
  | none => (s, t)
  | some h =>
    let s1 := s.loseCopies t.at_
    let s2 := match s1.stage? t.inst with
      | some g => if drop then s1 else s1.putStage (g.requeue h.item)
      | none => s1
    (s2, t.dropItem)

/-! ## Channels -/

/-- Bytes that a channel has been given in a row. -/
def Chan.total (c : Chan) : Nat := c.base + c.buf.length

/-- Takes the bytes of firings that committed ahead, as far as they now stand in a row; `fuel` bounds them. -/
def Chan.absorb : Nat → Chan → Chan
  | 0, c => c
  | fuel + 1, c =>
    match c.ahead.find? fun a => a.1 * c.bytes == c.total with
    | none => c
    | some a => Chan.absorb fuel { c with buf := c.buf ++ a.2, ahead := c.ahead.filter fun x => x.1 != a.1 }

/-- Appends the bytes of producer firing `g` at their place in the stream (10 R192). -/
def Chan.append (c : Chan) (g : Nat) (bs : List Byte) : Chan :=
  if g * c.bytes == c.total then ({ c with buf := c.buf ++ bs }).absorb c.ahead.length
  else { c with ahead := c.ahead ++ [(g, bs)] }

/-- Whether `n` bytes of firing `g` fit: the stream up to their end is within the capacity above the oldest unfreed byte. -/
def Chan.fits (c : Chan) (g n : Nat) : Bool := n == 0 || g * c.bytes + n ≤ c.base + c.cap

/-- Counts firings committed in a row from those committed ahead; `fuel` bounds them. -/
def Consumer.absorb : Nat → Consumer → Consumer
  | 0, k => k
  | fuel + 1, k =>
    if k.ahead.contains k.freed then Consumer.absorb fuel { k with freed := k.freed + 1, ahead := k.ahead.filter (· != k.freed) }
    else k

/-- A consumer commits firing `g` at a cycle of the buffer's core. -/
def Consumer.commit (k : Consumer) (g now : Nat) : Consumer :=
  let k' := { k with last := now }
  if k.freed == g then ({ k' with freed := g + 1 }).absorb k.ahead.length else { k' with ahead := k.ahead ++ [g] }

/-- The first byte a consumer still needs; a detached one needs none. -/
def Consumer.needs (k : Consumer) : Option Nat := if k.detached then none else some (k.freed * k.bytes)

/-- The oldest byte that some attached consumer needs; every byte is free when none is attached. -/
def Chan.oldest (c : Chan) : Nat := (c.consumers.filterMap Consumer.needs).foldl min c.total

/-- Frees the bytes that no attached consumer needs (10 R193). -/
def Chan.free (c : Chan) : Chan := { c with buf := c.buf.drop (c.oldest - c.base), base := max c.base c.oldest }

/-- The clock of a channel: the local cycle of the core that holds its buffer (10 R203). -/
def State.chanNow (s : State) (c : Chan) : Nat := (((s.core c.home).cycle.toNat : Int) + c.skew).toNat

/-- The channel of an input. -/
def State.inChan (s : State) (g : Stage) (input : Nat) : Option Chan :=
  (g.ins.find? fun p => p.1 == input).bind fun p => s.chan? p.2

/-- The consumer record of an input. -/
def Chan.consumerOf (c : Chan) (inst input : Nat) : Option Consumer := c.consumers.find? fun k => k.inst == inst && k.input == input

/-- Changes the consumer record of an input. -/
def Chan.mapConsumer (c : Chan) (inst input : Nat) (f : Consumer → Consumer) : Chan :=
  { c with consumers := c.consumers.map fun k => if k.inst == inst && k.input == input then f k else k }

/-- A stage is channel-fed when it declares an input (10 R191). -/
def Stage.channelFed (g : Stage) : Bool := g.decls.nin != 0

/-- The consumer records of a stage, with their channels. -/
def State.inputs (s : State) (g : Stage) : List (Chan × Consumer) :=
  g.ins.filterMap fun p => (s.chan? p.2).bind fun c => (c.consumerOf g.id p.1).map fun k => (c, k)

/-- Firings of a channel-fed stage whose bytes have all been committed on every input (10 R193). No firing is created after
a detachment (R203). -/
def State.readyFirings (s : State) (g : Stage) : Nat :=
  let ins := s.inputs g
  if ins.any fun x => x.2.detached then g.nextFiring
  else
    match ins.map fun x => if x.2.bytes == 0 then 0 else x.1.total / x.2.bytes with
    | [] => 0
    | n :: r => r.foldl min n

/-- Whether every input of a channel-fed stage has no producer left. -/
def State.producersDone (s : State) (g : Stage) : Bool :=
  (s.inputs g).all fun x => match s.stage? x.1.producer with | some p => p.state == .done | none => true

/-- Whether the input of a stage is closed (10 R196); a channel-fed input stays closed. -/
def State.inputClosedNow (s : State) (g : Stage) : Bool :=
  if g.channelFed then g.inputClosed || (s.producersDone g && s.readyFirings g ≤ g.dispatched)
  else g.queue.isEmpty && (s.strandsOf g.id).all fun t => t.held.isNone

/-! ## Switch tokens (10 R204) -/

/-- The firing that a token at a byte position marks. -/
def tokenFiring (pos bytes : Nat) : Nat := if bytes == 0 then 0 else (pos + bytes - 1) / bytes

/-- Whether a pending switch keeps a firing from being dispatched: the first token of an input, arrived or still behind its
bytes, marks it or a lower one. -/
def State.switchHolds (s : State) (g : Stage) (firing : Nat) : Bool :=
  (s.inputs g).any fun x => match x.2.arrived ++ x.2.tokens with
    | (pos, _) :: _ => tokenFiring pos x.2.bytes ≤ firing
    | [] => false

/-- CONFIG for a firing: the latest switch at or below it. -/
def Stage.configFor (g : Stage) (firing : Nat) : Word :=
  (g.configs.foldl (fun (best : Option (Nat × Word)) c =>
    if firing < c.1 then best else match best with
      | some b => if b.1 ≤ c.1 then some c else best
      | none => some c) none).map (·.2) |>.getD g.config

/-- The CONFIG that the next item dequeued sees. -/
def Stage.currentConfig (g : Stage) : Word := if g.channelFed then g.configFor g.dispatched else g.config

/-- Puts a token on a channel for each of its consumers. -/
def Chan.putToken (c : Chan) (pos : Nat) (v : Word) : Chan :=
  { c with consumers := c.consumers.map fun k => { k with tokens := k.tokens ++ [(pos, v)] } }

/-- The bytes that a firing of a stage gives an output. -/
def Stage.outBytes (g : Stage) (o : Nat) : Nat := (nth g.outs o (none, 0)).2

/-- Changes every output channel of a stage. -/
def State.mapOuts (s : State) (g : Stage) (f : Nat → Chan → Chan) : State :=
  (List.range g.outs.length).foldl (fun s o =>
    match (nth g.outs o (none, 0)).1.bind s.chan? with
    | some c => s.putChan (f o c)
    | none => s) s

/-! ## COMMIT (10 R200) -/

/-- The producer firing number of the item a strand holds: its own for a channel-fed stage, else the next in commit
order. -/
def Stage.firingOf (g : Stage) (h : Held) : Nat := h.item.firing.getD g.committed

/-- The logged bytes of an output. -/
def WriteLog.chanBytes (l : WriteLog) (o : Nat) : List Byte := assocD l.chan o []

/-- The items whose COMMIT has sent its space-D writes and has not published: their room is kept for them (10 R200). -/
def State.committing (s : State) (g : Stage) : List Held :=
  (s.strandsOf g.id).filterMap fun t => match t.wait with | some (.commit _ _ 1 _ _) => t.held | _ => none

/-- The firing number that a COMMIT which begins now will have: behind those that are committing. -/
def State.firingNext (s : State) (g : Stage) (h : Held) : Nat := h.item.firing.getD (g.committed + (s.committing g).length)

/-- Whether every output buffer has room for the logged bytes. -/
def State.outsFit (s : State) (g : Stage) (h : Held) : Bool :=
  (List.range g.outs.length).all fun o =>
    match (nth g.outs o (none, 0)).1.bind s.chan? with
    | some c => c.fits (s.firingNext g h) (h.log.chanBytes o).length
    | none => true

/-- Whether a strand waits in a COMMIT whose bytes still do not fit in a channel. -/
def State.waitsForRoom (s : State) (c : Chan) (slot : SlotId) : Bool :=
  match s.strand? slot with
  | none => false
  | some t =>
    match t.wait, t.held, s.stage? t.inst with
    | some (.commit _ _ 0 _ _), some h, some g => !c.fits (s.firingNext g h) (h.log.chanBytes c.out).length
    | _, _, _ => false

/-- Frees what no attached consumer of a channel needs; a COMMIT whose bytes fit now has not waited without interruption (10
R203). -/
def State.freeChan (s : State) (c : Chan) : State :=
  let c' := c.free
  s.putChan { c' with stall := c'.stall.filter fun x => s.waitsForRoom c' x.1 }

/-- Whether every output holds exactly its bytes of a firing. -/
def Stage.countsOk (g : Stage) (l : WriteLog) : Bool :=
  (List.range g.outs.length).all fun o => (l.chanBytes o).length == g.outBytes o

/-- Performs the logged writes to G: the bytes, their poison, and what a write to code does (14 R260). -/
def State.performLog (s : State) (l : WriteLog) : State :=
  let ls := l.mem.map fun b => Loc.phys b.1
  let s1 := (s.setBytesAt (ls.zip (l.mem.map (·.2)))).clearPoison ls
  let s2 := { s1 with poison := uniq (s1.poison ++ l.bad) }
  s2.placesWritten ls

/-- Appends the channel bytes of a firing; with no consumer attached they are free at once (10 R193, R203). -/
def State.publishChannels (s : State) (g : Stage) (h : Held) : State :=
  s.mapOuts g fun o c => (c.append (g.firingOf h) (h.log.chanBytes o)).free

/-- Frees the input bytes of a committed firing, on every input. -/
def State.freeInputs (s : State) (g : Stage) (firing : Nat) : State :=
  g.ins.foldl (fun s p =>
    match s.chan? p.2 with
    | none => s
    | some c => s.freeChan (c.mapConsumer g.id p.1 fun k => k.commit firing (s.chanNow c))) s

/-- Places a logged SWITCH: the stage's CONFIG for items dequeued later, and a token behind the bytes of the firing. -/
def State.publishSwitch (s : State) (g : Stage) (h : Held) : State :=
  match h.log.switch with
  | none => s
  | some v =>
    let s1 := s.putStage { g with config := v }
    s1.mapOuts g fun _ c => c.putToken ((g.firingOf h + 1) * c.bytes) v

/-- Applies a logged RXHI update or USAGE add, or discards it when its slot no longer serves the world (15 R285). -/
def State.applySess (s : State) : SessLog → State
  | .rxhi slot world ctr =>
    let x := s.session slot
    if (x.state == .opened || x.state == .stopped) && x.world == world then s.putSession { x with rxhi := max x.rxhi ctr } else s
  | .usage slot world n =>
    let x := s.session slot
    if (x.state == .opened || x.state == .stopped) && x.world == world then
      s.putSession { x with usage := min (x.usage + n) (2 ^ 64 - 1) }
    else s

/-- `publish`: the G writes, the channel bytes, the ENQs and the switch token at one instant; then the logged session
updates, and the SPACCs leave for their homes (10 R200; 12 R240; 15 R285). The strand no longer holds the item. -/
def State.publish (s : State) (t : Strand) (h : Held) : State × Strand :=
  let s1 := s.performLog h.log
  let s2 := match s1.stage? t.inst with
    | none => s1
    | some g =>
      let sa := s1.publishChannels g h
      let sb := if g.channelFed then sa.freeInputs g (g.firingOf h) else sa
      let sc := sb.publishSwitch g h
      match sc.stage? t.inst with
      | none => sc
      | some g' => sc.putStage { g' with
          queue := g'.queue ++ h.log.enqs.map (fun id => ⟨id, none, 0⟩)
          committed := g'.committed + 1 }
  let s3 := h.log.sess.foldl State.applySess s2
  let s4 := { s3 with posted := s3.posted ++ h.log.spaccs.map (fun p => ⟨t.at_, t.launch, p.1, .acc p.2⟩) }
  (s4, t.dropItem)

/-- Whether the copies and MACCSTs that a strand issued under its item have logged their writes. -/
def State.loggedAll (s : State) (t : Strand) : Bool :=
  t.ops.all (fun o => !(o.underItem && !o.lost) || (match o.kind with | .maccst _ _ => false | _ => true)) &&
    (s.core (coreOf t.at_)).copies.all fun o => !(o.owner == t.at_ && o.underItem && !o.lost)

/-- Items in the work queue of a stage, and those that committing items will add. -/
def State.queueUsed (s : State) (g : Stage) : Nat :=
  (s.committing g).foldl (fun n h => n + h.log.enqs.length) g.queue.length

/-- Whether the work queue has room for every logged ENQ. -/
def State.enqsFit (s : State) (g : Stage) (l : WriteLog) : Bool := s.queueUsed g + l.enqs.length ≤ queueCapacity

/-- Starts the stall count of a COMMIT on each full output channel (10 R203). -/
def State.markStalls (s : State) (g : Stage) (h : Held) (slot : SlotId) : State :=
  s.mapOuts g fun o c =>
    if c.fits (s.firingNext g h) (h.log.chanBytes o).length then { c with stall := c.stall.filter fun x => x.1 != slot }
    else if c.stall.any fun x => x.1 == slot then c
    else { c with stall := c.stall ++ [(slot, s.chanNow c)] }

/-- A COMMIT that issues or goes on has no stall count of an earlier wait. -/
def State.clearStalls (s : State) (g : Stage) (slot : SlotId) : State :=
  s.mapOuts g fun _ c => { c with stall := c.stall.filter fun x => x.1 != slot }

/-- Sends the space-D writes of a log HELD under one COMMIT identifier (10 R200; 19 R348). -/
def State.sendHeld (s : State) (t : Strand) (req : Nat) (l : WriteLog) : State :=
  match s.podWorldOf t.world with
  | none => s
  | some p => l.pod.foldl (fun s w => (s.usePath t.launch w.dev).send ⟨s.deviceId, w.dev, p.num, .held, w.va, w.data.length, req, toNats w.data⟩) s

/-- The targets of a log's space-D writes, each once. -/
def WriteLog.targets (l : WriteLog) : List Nat := uniq (l.pod.map PodWrite.dev)

/-- Sends PERFORM, or the end of the held parts, to every target of a log. -/
def State.sendTargets (s : State) (t : Strand) (kind : RemoteKind) (l : WriteLog) : State :=
  match s.podWorldOf t.world with
  | none => s
  | some p => l.targets.foldl (fun s d => s.send ⟨s.deviceId, d, p.num, kind, 0, 0, t.lastTag, []⟩) s

/-- What a COMMIT waits for as a release: at pod scope when its log holds space-D writes (10 R200). -/
def State.commitOwes (s : State) (t : Strand) (l : WriteLog) : Bool :=
  if l.pod.isEmpty then s.owesPkg t else s.owesAt t .pod allStreams

/-- One attempt of a COMMIT to go on, at issue and whenever COMMIT_PUBLISH examines it: `sent` and `refused` are what it has
sent and heard, `since` the cycle it issued. The phases are: 0 nothing sent; 1 HELD writes sent, replies due; 2 published and
PERFORM sent; 3 killed after HELD. A refusal by a target raises REMOTE with the address of the first write to that target as TADDR (DESIGN CHOICE,
log entry 52). -/
def State.commitStep (s : State) (t : Strand) (sent : List Nat) (refused : Option (Nat × Nat)) (phase since : Nat) : State :=
  let wait := fun (s : State) (t : Strand) sent refused phase pub =>
    s.putStrand { t with wait := some (.commit sent refused phase pub since) }
  if phase == 3 then s
  else if phase == 2 then
    if sent.isEmpty && !s.postedBy t then s.finishWait t else wait s t sent none 2 true
  else
    match t.held with
    | none => s.trap { t with wait := none } (bounds 13)
    | some h =>
      let finishPublish := fun (s : State) (t : Strand) =>
        let (s1, t1) := s.publish t h
        if h.log.targets.isEmpty && !s1.postedBy t1 then s1.finishWait t1
        else wait s1 t1 h.log.targets none 2 true
      if phase == 1 then
        if !sent.isEmpty then wait s t sent refused 1 false
        else
          match refused with
          | some (va, cause) => (s.sendTargets t .discard h.log).trap { t with wait := none } (remoteTrap va cause)
          | none => finishPublish (s.sendTargets t .perform h.log) t
      else
        match s.stage? t.inst with
        | none => s.trap { t with wait := none } (bounds 13)
        | some g =>
          if !s.loggedAll t then wait s t [] none 0 false
          else if !s.enqsFit g h.log || !s.outsFit g h then wait (s.markStalls g h t.at_) t [] none 0 false
          else if s.commitOwes t h.log then wait s t [] none 0 false
          else
            match t.takeRefusal with
            | some (x, t') => s.trap { t' with wait := none } x
            | none =>
              if !g.countsOk h.log then s.trap { t with wait := none } (bounds 15)
              else if h.log.pod.isEmpty then finishPublish s t
              else
                match h.log.pod.find? fun w => s.unreachableTo w.dev with
                | some w => s.trap { t with wait := none } (remoteTrap w.va 0)
                | none =>
                  let t1 := t.nextTag
                  wait (s.sendHeld t1 t1.lastTag h.log) t1 (h.log.pod.map PodWrite.dev) none 1 false

end Sys2Proof.Machine
end

