-- ==== Sys2Proof/Machine/Stops.lean ====
section
/-! DEFINITION. Stopping a strand or a stage: what a checkpoint, a kill, a drain and a debugger halt do to its waits, and the
invalidation of translations (04 R86; 05 R110; 10 R210; 17 R317 to R323). -/

namespace Sys2Proof.Machine

/-- Takes a strand out of the waiters of its stage. -/
def State.dropWaiter (s : State) (t : Strand) : State :=
  match s.stage? t.inst with
  | some g => if g.waiters.contains t.at_ then s.putStage { g with waiters := g.waiters.filter (· != t.at_) } else s
  | none => s

/-- How a wait ends at a checkpoint or a debugger halt (17 R320 step 1): unissued, but WAITP completes, EXIT goes on, an
operation sent to a home is performed once and its reply awaited (12 R240; 15 R285), and so is a COMMIT that has begun to
send or publish (10 R200). A space-D access is abandoned; an ATOM or CAS issues again under its tag (05 R110). -/
def Strand.endWait (t : Strand) : Strand :=
  match t.wait with
  | some (.waitp _) => { t with wait := none, pc := t.pc + 8 }
  | some (.deq ..) | some (.barw ..) | some (.sigwait ..) | some (.mwait ..) | some (.cmapwt ..) | some (.cdrain ..)
  | some (.spwait ..) | some (.chkpt _) => { t with wait := none }
  | some (.commit _ _ phase _ _) => if phase == 0 then { t with wait := none } else t
  | some (.remote req ..) => { t with wait := none, again := some req }
  | some (.spnext ..) | some (.spacc ..) | some (.spstat ..) | some (.cdec ..) | some (.cenc ..) | some (.usage ..)
  | some (.sessinfo ..) | some .exit | none => t

/-- Waits that a suspension lets complete first: the operation is on its way, or the item is being published. -/
def Wait.mustFinish : Wait → Bool
  | .commit _ _ phase _ _ => phase == 1 || phase == 2
  | .remote .. | .spnext .. | .spacc .. | .spstat .. | .cdec .. | .cenc .. | .usage .. | .sessinfo .. | .chkpt _ => true
  | _ => false

/-- AN ASYNCHRONOUS SUSPENSION of a matrix operation or a copy (07 R160; 09 R181; 17 R313): it parks its strand, or is held
while the strand is parked or its wait must finish. In a confidential world any suspension kills the launch (17 R309). -/
def State.suspend (s : State) (t : Strand) (x : Susp) : State :=
  if t.super then
    let d := s.die t.at_.die
    (s.putStrand { t with phase := .stopped, wait := none }).putDie { d with runtimeFault := true }
  else if t.world != 0 then (s.putStrand t).killLaunch t.launch
  else if t.frame.isSome || t.wait.any Wait.mustFinish then s.putStrand { t with pending := t.pending ++ [x] }
  else (s.dropWaiter t).suspendStrand t x

/-- Removes a strand from the park list and from the debugger's pending breakpoints. -/
def State.unpark (s : State) (i : SlotId) : State :=
  let core := s.core (coreOf i)
  let d := s.die i.die
  (s.putCore { core with dbg := { core.dbg with brkpend := core.dbg.brkpend.filter (· != i) } }).putDie
    { d with park := d.park.filter (· != i) }

/-- The slots of a team (07 R156). -/
def teamSlots (i : SlotId) (qm : Nat) : List SlotId :=
  ((List.range 4).filter (bitAt qm)).map fun c => ⟨i.die, i.core / 4 * 4 + c, i.slot⟩

/-- Whether the time of a team stands still: a member's core is halted, or the strand is being stopped (16 R308). -/
def State.teamHeld (s : State) (t : Strand) (qm : Nat) : Bool :=
  t.phase != .live || (teamSlots t.at_ qm).any fun i => (s.core (coreOf i)).dbg.halt

/-- Stops or restarts the time of an MMAQ that has not begun. -/
def MatOp.settleTime (o : MatOp) (now : Nat) (held : Bool) : MatOp :=
  match held, o.left with
  | true, none => { o with left := some (o.due - now) }
  | false, some n => { o with left := none, due := now + n }
  | _, _ => o

/-- Brings the times of all teams in line with what is halted, stopping or saved. -/
def State.settleTeams (s : State) : State :=
  s.mapStrands fun t => { t with ops := t.ops.map fun o => match o.kind with
    | .mmaq qm _ => o.settleTime (s.now t.at_) (s.teamHeld t qm)
    | _ => o }

/-- A checkpoint of a stage instance begins (17 R320 step 1), for a launch that needs its cores or at CHKPT's request. -/
def State.startCheckpoint (s : State) (g : Stage) (for_ : Option Nat) : State :=
  let s1 := s.putStage { g with state := .stoppingSave for_, waiters := [] }
  (s1.mapStrands fun t =>
    if t.inst == g.id && !t.super then { t.endWait with phase := .stopped, stall := none } else t).settleTeams

/-- A session operation on its way, of which the engine performs one that was sent (15 R285). -/
def Wait.isSession : Wait → Bool
  | .usage .. | .cdec .. | .cenc .. => true
  | _ => false

/-- A COMMIT that was killed after its writes had gone HELD. -/
def Wait.heldAtKill : Wait → Bool
  | .commit _ _ phase _ _ => phase == 3
  | _ => false

/-- An operation that a waiting strand has sent to an estimator is performed though its strand is killed (12 R240). -/
def Strand.sentOps (t : Strand) : List Posted :=
  match t.wait with
  | some (.spnext est _ _) => [⟨t.at_, t.launch, est, .next⟩]
  | some (.spacc est _ v) => [⟨t.at_, t.launch, est, .acc v⟩]
  | _ => []

/-- A kill of a stage instance begins (10 R210; 17 R312). -/
def State.startKill (s : State) (g : Stage) : State :=
  let s0 := s.putStage { g with state := .stoppingKill, waiters := [] }
  let s1 := { s0 with posted := s0.posted ++ (s.strandsOf g.id).flatMap Strand.sentOps }
  let s2 := (s.strandsOf g.id).foldl (fun s t => s.unpark t.at_) s1
  s2.mapStrands fun t => if t.inst == g.id && !t.super then s.killStrand t else t

/-- A drain of a stage instance begins: no new item is granted, waiting DEQs return and WAITP pauses end (10 R210; 04
R86). -/
def State.startDrain (s : State) (g : Stage) : State :=
  (s.putStage { g with state := .stoppingDrain }).mapStrands fun t =>
    match t.wait with
    | some (.waitp _) => if t.inst == g.id && !t.super then { t.endWait with readyAt := s.now t.at_ } else t
    | _ => t

/-- A stage that is running and not yet STOPPING. -/
def Stage.isRunning (g : Stage) : Bool := g.state == .running

/-- Whether an invalidation covers a cached translation (17 R318): SEL 0 by page, 1 by world, 2 every entry. -/
def tlbHit (sel world va : Nat) (e : TlbEntry) : Bool := sel == 2 || (e.world == world && (sel == 1 || e.covers world va))

/-- Whether an invalidation covers a Plate Store entry: its page, its world or every entry; `dropped` are the entries that
went. -/
def plateHit (sel world va : Nat) (dropped : List TlbEntry) (p : PlateEntry) : Bool :=
  sel == 2 || (p.world == world && (sel == 1 || p.vbase / 65536 == va / 65536 || dropped.any fun e => e.covers world p.vbase))

/-- TLBINV and TLBCMD: every matching entry of every TLB goes, and the Plate Store entries of the pages (17 R318). -/
def State.tlbInvalidate (s : State) (sel world va : Nat) : State :=
  let hit := tlbHit sel world va
  let dropped := (s.cores.flatMap fun c => c.tlb.filter hit) ++ (s.dies.flatMap fun d => d.tlb.filter hit)
  { s with
    cores := s.cores.map (fun c => { c with tlb := c.tlb.filter fun e => !hit e })
    dies := s.dies.map (fun d => { d with
      tlb := d.tlb.filter fun e => !hit e
      plate := d.plate.filter fun p => !plateHit sel world va dropped p }) }

/-- PLATEINV: SEL 0 the region, 1 the world, 2 every entry (17 R319). -/
def State.plateInvalidate (s : State) (sel world va : Nat) : State :=
  let hit := fun (p : PlateEntry) => sel == 2 || (p.world == world && (sel == 1 || p.vbase == va / 4096 * 4096))
  { s with dies := s.dies.map (fun d => { d with plate := d.plate.filter fun p => !hit p }) }

end Sys2Proof.Machine
end

