-- ==== Sys2Proof/Machine/Control.lean ====
section
/-! DEFINITION. Control and system instructions (04 R83 to R88; 01 R25 to R29; 16 R301; 17 R309 to R323). -/

namespace Sys2Proof.Machine

/-! ## Control transfer (04 R83, R84; 03 R54) -/

/-- A transfer to `target`; the strand `t'` carries the link or counter written. A misaligned target raises MISALIGN with
nothing written. -/
def State.jump (s : State) (t t' : Strand) (target : Nat) : State :=
  if target % 8 != 0 then s.trap t ⟨causeMisalign, target, 0⟩
  else s.putStrand { t'.finish with pc := BitVec.ofNat 64 target }

/-- The target of a Format B branch. -/
def branchTarget (t : Strand) (off : Nat) : Nat := wrap64 ((t.pc.toNat : Int) + imm32s off * 8)

/-- The link value. -/
def Strand.link (t : Strand) : Word := t.pc + 8

def execNop (g : Guard) (s : State) : Out := gated (.nop g) s fun s t => s.complete t

def execBr (g : Guard) (hint : Hint) (off : Nat) (s : State) : Out :=
  gated (.br g hint off) s fun s t => s.jump t t (branchTarget t off)

def execBrx (g : Guard) (a : Nat) (hint : Hint) (s : State) : Out :=
  gated (.brx g a hint) s fun s t => s.jump t t (t.rn a)

def execCall (g : Guard) (d : Nat) (hint : Hint) (off : Nat) (s : State) : Out :=
  gated (.call g d hint off) s fun s t => s.jump t (t.setS d t.link) (branchTarget t off)

def execCallx (g : Guard) (d a : Nat) (hint : Hint) (s : State) : Out :=
  gated (.callx g d a hint) s fun s t => s.jump t (t.setS d t.link) (t.rn a)

def execRet (g : Guard) (a : Nat) (hint : Hint) (s : State) : Out :=
  gated (.ret g a hint) s fun s t => s.jump t t (t.rn a)

def execLoop (g : Guard) (a : Nat) (hint : Hint) (off : Nat) (s : State) : Out :=
  gated (.loop g a hint off) s fun s t =>
    let n := t.rs a - 1
    let t' := t.setS a n
    if n != 0 then s.jump t t' (branchTarget t off) else s.complete t'

/-! ## Strand control (04 R86, R87) -/

/-- YIELD: the strand becomes the youngest ready strand. -/
def execYield (g : Guard) (s : State) : Out :=
  gated (.yield g) s fun s t => s.complete { t with readyAt := s.now t.at_ }

/-- The longest WAITP pause. -/
def waitpMax : Nat := 2 ^ 20

/-- WAITP: the n local cycles are those that follow the one of its issue (DEDUCED, log entry 56). -/
def execWaitp (g : Guard) (a : Nat) (s : State) : Out :=
  gated (.waitp g a) s fun s t =>
    let n := min (t.rn a) waitpMax
    if n == 0 then s.complete t else s.waitIn t (.waitp (s.now t.at_ + n))

/-- EXIT: a pending refusal is raised first (05 R93); a held item is given back as by ABORT; the strand then waits for its
engine work, and STRAND_END empties its slot. -/
def execExit (g : Guard) (s : State) : Out :=
  gated (.exit g) s fun s t =>
    match t.takeRefusal with
    | some (x, t') => s.trap t' x
    | none => let (s1, t1) := s.abortItem t false; s1.waitIn t1 .exit

/-! ## Deliberate traps (04 R88) -/

def execTrap (g : Guard) (imm : Nat) (s : State) : Out :=
  gated (.trap g imm) s fun s t => s.trap t ⟨causeSoft, 0, imm⟩

def execSvc (g : Guard) (imm : Nat) (s : State) : Out :=
  gated (.svc g imm) s fun s t => s.trap t ⟨causeSvc, 0, imm⟩

def execBrk (g : Guard) (imm : Nat) (s : State) : Out :=
  gated (.brk g imm) s fun s t => s.trap t ⟨causeBrk, 0, imm⟩

/-! ## System registers (01 R25 to R29; 17 R311) -/

/-- The frame that FSEL selects, with its strand. -/
def State.selectedFrame (s : State) (die : Nat) : Option (Strand × Frame) :=
  let f := (s.die die).fsel.toNat
  (s.strand? ⟨die, field f 8 5, field f 0 4⟩).bind fun t => t.frame.map fun x => (t, x)

/-- The index of a strand's stage in its launch record. -/
def State.stageIndex (s : State) (t : Strand) : Nat := ((s.stage? t.inst).map Stage.index).getD 0

/-- MPROG and CPROG: VALID, the owner at its place and the unit. -/
def progWord (p : Option Prog) (at_ : Nat) : Nat :=
  match p with
  | some x => 2 ^ 63 + x.owner * 2 ^ at_ + x.unit
  | none => 0

/-- VPROG of a strand. -/
def vprogWord (t : Strand) : Nat :=
  match t.vprog with
  | some v => 2 ^ 63 + boolNat v.loaded * 2 ^ 16 + v.elem
  | none => 0

/-- The user-range registers (01 R25). -/
def readUserSr (s : State) (t : Strand) (n : Nat) : Option Nat :=
  match n with
  | 0x000 => some t.vl
  | 0x001 => some t.regs.vtype.toNat
  | 0x002 => some t.vlmax
  | 0x010 => some t.at_.slot
  | 0x011 => some t.at_.core
  | 0x012 => some (t.at_.core / 4)
  | 0x013 => some t.at_.die
  | 0x014 => some s.deviceWord
  | 0x015 => some t.world
  | 0x018 => some t.workid.toNat
  | 0x020 => some (s.core (coreOf t.at_)).cycle.toNat
  | 0x040 => some t.regs.fpctl.toNat
  | 0x041 => some t.regs.fpflags.toNat
  | _ => none

/-- A frame register of the selected strand; all of them read 0 when it is not parked. -/
def readFrameSr (s : State) (u : Strand) (f : Frame) (n : Nat) : Nat :=
  match n with
  | 0x101 => f.cause
  | 0x102 => f.vpc.toNat
  | 0x103 => f.addr.toNat
  | 0x104 => f.info.toNat
  | 0x105 => u.world * 2 ^ 56 + s.stageIndex u * 2 ^ 16 + f.resume
  | 0x108 => ((f.mprog.map Prog.vpc).getD 0).toNat
  | 0x109 => progWord f.mprog 16
  | 0x10A => ((f.cprog.map Prog.vpc).getD 0).toNat
  | 0x10B => progWord f.cprog 24
  | 0x10C => vprogWord u
  | _ => if 0x140 ≤ n && n < 0x180 then u.rn (n - 0x140) else 0

/-- Whether a number is a register of the selected frame. -/
def isFrameSr (n : Nat) : Bool := (0x101 ≤ n && n ≤ 0x105) || (0x108 ≤ n && n ≤ 0x10C) || (0x140 ≤ n && n < 0x180)

/-- Whether a system register is defined (01 R25, R29). -/
def srDefined (n : Nat) : Bool :=
  n == 0 || n == 1 || n == 2 || (0x10 ≤ n && n ≤ 0x15) || n == 0x18 || n == 0x20 || n == 0x40 || n == 0x41 ||
    n == 0x100 || isFrameSr n || n == 0x110 || n == 0x120

/-- A park-list entry as TPOP returns it. -/
def tpopWord (i : SlotId) : Nat := 2 ^ 63 + i.core * 2 ^ 8 + i.slot

/-- Reads TPOP: takes the oldest entry and writes FSEL (17 R312). -/
def State.tpop (s : State) (die : Nat) : State × Nat :=
  let d := s.die die
  match d.park with
  | [] => (s, 0)
  | i :: r => (s.putDie { d with park := r, fsel := BitVec.ofNat 64 (tpopWord i % 2 ^ 63) }, tpopWord i)

/-- An access from outside a strand touches the bank of its scalar register `i`: in retention the bank starts to wake (01 R24). -/
def State.touchScalar (s : State) (u : Strand) (i : Nat) : State :=
  let c := s.core (coreOf u.at_)
  s.putCore (c.mapBanks [i / 8] fun b => b.startWake c.cycle.toNat)

/-- Reads a defined system register. -/
def readSr (s : State) (t : Strand) (n : Nat) : State × Nat :=
  match readUserSr s t n with
  | some v => (s, v)
  | none =>
    if n == 0x110 then s.tpop t.at_.die
    else if n == 0x100 then (s, (s.die t.at_.die).fsel.toNat)
    else if n == 0x120 then (s, Config.saveSize % 2 ^ 64)
    else
      match s.selectedFrame t.at_.die with
      | some (u, f) => (if 0x140 ≤ n then s.touchScalar u (n - 0x140) else s, readFrameSr s u f n)
      | none => (s, 0)

def execGetsr (g : Guard) (d srn : Nat) (s : State) : Out :=
  gated (.getsr g d srn) s fun s t =>
    if !srDefined srn then s.trap t ⟨causeIllegalReg, 0, 0⟩
    else let (s1, v) := readSr s t srn; s1.complete (t.setN d v)

/-- TPOP_READ: the runtime strand of a die stands at a GETSR of TPOP into sD and issues it. -/
def execTpopRead (die d : Nat) (s : State) : Out :=
  match s.strand? ⟨die, 0, 15⟩ with
  | none => .next s
  | some t =>
    match fetchDecode s t with
    | (s1, .instr (.getsr g d' srn)) =>
      if s.canIssue t && t.super && d' == d && srn == 0x110 then
        execGetsr g d srn (s1.markIssue t (.getsr g d srn))
      else .next s
    | _ => .next s

/-- Writes a register of the selected frame (17 R311). -/
def writeFrameSr (s : State) (u : Strand) (f : Frame) (n v : Nat) : State :=
  if n == 0x102 then (if v % 8 == 0 then s.putStrand { u with frame := some { f with vpc := BitVec.ofNat 64 v } } else s)
  else if n == 0x105 then
    let r := field v 0 2
    if r == 3 || (r == 2 && !f.waited) then s else s.putStrand { u with frame := some { f with resume := r } }
  else if 0x140 ≤ n && n < 0x180 then s.putStrand (u.setN (n - 0x140) v)
  else s

/-- Writes a defined system register for strand `t`; registers and fields that are read-only keep their values. -/
def writeSr (s : State) (t : Strand) (n v : Nat) : State :=
  if n == 0x040 then s.complete { t with regs := { t.regs with fpctl := setFpctl t.regs.fpctl v } }
  else if n == 0x041 then s.complete { t with regs := { t.regs with fpflags := BitVec.ofNat 64 (field v 0 5) } }
  else if n == 0x100 then
    let d := s.die t.at_.die
    (s.putDie { d with fsel := BitVec.ofNat 64 (field v 8 5 * 256 + field v 0 4) }).complete t
  else if isFrameSr n then
    match s.selectedFrame t.at_.die with
    | some (u, f) => (writeFrameSr s u f n v).complete t
    | none => s.complete t
  else s.complete t

def execSetsr (g : Guard) (a srn : Nat) (s : State) : Out :=
  gated (.setsr g a srn) s fun s t =>
    if !srDefined srn then s.trap t ⟨causeIllegalReg, 0, 0⟩ else writeSr s t srn (t.rn a)

/-! ## System instructions (16 R301; 17 R314, R318, R319, R323) -/

/-- The strand that an operand in the TPOP format names. -/
def tpopSlot (die v : Nat) : SlotId := ⟨die, field v 8 5, field v 0 4⟩

/-- TRET: the return from a trap, for the strand named. -/
def execTret (g : Guard) (a : Nat) (s : State) : Out :=
  gated (.tret g a) s fun s t =>
    match (s.strand? (tpopSlot t.at_.die (t.rn a))).bind fun u => u.frame.map fun f => (u, f) with
    | none => s.trap t (bounds 24)
    | some (u, f) => (s.complete t).releaseStrand u f

/-- TLBINV is a release at package scope: it waits for what its strand still has on its way. -/
def execTlbinv (g : Guard) (a sel : Nat) (s : State) : Out :=
  gated (.tlbinv g a sel) s fun s t =>
    if s.owesPkg t then s.stall t .other else (s.tlbInvalidate sel (field (t.rn a) 56 8) (field (t.rn a) 0 56)).complete t

def execPlateinv (g : Guard) (a sel : Nat) (s : State) : Out :=
  gated (.plateinv g a sel) s fun s t =>
    (s.plateInvalidate sel (field (t.rn a) 56 8) (field (t.rn a) 0 56)).complete t

/-- CHKPT: save and kill wait for the stage to stop, drain and abandon for nothing; a stage that is STOPPING is left alone. -/
def execChkpt (g : Guard) (a act : Nat) (s : State) : Out :=
  gated (.chkpt g a act) s fun s t =>
    match s.strand? (tpopSlot t.at_.die (t.rn a)) with
    | none => s.trap t (bounds 24)
    | some u =>
      match s.stage? u.inst with
      | none => s.trap t (bounds 24)
      | some st =>
        if u.super then s.trap t (bounds 24)
        else if !st.isRunning then s.complete t
        else if act == 3 then (s.killLaunch u.launch).complete t
        else if act == 0 then (s.startCheckpoint st none).waitIn t (.chkpt st.id)
        else if act == 1 then (s.startKill st).waitIn t (.chkpt st.id)
        else (s.startDrain st).complete t

/-- CAP: the smaller of the host's and the Hallmark's limit (20 R376). -/
def State.cap (s : State) : Nat := min s.hallmark.hostcap s.hallmark.thermcap

/-- The level in quanta, in steps of 4,096. -/
def State.levelWord (s : State) : Nat := wrap64 (s.level / (8 * 4096) * 4096)

/-- A launch's energy used so far: what was known before and a free amount more (log entry 17). -/
def State.meterUsed (s : State) (l : Launch) : State × Launch :=
  let l' := { l with used := l.used + Config.freeValue s.freeCount }
  (s.drawFree.putLaunch l', l')

def execEnergy (g : Guard) (d sel : Nat) (s : State) : Out :=
  gated (.energy g d sel) s fun s t =>
    if sel == 0 then s.complete (t.setN d s.levelWord)
    else if sel == 1 then
      match s.launch? t.launch with
      | some l => let (s1, l') := s.meterUsed l; s1.complete (t.setN d (wrap64 ((l'.energy : Int) - l'.used)))
      | none => s.drawFree.complete (t.setN d (Config.freeValue s.freeCount))
    else s.complete (t.setN d s.cap)

end Sys2Proof.Machine
end

