-- ==== Sys2Proof/Machine/Memory.lean ====
section
/-! DEFINITION. Scalar memory instructions (05_memory_access.md). Every access of a strand is performed when it issues, in
program order: one of the orders that the rules allow (log entry 4). -/

namespace Sys2Proof.Machine

/-! ## Loads and stores in G, L and Q -/

/-- The first place whose logged byte came from a poisoned source, if any (09 R176, R181; 10 R100). -/
def badLogged (t : Strand) (ls : List Loc) : Option Nat :=
  match t.held with
  | none => none
  | some h =>
    if h.log.bad.isEmpty then none
    else firstIndex ls.length fun i => match ls[i]? with
      | some (.phys pa) => h.log.bad.contains (pa / 64)
      | _ => false

/-- Reads `n` bytes for a strand: the checks of R92, then the bytes, its own logged ones among them (05 R100). -/
def State.loadBytes (s : State) (t : Strand) (k : CheckKind) (sp : Space) (ea n : Nat) : State × Except Trap (List Byte) :=
  match checkAccess s t.party k sp ea n with
  | (s1, .error x) => (s1, .error x)
  | (s1, .ok ls) =>
    match if k.poison then badLogged t ls else none with
    | some i => (s1, .error ⟨causePoison, ea + i, 0⟩)
    | none => (s1, .ok (ls.map fun l => s1.byteAt t.logMem l))

/-- Logs bytes at checked places of G, if the log has room for their sectors (10 R199). -/
def logStore (t : Strand) (h : Held) (ea : Nat) (ls : List Loc) (bs : List Byte) : Except Trap Strand :=
  let l := h.log.put ls bs
  if logCapacity < l.used then .error (bounds 14)
  else .ok { t with held := some { h with log := { l with ranges := l.ranges ++ [(ea, bs.length)] } } }

/-- Writes bytes for a strand: the checks of R92, then into the log of a held item for G, else at once (05 R100). The answer
carries the strand, whose log may have grown. -/
def State.storeBytes (s : State) (t : Strand) (sp : Space) (ea : Nat) (bs : List Byte) : State × Except Trap Strand :=
  match checkAccess s t.party checkStore sp ea bs.length with
  | (s1, .error x) => (s1, .error x)
  | (s1, .ok ls) =>
    match if sp == .g then t.held else none with
    | some h => (s1, logStore t h ea ls bs)
    | none => (s1.storeAt ls bs, .ok t)

/-- The register values of loaded bytes (05 R98). -/
def loadedRegs (bytes : List Byte) (sx : Bool) : List Nat :=
  let v := leValue bytes
  let n := bytes.length
  if n ≤ 8 then [if sx then sext (8 * n) v else v]
  else (List.range (n / 8)).map fun i => field v (64 * i) 64

/-- The bytes a store takes from registers: the low bytes, lowest from sD (05 R98). -/
def storedBytes (t : Strand) (d n : Nat) : List Byte :=
  (leBytes (max n 8) ((List.range (n / 8 + 1)).foldl (fun a i => a + t.rn (d + i) * 2 ^ (64 * i)) 0)).take n

/-! ## Space D -/

/-- `n` fresh reply tags: the first one, and the strand that has given them out. -/
def Strand.freshTags (t : Strand) (n : Nat) : Nat × Strand := (t.lastTag + 1, { t with nextReq := t.nextReq + n, again := none })

/-- The tag of a waiting access: an abandoned ATOM or CAS keeps its own (05 R110), any other access takes a new one. -/
def Strand.takeTag (t : Strand) (kind : RemoteKind) : Nat × Strand :=
  match kind, t.again with
  | .atomic _, some r | .cas, some r => (r, { t with again := none })
  | _, _ => t.freshTags 1

/-- Sends one waiting space-D access and waits for its reply (05 R93). -/
def State.sendAndWait (s : State) (t : Strand) (p : PodWorld) (dev : Nat) (kind : RemoteKind) (ea n : Nat) (data : List Byte)
    (dest : ReplyDest) : State :=
  let (tag, t1) := t.takeTag kind
  ((s.usePath t.launch dev).send ⟨s.deviceId, dev, p.num, kind, ea, n, tag, toNats data⟩).waitIn t1 (.remote tag dev [ea] dest [tag] [])

/-- A waiting space-D access whose checks here have the given outcome; the other checks take place at the target, and an
unreachable target raises REMOTE (19 R358). -/
def State.remoteIf (s : State) (t : Strand) (check : Except Trap PodWorld) (dev : Nat) (kind : RemoteKind) (ea n : Nat)
    (data : List Byte) (dest : ReplyDest) : State :=
  match check with
  | .error x => s.trap t x
  | .ok p => if s.unreachableTo dev then s.trap t (remoteTrap ea 0) else s.sendAndWait t p dev kind ea n data dest

/-- A waiting load, ATOM or CAS in space D: checks 2 and 3 here, and the first hop. -/
def State.remoteAccess (s : State) (t : Strand) (dev : Nat) (kind : RemoteKind) (ea n : Nat) (data : List Byte)
    (dest : ReplyDest) : State := s.remoteIf t (checkPod s t dev ea n) dev kind ea n data dest

/-- The log's name of a sector of another device, apart from every physical sector. -/
def podSector (dev va : Nat) : Nat := 2 ^ 64 * (dev + 1) + va / 32

/-- The sectors of a range on another device. -/
def podSectors (dev va n : Nat) : List Nat := uniq ((List.range n).map fun i => podSector dev (va + i))

/-- Logs a write to another device, if there is room. -/
def logFar (t : Strand) (h : Held) (dev ea : Nat) (bs : List Byte) : Except Trap Strand :=
  let l := { h.log with sectors := addSectors h.log.sectors (podSectors dev ea bs.length), pod := h.log.pod ++ [⟨dev, ea, bs⟩] }
  if logCapacity < l.used then .error (bounds 14) else .ok { t with held := some { h with log := l } }

/-- Logs a space-D write. One to this device that passes its checks is a write to the bytes that a G write reaches, and is logged
as such: a later load of either space reads it, and the last write of a byte stands (11 R213; log entry 52). -/
def State.logPod (s : State) (t : Strand) (h : Held) (dev ea : Nat) (bs : List Byte) : State × Except Trap Strand :=
  if s.fabric.member == some dev then
    match s.targetCheck t.world checkStore ea bs.length with
    | (s1, .ok ls) => (s1, logStore t h ea ls bs)
    | (s1, .error _) => (s1, logFar t h dev ea bs)
  else (s, logFar t h dev ea bs)

/-- A space-D store, logged under an item and else posted, once the count of its stream and device has room (05 R102). -/
def State.storePod (s : State) (t : Strand) (m dev ea : Nat) (bs : List Byte) : State :=
  match checkPod s t dev ea bs.length with
  | .error x => s.trap t x
  | .ok p =>
    match t.held with
    | some h =>
      match s.logPod t h dev ea bs with
      | (s1, .error x) => s1.trap t x
      | (s1, .ok t1) => s1.complete t1
    | none =>
      if t.countRoom m dev 1 then let (s1, t1) := s.postStore (t.roomFor m dev 1) p m dev ea bs; s1.complete t1
      else s.stall t .other

/-! ## LD and ST (05 R98 to R100) -/

/-- The common load of LD and LDA. -/
def State.doLoad (s : State) (t : Strand) (x : MemForm) (sx : Bool) : State :=
  let n := szBytes x.sz
  if x.sp == .d then s.remoteAccess t (devOf x t) .read (ea x t) n [] (.scalar x.d n sx true)
  else
    match s.loadBytes t checkLoad x.sp (ea x t) n with
    | (s1, .error e) => s1.trap t e
    | (s1, .ok bs) => s1.complete (t.setRun x.d (loadedRegs bs sx))

/-- A release does not issue before what it must wait for. -/
def execLd (x : MemForm) (ord : Order) (sx : Bool) (s : State) : Out :=
  gated (.ld x ord sx) s fun s t => if s.owesAccess t x ord then s.stall t .other else s.doLoad t x sx

/-- The common store of ST: into the log of a held item for G and D. -/
def State.doStore (s : State) (t : Strand) (x : MemForm) : State :=
  let bs := storedBytes t x.d (szBytes x.sz)
  if x.sp == .d then s.storePod t x.m (devOf x t) (ea x t) bs
  else
    match s.storeBytes t x.sp (ea x t) bs with
    | (s1, .error e) => s1.trap t e
    | (s1, .ok t1) => s1.complete t1

def execSt (x : MemForm) (ord : Order) (s : State) : Out :=
  gated (.st x ord) s fun s t => if s.owesAccess t x ord then s.stall t .other else s.doStore t x

/-! ## LDA and STREL (05 R101, R102) -/

def execLda (x : MemForm) (scope : Scope) (s : State) : Out :=
  gated (.lda x scope) s fun s t => if s.owesAccess t x .plain then s.stall t .other else s.doLoad t x false

/-- STREL is never logged. -/
def State.doStrel (s : State) (t : Strand) (x : MemForm) : State :=
  let bs := storedBytes t x.d (szBytes x.sz)
  let e := ea x t
  if x.sp == .d then
    let dev := devOf x t
    match checkPod s t dev e bs.length with
    | .error tr => s.trap t tr
    | .ok p =>
      if s.unreachableTo dev then s.complete { t with refusals := t.refusals ++ [(e, 0)] }
      else
        let t1 := t.nextTag
        ((s.usePath t.launch dev).send
          ⟨s.deviceId, dev, p.num, .release (t.countOf x.m dev), e, bs.length, t1.tagIn x.m, toNats bs⟩).complete
          ((t1.posting x.m dev e none).clearCount x.m dev)
  else
    match checkAccess s t.party checkStore x.sp e bs.length with
    | (s1, .error tr) => s1.trap t tr
    | (s1, .ok ls) => (s1.storeAt ls bs).complete t

/-- What an STREL waits for. One to space D orders no space-D stores but those it counts (05 R102). -/
def State.strelOwes (s : State) (t : Strand) (sp : Space) (scope : Scope) : Bool :=
  if sp == .d then s.postedBy t else s.owesAt t scope allStreams

def execStrel (x : MemForm) (scope : Scope) (s : State) : Out :=
  gated (.strel x scope) s fun s t =>
    if s.strelOwes t x.sp scope || s.owesAccess t x .plain then s.stall t .other
    else
      match if scope == .pod then t.takeRefusal else none with
      | some (e, t') => s.trap t' e
      | none => s.doStrel t x

/-! ## ATOM and CAS (05 R103, R104) -/

/-- The value an ATOM writes. -/
def atomNew (op : AtomOp) (bits old x : Nat) : Nat :=
  match op with
  | .swap => x
  | .add => (old + x) % 2 ^ bits
  | .and => old &&& x
  | .or => old ||| x
  | .smin => if signedOf x bits < signedOf old bits then x else old
  | .smax => if signedOf old bits < signedOf x bits then x else old
  | .umin => min old x
  | .umax => max old x

/-- The indivisible step at the home of `n` checked bytes; `f` gives the new value, or nothing to write. -/
def State.rmw (s : State) (n : Nat) (ls : List Loc) (f : Nat → Option Nat) : State × Nat :=
  let old := leValue (ls.map fun l => s.byteAt [] l)
  match f old with
  | some v => (s.storeAt ls (leBytes n v), old)
  | none => (s, old)

def execAtom (x : MemForm) (ord : Order) (op : AtomOp) (s : State) : Out :=
  gated (.atom x ord op) s fun s t =>
    let n := szBytes x.sz
    let e := ea0 x t
    let v := t.rn x.d % 2 ^ (8 * n)
    if s.owesAccess t x ord then s.stall t .other
    else if e % n != 0 then s.trap t ⟨causeMisalign, e, 0⟩
    else if x.sp == .d then s.remoteAccess t (devOf x t) (.atomic op) e n (leBytes n v) (.scalar x.d n false false)
    else
      match checkAccess s t.party checkAtomic x.sp e n with
      | (s1, .error tr) => s1.trap t tr
      | (s1, .ok ls) =>
        let (s2, old) := s1.rmw n ls fun old => some (atomNew op (8 * n) old v)
        s2.complete (t.setN x.d old)

/-- The expected value and the new value of CAS. -/
def casOperands (t : Strand) (d n : Nat) : Nat × Nat :=
  if n == 16 then (t.rn d + t.rn (d + 1) * 2 ^ 64, t.rn (d + 2) + t.rn (d + 3) * 2 ^ 64)
  else (t.rn d % 2 ^ (8 * n), t.rn (d + 1) % 2 ^ (8 * n))

def execCas (x : MemForm) (ord : Order) (s : State) : Out :=
  gated (.cas x ord) s fun s t =>
    let n := szBytes x.sz
    let e := ea0 x t
    let (want, new_) := casOperands t x.d n
    if s.owesAccess t x ord then s.stall t .other
    else if e % n != 0 then s.trap t ⟨causeMisalign, e, 0⟩
    else if x.sp == .d then
      s.remoteAccess t (devOf x t) .cas e n (leBytes n want ++ leBytes n new_) (.scalar x.d n false false)
    else
      match checkAccess s t.party checkAtomic x.sp e n with
      | (s1, .error tr) => s1.trap t tr
      | (s1, .ok ls) =>
        let (s2, old) := s1.rmw n ls fun old => if old == want then some new_ else none
        s2.complete (t.setRun x.d (loadedRegs (leBytes n old) false))

/-! ## FENCE and SBAR (05 R105, R106) -/

/-- FENCE: as a release it waits for the space-D stores of its streams and for posted estimator operations; at pod scope it
reports the oldest pending refusal. Its other orders hold already (log entry 4). -/
def execFence (g : Guard) (kind : FenceKind) (scope : Scope) (mask : Nat) (s : State) : Out :=
  gated (.fence g kind scope mask) s fun s t =>
    if kind != .acq && s.owesAt t scope mask then s.stall t .other
    else
      match if scope == .pod then t.takeRefusal else none with
      | some (e, t') => s.trap t' e
      | none => s.complete t

/-- SBAR waits for the space-D stores of its streams; every other access has been performed (log entry 4). -/
def execSbar (g : Guard) (mask : Nat) (s : State) : Out :=
  gated (.sbar g mask) s fun s t => if t.owesStores mask then s.stall t .other else s.complete t

/-! ## PREF, PIN and UNPIN (05 R107, R108) -/

/-- PREF changes no visible state and raises nothing. -/
def execPref (x : MemForm) (s : State) : Out := gated (.pref x) s fun s t => s.complete t

/-- The name of a line on another device. -/
def podLine (dev va : Nat) : Nat := 2 ^ 64 * (dev + 1) + va / 64

/-- The physical byte of an address of a world here. -/
def State.physAt (s : State) (world va : Nat) : Option Nat :=
  match walkFrom s world va 4 0 (s.root world) with
  | .leaf e _ => some (e.pa + va % e.size)
  | .fault .. => none

/-- Whether a physical line is homed on another die, so that a pin of it stands in the far cache (05 R108). -/
def farLine (die pa : Nat) : Bool := Config.homeDie pa % 8 != die

/-- The line that a space-D address names, and whether it is in the far cache: a line of this device is the one that space G
names. -/
def State.lineAt (s : State) (t : Strand) (dev va : Nat) : Nat × Bool :=
  match if s.fabric.member == some dev then s.physAt t.world va else none with
  | some pa => (pa / 64, farLine t.at_.die pa)
  | none => (podLine dev va, true)

/-- The pin quota of a world on each die (15 R262). -/
def State.pinQuota (s : State) (world : Nat) : Nat := ((s.world? world).map World.pinQuota).getD 65536

/-- The lines that a world pins on a die, each once. -/
def Die.pinnedLines (d : Die) (world : Nat) : List Nat := uniq ((d.pins.filter fun p => p.world == world).map Pin.line)

/-- Takes a pin for a strand's launch on a line: whether it is granted. A pin that a free value numbers as the last unpinned
way is refused (log entry 14). Each die holds the pins that it issued: one that the launch took through another die neither
counts here nor is released here (DESIGN CHOICE, log entry 52). -/
def State.takePin (s : State) (t : Strand) (line : Nat) (far uncached : Bool) : State × Bool :=
  let d := s.die t.at_.die
  let lines := d.pinnedLines t.world
  let s' := s.drawFree
  if d.pins.any fun p => p.line == line && p.world == t.world && p.launch == t.launch then (s', true)
  else if !uncached && (lines.contains line ||
      (lines.length < s.pinQuota t.world && !Config.pinTakesLastWay s.freeCount)) then
    (s'.putDie { d with pins := d.pins ++ [⟨line, t.world, t.launch, far⟩] }, true)
  else (s', false)

/-- PIN on a line that has passed its checks. -/
def State.pinLine (s : State) (t : Strand) (pd line : Nat) (far uncached : Bool) : State :=
  let (s1, ok) := s.takePin t line far uncached
  s1.complete (t.writePred pd ok .set)

/-- PIN. In space D the target checks the byte at the address of R57 and answers with the POLICY of its page; TADDR holds that
address in both spaces. A STOPPED first hop raises nothing here: the message waits (19 R357). -/
def execPin (x : MemForm) (s : State) : Out :=
  gated (.pin x) s fun s t =>
    let e := ea x t
    if x.sp == .d then s.remoteIf t (checkMember s t (devOf x t) e 1) (devOf x t) .probe e 1 [] (.pin x.d)
    else
      match checkAccess s t.party checkProbe .g e 1 with
      | (s1, .error tr) => s1.trap t tr
      | (s1, .ok ls) =>
        match ls.head?, translate s1 (coreOf t.at_) t.world e with
        | some (.phys pa), (s2, .leaf l _) =>
          s2.pinLine t x.d (pa / 64) (farLine t.at_.die pa) (ptePolicy l.pte == 1)
        | _, _ => s1.complete (t.writePred x.d false .set)

/-- Releases the launch's pin on a line. -/
def State.unpinLine (s : State) (t : Strand) (line : Nat) : State :=
  let d := s.die t.at_.die
  (s.putDie { d with pins := d.pins.filter fun p => !(p.line == line && p.world == t.world && p.launch == t.launch) }).complete t

def execUnpin (x : MemForm) (s : State) : Out :=
  gated (.unpin x) s fun s t =>
    let e := ea x t
    if 2 ^ 56 ≤ e then s.complete t
    else if x.sp == .d then s.unpinLine t (s.lineAt t (devOf x t) e).1
    else
      match translate s (coreOf t.at_) t.world e with
      | (s1, .leaf l _) => s1.unpinLine t ((l.pa + e % l.size) / 64)
      | (s1, .fault ..) => s1.complete t

/-! ## MCAST (05 R109) -/

/-- The part of one core of the quad: its checks as a store in that core's scratchpad, then the store. A refusal names the
address of the part: bits 22:21 of the address give way to the core. -/
def State.mcastPart (s : State) (t : Strand) (c e : Nat) (bs : List Byte) : State × Option Trap :=
  let off := e % 2 ^ 21
  let addr := e / 2 ^ 23 * 2 ^ 23 + c * 2 ^ 21 + off
  let here : Party := { t.party with core := ⟨t.at_.die, t.at_.core / 4 * 4 + c⟩ }
  if 2 ^ 23 ≤ e then (s, some ⟨causeBounds, addr, 0⟩)
  else
    match checkSpad s here checkStore .write .l off bs.length with
    | .error tr => (s, some { tr with addr := addr })
    | .ok ls => (s.storeAt ls bs, none)

/-- Every member's part in ascending core order; the first refusal is the one reported. -/
def State.mcastQuad (s : State) (t : Strand) (mask e : Nat) (bs : List Byte) : List Nat → State × Option Trap
  | [] => (s, none)
  | c :: r =>
    if bitAt mask c then
      let (s1, e1) := s.mcastPart t c e bs
      let (s2, e2) := s1.mcastQuad t mask e bs r
      (s2, e1.orElse fun _ => e2)
    else s.mcastQuad t mask e bs r

/-- The members of a multicast group of a world's pod world (19 R335). -/
def State.groupMembers (s : State) (p : PodWorld) (group : Nat) : Option (List Nat) :=
  (s.fabric.groups.find? fun g => g.num == p.num && g.group == group).map McastGroup.members

/-- The root of a multicast group. -/
def State.groupRoot (s : State) (p : PodWorld) (group : Nat) : Option Nat :=
  (s.fabric.groups.find? fun g => g.num == p.num && g.group == group).map McastGroup.root

/-- Posts an MCAST to the root of its group, which serialises it and sends each member its part (log entry 51); each part is a
posted store of the strand toward its member. With the root unreachable every part is refused. -/
def State.postMcast (s : State) (t : Strand) (p : PodWorld) (m group root e : Nat) (bs : List Byte) (ms : List Nat) :
    State × Strand :=
  if s.unreachableTo root then (s, { t with refusals := t.refusals ++ ms.map fun _ => (e, 0) })
  else
    let t1 := t.nextTag
    ((s.usePath t.launch root).send ⟨s.deviceId, root, p.num, .mcast group, e, bs.length, t1.tagIn m, toNats bs⟩,
      ms.foldl (fun t d => (t.posting m d e (some root)).countStore m d) t1)

/-- Logs one store for every member. -/
def State.logAll (s : State) (t : Strand) (e : Nat) (bs : List Byte) : List Nat → State × Except Trap Strand
  | [] => (s, .ok t)
  | d :: r =>
    match t.held with
    | none => (s, .ok t)
    | some h => match s.logPod t h d e bs with
      | (s1, .error x) => (s1, .error x)
      | (s1, .ok t1) => s1.logAll t1 e bs r

/-- MCAST in space D: to every member of the group. A group that is not registered is no valid target. Under an item each
member's part enters the log as a write to that member. It waits for the open stores of the strand to each member, since its
parts may come there first (05 R95, R109; log entry 4). -/
def State.mcastPod (s : State) (t : Strand) (x : MemForm) (bs : List Byte) : State :=
  let e := ea0 x t
  match outside56 e bs.length with
  | some a => s.trap t ⟨causeBounds, a, 0⟩
  | none =>
    match if s.fabric.member.isSome then s.podWorldOf t.world else none with
    | none => s.trap t (remoteLocal e)
    | some p =>
      match s.groupMembers p (devOf x t), s.groupRoot p (devOf x t) with
      | some ms, some root =>
        match s.stoppedHop root with
        | some port => s.trap t (linkExhausted port)
        | none =>
          if t.held.isSome then
            match s.logAll t e bs ms with
            | (s1, .error tr) => s1.trap t tr
            | (s1, .ok t1) => s1.complete t1
          else if !ms.any t.owesTo then
            let t1 := ms.foldl (fun t d => t.roomFor x.m d 1) t
            let (s1, t2) := s.postMcast t1 p x.m (devOf x t) root e bs ms
            s1.complete t2
          else s.stall t .other
      | _, _ => s.trap t (remoteLocal e)

def execMcast (x : MemForm) (rel : Bool) (s : State) : Out :=
  gated (.mcast x rel) s fun s t =>
    let bs := storedBytes t x.d (szBytes x.sz)
    if rel && s.owesRelease t .rel x.sp then s.stall t .other
    else if x.sp == .d then s.mcastPod t x bs
    else
      match s.mcastQuad t (t.rn x.b % 16) (ea0 x t) bs [0, 1, 2, 3] with
      | (s1, some tr) => s1.trap t tr
      | (s1, none) => s1.complete t

end Sys2Proof.Machine
end

