-- ==== Sys2Proof/Machine/Engine.lean ====
section
/-! DEFINITION. What the matrix engine and the copy engine share: reading and writing runs of bytes in every space, the
grotto rules of their operands, and writing through the log of an item (07 R159, R162; 09 R175, R181; 15 R271 to R273). -/

namespace Sys2Proof.Machine

/-! ## Grotto bytes (15 R271; 09 R175) -/

/-- The name of a package of a world. -/
def pkgKey (world handle : Nat) : Nat := world * 65536 + handle

/-- The package whose region holds an address of a world: the region takes whole pages (15 R271). -/
def State.pkgAt (s : State) (world va : Nat) : Nat :=
  ((s.packages.find? fun p => p.world == world && p.gb ≤ va && va < p.gb + (p.size + 65535) / 65536 * 65536).map
    fun p => pkgKey world p.handle).getD 0

/-- Whether a byte is grotto, and then the packages it may come from. -/
def State.grottoOf (s : State) (p : Party) (sp : Space) (va : Nat) : Option (List Nat) :=
  if sp == .g then
    match translate s p.core p.world va with
    | (_, .leaf e _) => if pteG e.pte then some [s.pkgAt p.world va] else none
    | (_, .fault ..) => none
  else
    match spadLoc p sp va with
    | none => none
    | some (c, off) => ((s.core c).grotto.find? fun g => g.stripe == off / 2048).map GrottoStripe.pkgs

/-- The package that a stage instance is bound to; 0 for none. -/
def State.boundPkg (s : State) (inst : Nat) : Nat :=
  match s.stage? inst with
  | some g => if g.pkg == 0 then 0 else pkgKey g.world g.pkg
  | none => 0

/-- Whether a bound stage may compute from a grotto byte. -/
def State.mayRead (s : State) (p : Party) (pkgs : List Nat) : Bool :=
  let b := s.boundPkg p.inst
  b != 0 && pkgs.all fun k => k == b

/-- What an engine does with grotto bytes: computes under the policy, or reads none. -/
inductive GrottoUse
  | policy | never | copied
  deriving DecidableEq, Repr

/-- The trap for the first grotto byte that may not be read. -/
def State.grottoTrap (s : State) (p : Party) (sp : Space) (ea n : Nat) (use : GrottoUse) : Option Trap :=
  let bad := fun i => match s.grottoOf p sp (ea + i) with
    | none => false
    | some pkgs => use == .never || (use == .policy && !s.mayRead p pkgs)
  if use == .copied then none
  else (firstIndex n bad).map fun i => ⟨if use == .never then causeGrottoRead else causeGrottoPolicy, ea + i, 0⟩

/-! ## Lines of another device -/

/-- The answer for the line of a byte. -/
def farAt (far : List FarLine) (dev va : Nat) : Option FarLine := far.find? fun l => l.dev == dev && l.va == va / 64 * 64

/-- What stops a read or write of an engine: a trap of this device, a refusal of the target with its cause, or an answer
that has not come. -/
inductive EngineStop
  | trap (x : Trap) | refused (va cause : Nat) | waiting
  deriving DecidableEq, Repr

/-- The first stop among the answers for `n` bytes. A target that reports POISON gives a matrix operation a poisoned line, which is
no stop to it (`rd`). -/
def farStop (rd : Bool) (far : List FarLine) (dev ea n : Nat) : Option EngineStop :=
  (List.range n).findSome? fun i => match farAt far dev (ea + i) with
    | none => some .waiting
    | some l => if l.status == 0 || (rd && l.status == causePoison) then none else some (.refused (ea + i) l.status)

/-- Whether a device is this one: its memory is read and written here (05 R91). -/
def State.isOwn (s : State) (dev : Nat) : Bool := s.fabric.member == some dev

/-- Checks 2 and 3 of a space-D run, then the answers of another device, where it is sent at once. It waits while the first hop
is STOPPED (19 R357). -/
def podStop (s : State) (world dev : Nat) (rd : Bool) (far : Option (List FarLine)) (ea n : Nat) : Option EngineStop :=
  match outside56 ea n with
  | some a => some (.trap ⟨causeBounds, a, 0⟩)
  | none =>
    if (s.podTarget world dev).isNone then some (.trap (remoteLocal ea))
    else
      match far with
      | none => none
      | some l =>
        if s.isOwn dev then none
        else if s.unreachableTo dev then some (.refused ea 0)
        else if (s.stoppedHop dev).isSome then some .waiting
        else farStop rd l dev ea n

/-- The checks of this device as the target of its own engine, in space D. -/
def State.ownCheck (s : State) (world : Nat) (k : CheckKind) (ea n : Nat) : State × Except EngineStop (List Loc) :=
  match s.targetCheck world k ea n with
  | (s1, .error x) => (s1, .error (.refused x.addr x.cause))
  | (s1, .ok ls) => (s1, .ok ls)

/-! ## Reading runs -/

/-- A run of bytes in a space. -/
structure Run where
  sp : Space
  addr : Nat
  len : Nat
  deriving DecidableEq, Repr

/-- The checks of a read by an engine: R92 without its grotto and poison checks. -/
def checkEngineRead : CheckKind := ⟨true, false, false, false, false, none, false⟩

/-- What a run gives: its bytes, whether a line of it was poisoned, and where in the run each poisoned byte lies. -/
structure RunData where
  bytes : List Nat
  bad : List Bool
  deriving DecidableEq, Repr

/-- Whether some byte of a run was poisoned. -/
def RunData.poisoned (d : RunData) : Bool := d.bad.any id

/-- The bytes of checked places. An engine reads memory itself: bytes in the log of an item are not there yet (DESIGN CHOICE,
log entry 52). -/
def State.runData (s : State) (ls : List Loc) : RunData := ⟨ls.map fun l => (s.byteAt [] l).toNat, ls.map s.poisonAt⟩

/-- The bytes that another device has answered. -/
def farData (far : List FarLine) (dev : Nat) (r : Run) : RunData :=
  let lines := (List.range r.len).map fun i => (farAt far dev (r.addr + i), (r.addr + i) % 64)
  ⟨lines.map fun l => ((l.1.map fun f => nth f.data l.2 0).getD 0) % 256, lines.map fun l => (l.1.map fun f => f.status != 0).getD false⟩

/-- Reads one run. -/
def readRun (s : State) (p : Party) (dev : Nat) (far : List FarLine) (use : GrottoUse) (r : Run) :
    State × Except EngineStop RunData :=
  if r.sp == .d then
    match podStop s p.world dev true (some far) r.addr r.len with
    | some x => (s, .error x)
    | none =>
      if s.isOwn dev then
        match s.ownCheck p.world checkEngineRead r.addr r.len with
        | (s1, .error x) => (s1, .error x)
        | (s1, .ok ls) => (s1, .ok (s1.runData ls))
      else (s, .ok (farData far dev r))
  else
    match checkAccess s p checkEngineRead r.sp r.addr r.len with
    | (s1, .error x) => (s1, .error (.trap x))
    | (s1, .ok ls) =>
      match s1.grottoTrap p r.sp r.addr r.len use with
      | some x => (s1, .error (.trap x))
      | none => (s1, .ok (s1.runData ls))

/-- Reads runs in order; the first stop ends it. -/
def readRuns (p : Party) (dev : Nat) (far : List FarLine) (use : GrottoUse) :
    List Run → State → State × Except EngineStop (List RunData)
  | [], s => (s, .ok [])
  | r :: rs, s =>
    match readRun s p dev far use r with
    | (s1, .error x) => (s1, .error x)
    | (s1, .ok d) =>
      match readRuns p dev far use rs s1 with
      | (s2, .error x) => (s2, .error x)
      | (s2, .ok l) => (s2, .ok (d :: l))

/-! ## Writing runs -/

/-- A run of bytes to write. -/
structure WriteRun where
  sp : Space
  addr : Nat
  data : List Nat
  deriving DecidableEq, Repr

/-- A checked write: where each byte goes; nothing for another device. -/
abbrev Checked := WriteRun × List Loc

/-- Checks one write by R92 as a store; a copy of grotto bytes may write a stripe that has the bit (09 R175). A logged write
in space D is not sent yet, and only checks 2 and 3 are made; one to this device that would pass the others is logged by its
places (log entry 52). -/
def checkWrite (s : State) (p : Party) (dev : Nat) (far : Option (List FarLine)) (grotto : Bool) (w : WriteRun) :
    State × Except EngineStop Checked :=
  if w.sp == .d then
    match podStop s p.world dev false far w.addr w.data.length with
    | some x => (s, .error x)
    | none =>
      if s.isOwn dev then
        match s.ownCheck p.world checkStore w.addr w.data.length with
        | (s1, .error x) => (s1, if far.isSome then .error x else .ok (w, []))
        | (s1, .ok ls) => (s1, .ok (w, ls))
      else (s, .ok (w, []))
  else
    match checkAccess s p { checkStore with grottoWrite := !grotto } w.sp w.addr w.data.length with
    | (s1, .error x) => (s1, .error (.trap x))
    | (s1, .ok ls) => (s1, .ok (w, ls))

/-- Checks writes in order; the first that fails ends it. One whose answer has not come keeps the rest from no check of this
device. -/
def checkWrites (p : Party) (dev : Nat) (far : Option (List FarLine)) (grotto : Bool) :
    List WriteRun → State → State × Except EngineStop (List Checked)
  | [], s => (s, .ok [])
  | w :: ws, s =>
    match checkWrite s p dev far grotto w with
    | (s1, .error .waiting) =>
      match checkWrites p dev far grotto ws s1 with
      | (s2, .error (.trap x)) => (s2, .error (.trap x))
      | (s2, _) => (s2, .error .waiting)
    | (s1, .error x) => (s1, .error x)
    | (s1, .ok c) =>
      match checkWrites p dev far grotto ws s1 with
      | (s2, .error x) => (s2, .error x)
      | (s2, .ok l) => (s2, .ok (c :: l))

/-- Sectors that a run of bytes touches. -/
def spanSectors (addr len : Nat) : Nat := if len == 0 then 0 else (addr + len - 1) / 32 - addr / 32 + 1

/-- Whether writes to a space are logged under an item (10 R199). -/
def loggedSpace (sp : Space) : Bool := sp == .g || sp == .d

/-- Enters one write in a log, taking its sectors out of the reservation. -/
def logWrite (dev : Nat) (l : WriteLog) (c : Checked) : WriteLog :=
  let w := c.1
  let n := w.data.length
  let l1 := { l with reserved := l.reserved - spanSectors w.addr n }
  if w.sp == .d && c.2.isEmpty then
    { l1 with
      sectors := addSectors l1.sectors (podSectors dev w.addr n)
      pod := l1.pod ++ [⟨dev, w.addr, toBytes w.data⟩] }
  else
    let l2 := l1.put c.2 (toBytes w.data)
    { l2 with ranges := l2.ranges ++ [(w.addr, n)] }

/-- Performs one checked write at once; one to another device is sent to it, and its answer has been given (09 R181). -/
def State.writeRun (s : State) (world dev : Nat) (c : Checked) : State :=
  if c.1.sp == .d && s.isOwn dev then s.storeAt c.2 (toBytes c.1.data)
  else if c.1.sp == .d then
    match s.podWorldOf world with
    | none => s
    | some p => s.send ⟨s.deviceId, dev, p.num, .write, c.1.addr, c.1.data.length, 0, c.1.data⟩
  else s.storeAt c.2 (toBytes c.1.data)

/-- The log of the item that a strand holds, changed. -/
def Strand.mapLog (t : Strand) (f : WriteLog → WriteLog) : Strand :=
  { t with held := t.held.map fun h => { h with log := f h.log } }

/-- Performs or logs checked writes of an operation: `underItem` and `lost` as it was issued. The log of a lost item is
gone (10 R201). -/
def State.engineWrite (s : State) (i : SlotId) (world dev : Nat) (underItem lost : Bool) : List Checked → State
  | [] => s
  | c :: r =>
    let s1 :=
      if underItem && loggedSpace c.1.sp then
        if lost then s
        else match s.strand? i with
          | some t => s.putStrand (t.mapLog fun l => logWrite dev l c)
          | none => s
      else s.writeRun world dev c
    s1.engineWrite i world dev underItem lost r

/-- Reserves sectors in the log of a held item for an operation that is about to issue, if they fit (10 R199). -/
def Strand.reserve (t : Strand) (sectors : Nat) : Except Trap Strand :=
  match t.held with
  | none => .ok t
  | some h =>
    if logCapacity < h.log.used + sectors then .error (bounds 14)
    else .ok (t.mapLog fun l => { l with reserved := l.reserved + sectors })

/-- Gives back sectors that an operation reserved and has not used. -/
def Strand.unreserve (t : Strand) (sectors : Nat) : Strand := t.mapLog fun l => { l with reserved := l.reserved - sectors }

/-- Whether the engines of a core are stopped by a debugger halt for a strand (17 R325). -/
def State.engineHalted (s : State) (t : Strand) : Bool := (s.core (coreOf t.at_)).dbg.halt && !t.super

end Sys2Proof.Machine
end

