-- ==== Sys2Proof/Machine/Vector.lean ====
section
/-! DEFINITION. Vector instructions on integers, permutes and moves: the element loop of R113 and what each instruction
computes in it (06 R111 to R116, R123 to R127, R134 to R140). -/

namespace Sys2Proof.Machine

/-! ## The element loop (06 R113) -/

/-- Whether position `i` is active: below VL with its guard bit set. -/
def Strand.active (t : Strand) (g : Guard) (i : Nat) : Bool := decide (i < t.vl) && t.guardBit g i

/-- The active positions, lowest first. -/
def Strand.activeList (t : Strand) (g : Guard) : List Nat := (List.range t.vlmax).filter (t.active g)

/-- Registers of a group whose VLMAX elements have `w` bits. -/
def Strand.groupOf (t : Strand) (w : Nat) : Nat := t.grp * w / t.ew

/-- What position `i` of a destination gets: its tail or masked-off policy, or `op i` with its flags. -/
def Strand.position (t : Strand) (g : Guard) (tp mp : Bool) (old : Nat → Nat) (op : Nat → Nat × Nat) (i : Nat) : Nat × Nat :=
  if t.vl ≤ i then (if tp then 0 else old i, 0)
  else if !t.guardBit g i then (if mp then 0 else old i, 0)
  else op i

/-- The flags of a list of results. -/
def flagsOf (l : List (Nat × Nat)) : Nat := l.foldl (fun a r => a ||| r.2) 0

/-- The element loop over elements of `w` bits: the group of D is written, the flags of active elements are raised. -/
def Strand.elementwise (t : Strand) (g : Guard) (d w : Nat) (tp mp : Bool) (op : Nat → Nat × Nat) : Strand :=
  let n := t.groupOf w
  let old := t.vgroup d n
  let res := (List.range t.vlmax).map (t.position g tp mp (fun i => field old (w * i) w) op)
  (t.setGroup d n (joinElems w (res.map (·.1)))).orFlags (flagsOf res)

/-- The element loop over a predicate (06 R124). -/
def Strand.predwise (t : Strand) (g : Guard) (d : Nat) (tp mp : Bool) (op : Nat → Bool × Nat) : Strand :=
  let old := t.rp d
  let bit := fun i => let r := op i; (boolNat r.1, r.2)
  let res := (List.range t.vlmax).map (t.position g tp mp (fun i => field old i 1) bit)
  (t.setP d (joinElems 1 (res.map (·.1)))).orFlags (flagsOf res)

/-- An operation without flags. -/
def noFlags (f : Nat → Nat) (i : Nat) : Nat × Nat := (f i, 0)

/-! ## Operands -/

/-- Element `i` of `w` bits of the group that a source field names. -/
def Strand.elems (t : Strand) (f w : Nat) : Nat → Nat :=
  let x := t.vsrc f (t.groupOf w)
  fun i => field x (w * i) w

/-- The second operand: elements, or the low EW bits of a scalar for every element (06 R112). -/
def Strand.second (t : Strand) (x : VecForm) : Nat → Nat :=
  if x.xb then fun _ => t.rn x.b % 2 ^ t.ew else t.elems x.b t.ew

/-! ## VSETL (06 R111) -/

def execVsetl (g : Guard) (d a lg lew imm : Nat) (s : State) : Out :=
  gated (.vsetl g d a lg lew imm) s fun s t =>
    let req := if a == 0 then imm else t.rn a
    let t1 := { t with regs := { t.regs with vtype := BitVec.ofNat 64 (lg * 4 + lew) } }
    let n := min req t1.vlmax
    let t2 := { t1 with regs := { t1.regs with vl := BitVec.ofNat 64 n } }
    s.complete (t2.setN d n)

/-! ## Integer element-wise instructions (06 R123) -/

/-- An element-wise instruction with a vector destination. -/
def vecExec (i : Instr) (x : VecForm) (op : Strand → Nat → Nat × Nat) (s : State) : Out :=
  gated i s fun s t => s.complete (t.elementwise x.g x.d t.ew x.tp x.mp (op t))

/-- An integer instruction: `op` takes the width, the two patterns and the two values; `old` is the destination's. -/
def vecInt (x : VecForm) (u sat : Bool) (op : Nat → Nat → Nat → Int → Int → Int) (t : Strand) : Nat → Nat × Nat :=
  let w := t.ew
  let a := t.elems x.a w
  let b := t.second x
  fun i =>
    let r := op w (a i) (b i) (readInt w u (a i)) (readInt w u (b i))
    (wrapTo w (if sat then clampTo w u r else r), 0)

def vAdd (_ _ _ : Nat) (x y : Int) : Int := x + y
def vSub (_ _ _ : Nat) (x y : Int) : Int := x - y
def vMul (_ _ _ : Nat) (x y : Int) : Int := x * y
def vMulh (w _ _ : Nat) (x y : Int) : Int := x * y / (2 ^ w : Nat)
def vMin (_ _ _ : Nat) (x y : Int) : Int := if y < x then y else x
def vMax (_ _ _ : Nat) (x y : Int) : Int := if x < y then y else x
def vAnd (_ a b : Nat) (_ _ : Int) : Int := (a &&& b : Nat)
def vOr (_ a b : Nat) (_ _ : Int) : Int := (a ||| b : Nat)
def vXor (_ a b : Nat) (_ _ : Int) : Int := (a ^^^ b : Nat)
def vShl (w a b : Nat) (_ _ : Int) : Int := (a * 2 ^ (b % w) : Nat)
def vShr (w a b : Nat) (_ _ : Int) : Int := (a / 2 ^ (b % w) : Nat)
def vSra (w a b : Nat) (_ _ : Int) : Int := signedOf a w / (2 ^ (b % w) : Nat)
def vDiv (w _ _ : Nat) (x y : Int) : Int := divInt w x y
def vRem (_ _ _ : Nat) (x y : Int) : Int := remInt x y

def execVadd (x : VecForm) (s : State) : Out := vecExec (.vadd x) x (vecInt x false false vAdd) s
def execVsub (x : VecForm) (s : State) : Out := vecExec (.vsub x) x (vecInt x false false vSub) s
def execVmul (x : VecForm) (s : State) : Out := vecExec (.vmul x) x (vecInt x false false vMul) s
def execVmulh (x : VecForm) (u : Bool) (s : State) : Out := vecExec (.vmulh x u) x (vecInt x u false vMulh) s
def execVmin (x : VecForm) (u : Bool) (s : State) : Out := vecExec (.vmin x u) x (vecInt x u false vMin) s
def execVmax (x : VecForm) (u : Bool) (s : State) : Out := vecExec (.vmax x u) x (vecInt x u false vMax) s
def execVand (x : VecForm) (s : State) : Out := vecExec (.vand x) x (vecInt x true false vAnd) s
def execVor (x : VecForm) (s : State) : Out := vecExec (.vor x) x (vecInt x true false vOr) s
def execVxor (x : VecForm) (s : State) : Out := vecExec (.vxor x) x (vecInt x true false vXor) s
def execVshl (x : VecForm) (s : State) : Out := vecExec (.vshl x) x (vecInt x true false vShl) s
def execVshr (x : VecForm) (s : State) : Out := vecExec (.vshr x) x (vecInt x true false vShr) s
def execVsra (x : VecForm) (s : State) : Out := vecExec (.vsra x) x (vecInt x false false vSra) s
def execVadds (x : VecForm) (u : Bool) (s : State) : Out := vecExec (.vadds x u) x (vecInt x u true vAdd) s
def execVsubs (x : VecForm) (u : Bool) (s : State) : Out := vecExec (.vsubs x u) x (vecInt x u true vSub) s
def execVdiv (x : VecForm) (u : Bool) (s : State) : Out := vecExec (.vdiv x u) x (vecInt x u false vDiv) s
def execVrem (x : VecForm) (u : Bool) (s : State) : Out := vecExec (.vrem x u) x (vecInt x u false vRem) s

/-- VMAC adds the product to the destination's element. -/
def vecMac (x : VecForm) (t : Strand) : Nat → Nat × Nat :=
  let w := t.ew
  let a := t.elems x.a w
  let b := t.second x
  let d := t.elems x.d w
  fun i => (wrapTo w (signedOf (d i) w + signedOf (a i) w * signedOf (b i) w), 0)

def execVmac (x : VecForm) (s : State) : Out := vecExec (.vmac x) x (vecMac x) s

/-! ## VCMP, VMERGE, VNARROW, VWIDEN, VID (06 R124 to R127) -/

def execVcmp (x : VecForm) (cond : IntCond) (s : State) : Out :=
  gated (.vcmp x cond) s fun s t =>
    let a := t.elems x.a t.ew
    let b := t.second x
    s.complete (t.predwise x.g x.d x.tp x.mp fun i => (intCond cond t.ew (a i) (b i), 0))

/-- VMERGE selects by predicate `c`. -/
def vecMerge (x : VecForm) (c : Nat) (t : Strand) : Nat → Nat × Nat :=
  let a := t.elems x.a t.ew
  let b := t.second x
  let p := t.rp c
  fun i => (if bitAt p i then a i else b i, 0)

def execVmerge (x : VecForm) (c : Nat) (s : State) : Out := vecExec (.vmerge x c) x (vecMerge x c) s

/-- VNARROW's operation on a `2 × w`-bit element. -/
def narrow (kind : NarrowKind) (w a : Nat) : Nat :=
  let v := signedOf a (2 * w)
  match kind with
  | .trunc => a % 2 ^ w
  | .ssat => wrapTo w (clampTo w false v)
  | .usat => wrapTo w (clampTo w true v)

def execVnarrow (x : VecUn) (kind : NarrowKind) (s : State) : Out :=
  gated (.vnarrow x kind) s fun s t =>
    let a := t.elems x.a (2 * t.ew)
    s.complete (t.elementwise x.g x.d t.ew x.tp x.mp (noFlags fun i => narrow kind t.ew (a i)))

def execVwiden (x : VecUn) (sx : Bool) (s : State) : Out :=
  gated (.vwiden x sx) s fun s t =>
    let w := t.ew
    let a := t.elems x.a w
    s.complete (t.elementwise x.g x.d (2 * w) x.tp x.mp
      (noFlags fun i => if sx then wrapTo (2 * w) (signedOf (a i) w) else a i))

def execVid (g : Guard) (d : Nat) (tp mp : Bool) (s : State) : Out :=
  gated (.vid g d tp mp) s fun s t => s.complete (t.elementwise g d t.ew tp mp (noFlags id))

/-! ## Integer and mixed reductions (06 R134, R135) -/

/-- The active elements of a source with their positions. -/
def Strand.activeElems (t : Strand) (g : Guard) (a : Nat) : List (Nat × Nat) :=
  let e := t.elems a t.ew
  (t.activeList g).map fun i => (i, e i)

/-- The start value of a reduction, if it has one. -/
def Strand.startValue (t : Strand) (x : RedForm) : Option Nat := if x.xb then some (t.rn x.b % 2 ^ t.ew) else none

/-- VREDSUM: addition wraps at EW bits, so the order of the tree does not show. -/
def redSum (x : RedForm) (u : Bool) (t : Strand) : Nat :=
  let sum := ((t.activeElems x.g x.a).map (·.2)).foldl (· + ·) ((t.startValue x).getD 0) % 2 ^ t.ew
  if u then sum else sext t.ew sum

def execVredsum (x : RedForm) (u : Bool) (s : State) : Out :=
  gated (.vredsum x u) s fun s t => s.complete (t.setN x.d (redSum x u t))

/-- The least (`wantMax`) or greatest pattern of an integer kind. -/
def extremeIdentity (w : Nat) (wantMax u : Bool) : Nat :=
  if u then (if wantMax then 0 else 2 ^ w - 1) else (if wantMax then 2 ^ (w - 1) else 2 ^ (w - 1) - 1)

/-- The extreme of integer patterns. -/
def extremeInt (w : Nat) (wantMax u : Bool) : List Nat → Nat
  | [] => extremeIdentity w wantMax u
  | x :: r =>
    let y := extremeInt w wantMax u r
    if wantMax then (if readInt w u x < readInt w u y then y else x) else (if readInt w u y < readInt w u x then y else x)

/-- The extreme of floating-point patterns: NaN only when every one is (02 R38, R52). -/
def extremeFp (f : Fmt) (wantMax : Bool) (l : List Nat) : Nat × Nat :=
  l.foldl (fun acc x => let (r, fl) := f.minMax (!wantMax) acc.1 x; (r, acc.2 ||| fl)) (f.nan, 0)

/-- VREDMAX and VREDMIN. -/
def redExtreme (x : RedForm) (kind : ElemKind) (alt wantMax : Bool) (t : Strand) : Strand :=
  let vals := (t.activeElems x.g x.a).map (·.2) ++ (t.startValue x).toList
  match kind with
  | .f => let (r, fl) := extremeFp (elemFmt t.ew alt) wantMax vals; (t.setN x.d r).orFlags fl
  | .u => t.setN x.d (extremeInt t.ew wantMax true vals)
  | .s => t.setN x.d (sext t.ew (extremeInt t.ew wantMax false vals))

def execVredmax (x : RedForm) (kind : ElemKind) (alt : Bool) (s : State) : Out :=
  gated (.vredmax x kind alt) s fun s t => s.complete (redExtreme x kind alt true t)

def execVredmin (x : RedForm) (kind : ElemKind) (alt : Bool) (s : State) : Out :=
  gated (.vredmin x kind alt) s fun s t => s.complete (redExtreme x kind alt false t)

/-- Whether `b` is strictly above `a` for VARGMAX; a NaN is above nothing and below every number. -/
def strictlyAbove (f : Fmt) (kind : ElemKind) (w a b : Nat) : Bool :=
  match kind with
  | .s => decide (signedOf a w < signedOf b w)
  | .u => decide (a < b)
  | .f => !(f.read b).isNan && ((f.read a).isNan || belowVal (f.read a) (f.read b))

/-- The lowest position of the maximum. -/
def argMax (above : Nat → Nat → Bool) : List (Nat × Nat) → Option (Nat × Nat)
  | [] => none
  | x :: r =>
    match argMax above r with
    | none => some x
    | some y => if above x.2 y.2 then some y else some x

/-- VARGMAX: the position, or all ones, and the flags. -/
def argMaxOf (t : Strand) (g : Guard) (a : Nat) (kind : ElemKind) (alt : Bool) : Nat × Nat :=
  let f := elemFmt t.ew alt
  let l := t.activeElems g a
  let fl := if kind == .f then l.foldl (fun acc x => acc ||| snan (f.read x.2)) 0 else 0
  (((argMax (strictlyAbove f kind t.ew) l).map (·.1)).getD (2 ^ 64 - 1), fl)

def execVargmax (g : Guard) (d a : Nat) (kind : ElemKind) (alt : Bool) (s : State) : Out :=
  gated (.vargmax g d a kind alt) s fun s t =>
    let (n, fl) := argMaxOf t g a kind alt
    s.complete ((t.setN d n).orFlags fl)

/-! ## Permutes and moves (06 R136 to R140) -/

def execVslideup (x : VecUn) (b : Nat) (s : State) : Out :=
  gated (.vslideup x b) s fun s t =>
    let off := t.rn b
    let a := t.elems x.a t.ew
    let d := t.elems x.d t.ew
    s.complete (t.elementwise x.g x.d t.ew x.tp x.mp (noFlags fun i => if i < off then d i else a (i - off)))

def execVslidedn (x : VecUn) (b : Nat) (s : State) : Out :=
  gated (.vslidedn x b) s fun s t =>
    let off := t.rn b
    let a := t.elems x.a t.ew
    s.complete (t.elementwise x.g x.d t.ew x.tp x.mp (noFlags fun i => if i + off < t.vlmax then a (i + off) else 0))

/-- VPERM's index: element `i` of B, or the whole scalar (06 R137). -/
def permIndex (x : VecForm) (t : Strand) : Nat → Nat :=
  if x.xb then fun _ => t.rn x.b else t.elems x.b t.ew

/-- VPERM's operation. -/
def vecPerm (x : VecForm) (t : Strand) : Nat → Nat × Nat :=
  let a := t.elems x.a t.ew
  let k := permIndex x t
  fun i => (if k i < t.vlmax then a (k i) else 0, 0)

def execVperm (x : VecForm) (s : State) : Out := vecExec (.vperm x) x (vecPerm x) s

/-- VCOMPRESS: the selected elements packed from position 0; the rest zero or kept. -/
def compress (t : Strand) (d a c : Nat) (tp : Bool) : Strand :=
  let w := t.ew
  let src := t.elems a w
  let old := t.elems d w
  let p := t.rp c
  let packed := ((List.range (min t.vl t.vlmax)).filter (bitAt p)).map src
  let rest := ((List.range t.vlmax).drop packed.length).map fun i => if tp then 0 else old i
  t.setGroup d (t.groupOf w) (joinElems w (packed ++ rest))

def execVcompress (d a c : Nat) (tp : Bool) (s : State) : Out :=
  gated (.vcompress d a c tp) s fun s t => s.complete (compress t d a c tp)

def execVbcast (g : Guard) (d b : Nat) (tp mp : Bool) (s : State) : Out :=
  gated (.vbcast g d b tp mp) s fun s t => s.complete (t.elementwise g d t.ew tp mp (noFlags fun _ => t.rn b))

/-- VMVSV: one active element gets a scalar. -/
def execVmvsv (g : Guard) (d a b : Nat) (s : State) : Out :=
  gated (.vmvsv g d a b) s fun s t =>
    let j := t.rn a
    let old := t.elems d t.ew
    s.complete (t.elementwise g d t.ew false false (noFlags fun i => if i == j then t.rn b else old i))

def execVmvvs (g : Guard) (d a b : Nat) (sx : Bool) (s : State) : Out :=
  gated (.vmvvs g d a b sx) s fun s t =>
    let j := t.rn b
    let e := if j < t.vlmax then t.elems a t.ew j else 0
    s.complete (t.setN d (if sx then sext t.ew e else e))

def execViota (x : VecUn) (s : State) : Out :=
  gated (.viota x) s fun s t =>
    let p := t.rp x.a
    s.complete (t.elementwise x.g x.d t.ew x.tp x.mp
      (noFlags fun i => ((List.range (min i t.vl)).filter (bitAt p)).length))

def execVmv (x : VecUn) (s : State) : Out :=
  gated (.vmv x) s fun s t => s.complete (t.elementwise x.g x.d t.ew x.tp x.mp (noFlags (t.elems x.a t.ew)))

end Sys2Proof.Machine
end

