-- ==== Sys2Proof/Machine/Matrix.lean ====
section
/-! DEFINITION. The accumulator store and the matrix instructions (07 R142 to R145, R151 to R157, R163 to R165; 17 R322). The
work that a matrix operation does beside its strand stands in MatrixEngine. -/

namespace Sys2Proof.Machine

/-! ## Cells and regions (07 R142, R143) -/

/-- Cells of an accumulator store. -/
def accCells : Nat := 32768

/-- A cell; a cell that is not listed holds 0. -/
def cellGet (m : List (Nat × Nat)) (a : Nat) : Nat :=
  match m with
  | [] => 0
  | (k, v) :: r => if k == a then v else if a < k then 0 else cellGet r a

/-- Writes one cell and keeps the list rising and free of zeros. -/
def cellSet (m : List (Nat × Nat)) (a v : Nat) : List (Nat × Nat) :=
  match m with
  | [] => if v == 0 then [] else [(a, v)]
  | (k, w) :: r =>
    if a < k then (if v == 0 then (k, w) :: r else (a, v) :: (k, w) :: r)
    else if a == k then (if v == 0 then r else (a, v) :: r)
    else (k, w) :: cellSet r a v

/-- Cells from an index. -/
def cellRun (m : List (Nat × Nat)) (a n : Nat) : List Nat := (List.range n).map fun i => cellGet m (a + i)

/-- Writes cells from an index. -/
def cellSetRun (m : List (Nat × Nat)) (a : Nat) : List Nat → List (Nat × Nat)
  | [] => m
  | v :: r => cellSetRun (cellSet m a v) (a + 1) r

/-- The region of a strand's handle. -/
def Core.regionOf (c : Core) (i : SlotId) (h : Nat) : Option Region := c.regions.find? fun r => r.owner == .handle i h

/-- Whether a region belongs to a resident strand. -/
def Region.resident (r : Region) : Bool := match r.owner with | .handle .. => true | .tagged .. => false

/-- Whether a region shares a cell with `n` cells from `b`. -/
def Region.meets (r : Region) (b n : Nat) : Bool := decide (r.base < b + n) && decide (b < r.base + r.size)

/-- The least of a list of numbers. -/
def leastOf : List Nat → Option Nat
  | [] => none
  | x :: r => match leastOf r with | none => some x | some y => some (min x y)

/-- The lowest base for `n` cells: the current region of the handle and tagged regions count as free. -/
def Core.lowestBase (c : Core) (i : SlotId) (h n : Nat) : Option Nat :=
  let held := c.regions.filter fun r => r.resident && r.owner != .handle i h
  leastOf ((0 :: held.map fun r => r.base + r.size).filter fun b => b + n ≤ accCells && !held.any fun r => r.meets b n)

/-- Keeps the cells of a tagged region in the save area of its stage (17 R322). -/
def State.spillRegion (s : State) (c : CoreId) (r : Region) : State :=
  match r.owner with
  | .handle .. => s
  | .tagged inst i h =>
    let core := s.core c
    let s1 := s.putCore { core with regions := core.regions.filter fun x => x != r }
    let keep := fun (t : Strand) => { t with spilled := assocSet t.spilled h (cellRun core.cells r.base r.size) }
    match s1.stage? inst with
    | none => s1
    | some g => (s1.writeSaveArea g.world).putStage { g with saved := g.saved.map fun v =>
        { v with strands := v.strands.map fun t => if t.at_ == i then keep t else t } }

/-- ALLOCATION of a region for handle `h` (07 R143): overlapped tagged regions are spilled first, in ascending base order.
None where no room is left. -/
def State.allocate (s : State) (t : Strand) (h n : Nat) : Option (State × Nat) :=
  let c := coreOf t.at_
  match (s.core c).lowestBase t.at_ h n with
  | none => none
  | some b =>
    let above := sortBy Region.base ((s.core c).regions.filter fun r => !r.resident && r.meets b n)
    let s1 := above.foldl (fun s r => s.spillRegion c r) s
    let core := s1.core c
    some (s1.putCore { core with
      regions := (core.regions.filter fun r => r.owner != .handle t.at_ h) ++ [⟨b, n, .handle t.at_ h⟩] }, b)

/-- Frees the region of a handle. -/
def State.freeRegion (s : State) (t : Strand) (h : Nat) : State :=
  let core := s.core (coreOf t.at_)
  s.putCore { core with regions := core.regions.filter fun r => r.owner != .handle t.at_ h }

/-- The strand without the saved cells of a handle. -/
def Strand.forget (t : Strand) (h : Nat) : Strand := { t with spilled := t.spilled.filter fun p => p.1 != h }

/-- The handle word with another base. -/
def rebase (w b : Nat) : Nat := w / 2 ^ 15 * 2 ^ 15 + b

/-- Reloads the region of a handle whose cells were spilled, at the first instruction that names it (17 R322). -/
def State.ensureLoaded (s : State) (t : Strand) (h : Nat) : Except Trap (State × Strand) :=
  match t.spilled.find? fun p => p.1 == h with
  | none => .ok (s, t)
  | some (_, vals) =>
    match s.allocate t h vals.length with
    | none => .error (bounds 2)
    | some (s1, b) =>
      let core := s1.core (coreOf t.at_)
      .ok (s1.putCore { core with cells := cellSetRun core.cells b vals }, (t.setAcc h (rebase (t.racc h) b)).forget h)

/-! ## Outstanding operations (07 R145, R146) -/

/-- The most matrix operations of a strand that may be outstanding. -/
def matLimit : Nat := 32

/-- Whether an operation that names a handle is outstanding. -/
def Strand.busyHandle (t : Strand) (h : Nat) : Bool := t.ops.any fun o => o.handle == some h

/-- Whether another matrix operation must wait to issue. -/
def Strand.matFull (t : Strand) : Bool := matLimit ≤ t.ops.length

/-- Local cycles within which the partners of an MMAQ issue (07 R158). -/
def teamLimit : Nat := 2 ^ 20

/-- A matrix operation as it issues. -/
def Strand.newOp (t : Strand) (now : Nat) (kind : MatKind) (handle : Option Nat) (a b : Td) (ka kb : Word) (mode : MmaMode)
    (mask : BitVec 2048) : MatOp where
  id := t.nextOp
  kind := kind
  vpc := t.pc
  handle := handle
  a := a
  b := b
  ka := ka
  kb := kb
  mode := mode
  mask := mask
  fpctl := t.regs.fpctl
  due := now + teamLimit
  left := none
  join := t.epochJoin
  copy := none
  underItem := t.held.isSome
  lost := false
  begun := false
  progress := 0
  suspended := false
  poison := none
  vals := []

/-- The strand with one more outstanding operation. -/
def Strand.addOp (t : Strand) (o : MatOp) : Strand := { t with ops := t.ops ++ [o], nextOp := t.nextOp + 1 }

/-! ## Descriptors, scale registers and MZERO (07 R152, R153) -/

def execTdset (g : Guard) (d a : Nat) (f : TdField) (imm : Nat) (s : State) : Out :=
  gated (.tdset g d a f imm) s fun s t =>
    s.complete (t.setTd d ((t.rtd d).put f (BitVec.ofNat 64 (wrap64 (t.rn a + imm32s imm)))))

def execTdget (g : Guard) (d a : Nat) (f : TdField) (s : State) : Out :=
  gated (.tdget g d a f) s fun s t => s.complete (t.setS d ((t.rtd a).get f))

/-- What KSET writes. -/
def ksetValue (t : Strand) (a : Nat) (mode : KsetMode) (imm : Nat) : Nat :=
  let v := wrap64 (t.rn a + imm32s imm)
  match mode with
  | .raw => v
  | .uni => 2 ^ 62 + imm % 256
  | .addr sp => 2 ^ 63 + sp.code * 2 ^ 59 + v % 2 ^ 56

def execKset (g : Guard) (d a : Nat) (mode : KsetMode) (imm : Nat) (s : State) : Out :=
  gated (.kset g d a mode imm) s fun s t => s.complete (t.setK d (ksetValue t a mode imm))

/-- Rows and columns that a region may have. -/
def shapeOk (rows cols : Nat) : Bool := 1 ≤ rows && rows ≤ 128 && 1 ≤ cols && cols ≤ 192

/-- MZERO waits, as an instruction that does not issue, for earlier operations on its handle. -/
def execMzero (g : Guard) (d a b : Nat) (int : Bool) (s : State) : Out :=
  gated (.mzero g d a b int) s fun s t =>
    let rows := t.rn a
    let cols := t.rn b
    if t.busyHandle d then s.stall t .other
    else if rows == 0 && cols == 0 then
      (s.freeRegion t d).complete ((t.setAcc d (t.racc d % 2 ^ 63)).forget d)
    else if !shapeOk rows cols then s.trap t (bounds 3)
    else
      match s.allocate t d (rows * cols) with
      | none => s.trap t (bounds 2)
      | some (s1, base) =>
        let core := s1.core (coreOf t.at_)
        (s1.putCore { core with cells := cellSetRun core.cells base (List.replicate (rows * cols) 0) }).complete
          ((t.setAcc d (accWord true false int rows cols base)).forget d)

/-! ## MMA and MMAQ (07 R151, R154, R156 to R158) -/

/-- The longest K. -/
def kMax : Nat := 65536

/-- M, N and K of an operation. -/
def opM (a : Td) : Nat := a.rows.toNat
def opK (a : Td) : Nat := a.cols.toNat
def opN (b : Td) : Nat := b.cols.toNat

/-- The synchronous shape checks of MMA in table order: the code of the first that fails. -/
def mmaShape (w : Nat) (a b : Td) : Option Nat :=
  if !accValid w then some 1
  else if opM a == 0 || opN b == 0 || opK a == 0 || kMax < opK a then some 3
  else if opK a != b.rows.toNat then some 4
  else if accRows w < opM a || accCols w < opN b then some 5
  else if accInt w != (a.fmt == .int8) then some 6
  else none

/-- The row mask: the bits of the guard as the predicate stores them (07 R154). -/
def Strand.rowMask (t : Strand) (g : Guard) : BitVec 2048 :=
  let m := BitVec.ofNat 2048 (t.rp g.reg)
  if g.neg then ~~~m else m

/-- The shape checks of an MMA, after a reload of its handle: the state and strand to go on with. -/
def State.mmaReady (s : State) (t : Strand) (h : Nat) (a b : Td) : Except Trap (State × Strand) :=
  match mmaShape (t.racc h) a b with
  | some c => .error (bounds c)
  | none => s.ensureLoaded t h

def execMma (x : MmaForm) (s : State) : Out :=
  released (.mma x) s fun s t =>
    let a := t.rtd x.a
    let b := t.rtd x.b
    if t.matFull then s.stall t .other
    else
      match s.mmaReady t x.d a b with
      | .error e => s.trap t e
      | .ok (s1, t1) =>
        s1.complete (t1.addOp (t1.newOp (s.now t.at_) .mma (some x.d) a b (t.rk x.ka) (t.rk x.kb) x.mode (t.rowMask x.g)))

/-- First row and column of member `c` of a team. -/
def memberRow (c : Nat) : Nat := 128 * (c / 2)
def memberCol (c : Nat) : Nat := 192 * (c % 2)

/-- The rows and columns of a member's portion. -/
def portionRows (m c : Nat) : Nat := min 128 (m - memberRow c)
def portionCols (n c : Nat) : Nat := min 192 (n - memberCol c)

/-- The members with a portion that is not empty, as a mask. -/
def neededMembers (m n : Nat) : Nat := bitsOf 4 fun c => portionRows m c != 0 && portionCols n c != 0

/-- The checks of MMAQ in table order. -/
def mmaqShape (w : Nat) (a b : Td) (qm c : Nat) : Option Nat :=
  let m := opM a
  let n := opN b
  if !accValid w then some 1
  else if m == 0 || n == 0 || opK a == 0 || kMax < opK a || 256 < m || 384 < n then some 3
  else if opK a != b.rows.toNat then some 4
  else if accRows w < portionRows m c || accCols w < portionCols n c then some 5
  else if accInt w != (a.fmt == .int8) then some 6
  else if qm != neededMembers m n || !bitAt qm c then some 7
  else none

/-- How many MMAQs with a member mask the strand has issued. -/
def Strand.mmaqCount (t : Strand) (qm : Nat) : Nat := assocD t.mmaqCounts qm 0

/-- The operation of a strand with a number. -/
def Strand.op? (t : Strand) (id : Nat) : Option MatOp := t.ops.find? fun o => o.id == id

/-- Replaces an operation of a strand. -/
def Strand.putOp (t : Strand) (o : MatOp) : Strand := { t with ops := t.ops.map fun x => if x.id == o.id then o else x }

/-- The MMAQ of a strand that carries a team's number. -/
def Strand.teamOp (t : Strand) (qm n : Nat) : Option MatOp := t.ops.find? fun o => o.kind == .mmaq qm n

/-- The strands and operations that move together: one, or a team. -/
def State.party (s : State) (t : Strand) (o : MatOp) : List (Strand × MatOp) :=
  match o.kind with
  | .mmaq qm n => (teamSlots t.at_ qm).filterMap fun i =>
      (s.strand? i).bind fun u => (u.teamOp qm n).map fun p => (u, p)
  | _ => [(t, o)]

/-- Whether the partners of an MMAQ have let its time pass. -/
def State.teamLate (s : State) (t : Strand) (o : MatOp) : Bool :=
  !o.begun && o.poison.isNone && o.left.isNone && decide (o.due < s.now t.at_)

/-- Dissolves the operation of a team: each member that has issued it completes poisoned with cause 7 in its turn, and the
others find it dissolved when they issue (07 R158). -/
def State.dissolve (s : State) (t : Strand) (o : MatOp) : State :=
  match o.kind with
  | .mmaq qm n =>
    let team := s.party t o
    let missing := (teamSlots t.at_ qm).filter fun i => !team.any fun m => m.1.at_ == i
    let s1 := team.foldl (fun s m => s.putStrand (m.1.putOp { m.2 with poison := some 7 })) s
    missing.foldl (fun s i => match s.strand? i with
      | some u => s.putStrand { u with dissolved := u.dissolved ++ [(qm, n)] }
      | none => s) s1
  | _ => s

/-- Dissolves an MMAQ that has just issued when a partner has waited too long for it. -/
def State.dissolveLate (s : State) (t : Strand) (o : MatOp) : State :=
  if (s.party t o).any fun m => s.teamLate m.1 m.2 then s.dissolve t o else s

def execMmaq (x : MmaForm) (qm : Nat) (s : State) : Out :=
  released (.mmaq x qm) s fun s t =>
    let a := t.rtd x.a
    let b := t.rtd x.b
    if t.matFull then s.stall t .other
    else
      match mmaqShape (t.racc x.d) a b qm (t.at_.core % 4) with
      | some c => s.trap t (bounds c)
      | none =>
        match s.ensureLoaded t x.d with
        | .error e => s.trap t e
        | .ok (s1, t1) =>
          let n := t1.mmaqCount qm + 1
          let o := t1.newOp (s.now t.at_) (.mmaq qm n) (some x.d) a b (t.rk x.ka) (t.rk x.kb) x.mode (t.rowMask x.g)
          let o1 := o.settleTime (s.now t.at_) (s.teamHeld t qm)
          let o2 := if t1.dissolved.contains (qm, n) then { o1 with poison := some 7 } else o1
          let t2 := { t1.addOp o2 with mmaqCounts := assocSet t1.mmaqCounts qm n }
          (s1.complete t2).dissolveLate t2.finish o2

/-! ## MACCLD, MACCST, MACCV and MCODE (07 R163, R164) -/

/-- MACCLD: the synchronous part allocates; the cells of the region stand at +0 until their line is read. The checks are made in
the order of their codes: room before shape (07 R151). -/
def execMaccld (g : Guard) (d a : Nat) (s : State) : Out :=
  released (.maccld g d a) s fun s t =>
    let td := t.rtd a
    let rows := td.rows.toNat
    let cols := td.cols.toNat
    if t.busyHandle d || t.matFull then s.stall t .other
    else
      match s.allocate t d (rows * cols) with
      | none => s.trap t (bounds 2)
      | some (s1, base) =>
        if !shapeOk rows cols then s.trap t (bounds 3)
        else
        let core := s1.core (coreOf t.at_)
        let s2 := s1.putCore { core with cells := cellSetRun core.cells base (List.replicate (rows * cols) 0) }
        let t1 := (t.setAcc d (accWord true false (td.fmt == .int32) rows cols base)).forget d
        s2.complete (t1.addOp (t1.newOp (s.now t.at_) .maccld (some d) td Td.reset 0 0 .acc 0))

/-- Bytes of an element of a format (07 R149). -/
def elemBytes : ElemFmt → Nat
  | .fp32 | .int32 => 4
  | .bf16 | .fp16 => 2
  | .e4m3 | .e5m2 | .mxfp8 | .mxfp8e5 | .int8 | .vq2x => 1

/-- Whether a format has scale bytes. -/
def isMx (f : ElemFmt) : Bool := f == .mxfp8 || f == .mxfp8e5

/-- Scale bytes of a line of `n` elements. -/
def blocksOf (n : Nat) : Nat := (n + 31) / 32

/-- Where row `i` of a destination begins, and its scale bytes. -/
def rowAddr (d : Td) (i : Nat) : Nat := (d.base.toNat + i * d.stride.toNat) % 2 ^ 64
def rowScaleAddr (d : Td) (i : Nat) : Nat := (d.scalebase.toNat + i * blocksOf d.stride.toNat) % 2 ^ 64

/-- Sectors that MACCST reserves for row `i`. -/
def rowSectors (d : Td) (i : Nat) : Nat :=
  spanSectors (rowAddr d i) (d.cols.toNat * elemBytes d.fmt) +
    (if isMx d.fmt then spanSectors (rowScaleAddr d i) (blocksOf d.cols.toNat) else 0)

/-- Sectors of the rows from `i` on. -/
def stSectors (d : Td) (i : Nat) : Nat := (((List.range d.rows.toNat).drop i).map (rowSectors d)).foldl (· + ·) 0

def execMaccst (g : Guard) (d a : Nat) (relu : Bool) (fmt : ElemFmt) (s : State) : Out :=
  released (.maccst g d a relu fmt) s fun s t =>
    let td := t.rtd d
    let w := t.racc a
    if t.matFull then s.stall t .other
    else if !accValid w then s.trap t (bounds 1)
    else if accRows w < td.rows.toNat || accCols w < td.cols.toNat then s.trap t (bounds 5)
    else
      match if loggedSpace td.space then t.reserve (stSectors td 0) else .ok t with
      | .error e => s.trap t e
      | .ok t0 =>
        match s.ensureLoaded t0 a with
        | .error e => s.trap t e
        | .ok (s1, t1) =>
          s1.complete (t1.addOp (t1.newOp (s.now t.at_) (.maccst relu fmt) (some a) td Td.reset 0 0 .acc 0))

/-- What MACCV gives element `i`: the cell, or 0 beyond the columns. -/
def maccvElem (t : Strand) (cells : List (Nat × Nat)) (w row : Nat) (bf : Bool) (i : Nat) : Nat × Nat :=
  if i < accCols w then
    let c := cellGet cells (accBase w + row * accCols w + i)
    if bf then bf16.round t.rm false (fp32.read c) else (c, 0)
  else (0, 0)

def execMaccv (g : Guard) (d a b : Nat) (tp mp bf : Bool) (s : State) : Out :=
  gated (.maccv g d a b tp mp bf) s fun s t =>
    let w := t.racc a
    let row := t.rn b
    if t.busyHandle a then s.stall t .other
    else if !accValid w then s.trap t (bounds 1)
    else if accRows w ≤ row then s.trap t (bounds 5)
    else if bf && accInt w then s.trap t (bounds 6)
    else
      match s.ensureLoaded t a with
      | .error e => s.trap t e
      | .ok (s1, t1) =>
        s1.complete (t1.elementwise g d t1.ew tp mp (maccvElem t1 (s1.core (coreOf t.at_)).cells (t1.racc a) row bf))

def execMcode (g : Guard) (a : Nat) (sp : Space) (s : State) : Out :=
  released (.mcode g a sp) s fun s t =>
    if t.matFull then s.stall t .other
    else s.complete (t.addOp (t.newOp (s.now t.at_) (.mcode sp (t.rn a)) none Td.reset Td.reset 0 0 .acc 0))

/-! ## MWAIT and MSTAT (07 R165) -/

/-- What MWAIT writes as it completes. -/
def Strand.mwaitDone (t : Strand) (d : Nat) : Strand :=
  if d == 0 then t else { t.writePred d (!t.mx.poison) .set with mx := { t.mx with poison := false } }

def execMwait (g : Guard) (d a : Nat) (s : State) : Out :=
  gated (.mwait g d a) s fun s t =>
    if t.ops.length ≤ t.rn a then s.complete (t.mwaitDone d) else s.waitIn t (.mwait d (t.rn a) (s.now t.at_))

/-- MWAIT_COMPLETE. -/
def execMwaitComplete (slot : SlotId) (s : State) : Out :=
  match s.strand? slot with
  | none => .next s
  | some t =>
    match t.wait with
    | some (.mwait d limit _) =>
      if t.frame.isNone && t.phase == .live && !s.engineHalted t && t.ops.length ≤ limit then .next (s.finishWait (t.mwaitDone d))
      else .next s
    | _ => .next s

/-- The matrix status word. -/
def mxStatusWord (t : Strand) : Nat :=
  t.mx.lastCause * 2 ^ 40 + t.ops.length * 2 ^ 16 + boolNat t.mx.poison * 2 ^ 7 + t.mx.flags

def execMstat (g : Guard) (d a : Nat) (st clr : Bool) (s : State) : Out :=
  gated (.mstat g d a st clr) s fun s t =>
    if st then
      let t1 := t.setN d (mxStatusWord t)
      s.complete (if clr then { t1 with mx := { t1.mx with flags := 0, lastCause := 0 } } else t1)
    else if t.busyHandle a then s.stall t .other
    else if !accValid (t.racc a) then s.trap t (bounds 1)
    else
      match s.ensureLoaded t a with
      | .error e => s.trap t e
      | .ok (s1, t1) => s1.complete (t1.setN d (t1.racc a))

end Sys2Proof.Machine
end

