-- ==== Sys2Proof/Machine/MatrixEngine.lean ====
section
/-! DEFINITION. The matrix engine beside the strands: when an operation begins, its units, its suspension and its completion
(07 R146 to R167; 02 R44 to R50). -/

namespace Sys2Proof.Machine

/-! ## Operand tiles in memory (07 R149, R150) -/

/-- Whether the elements of a line lie next to each other. -/
def contiguousA (d : Td) : Bool := !d.transpose
def contiguousB (d : Td) : Bool := d.transpose

/-- The positions of K block `b` below K. -/
def blockLen (k b : Nat) : Nat := min 32 (k - 32 * b)

/-- A run at an address that wraps at 64 bits. -/
def runAt (sp : Space) (addr len : Nat) : Run := ⟨sp, addr % 2 ^ 64, len⟩

/-- The element bytes of block `b` of `nl` lines, as runs in the order in which they are read. -/
def elemRuns (d : Td) (contig : Bool) (nl k b : Nat) : List Run :=
  let base := d.base.toNat
  let stride := d.stride.toNat
  let n := blockLen k b
  if d.fmt == .vq2x then (List.range nl).map fun l => runAt d.space (base + b * stride + 8 * l) 8
  else
    let z := elemBytes d.fmt
    if contig then (List.range nl).map fun l => runAt d.space (base + l * stride + 32 * b * z) (n * z)
    else (List.range n).map fun i => runAt d.space (base + (32 * b + i) * stride) (nl * z)

/-- The scale byte of line `l` and block `b`. -/
def scaleOffset (d : Td) (contig : Bool) (l b : Nat) : Nat :=
  let stride := d.stride.toNat
  if d.fmt == .vq2x then b * (stride / 8) + l
  else if contig then l * blocksOf stride + b
  else b * stride + l

/-- Whether an operand reads scale bytes at all. -/
def hasScales (f : ElemFmt) : Bool := isMx f || f == .vq2x

/-- The scale bytes of block `b` of `nl` lines, by the KIND of the scale register. -/
def scaleRuns (d : Td) (k : Word) (contig : Bool) (nl b : Nat) : List Run :=
  if !hasScales d.fmt || field k.toNat 62 2 == 1 then []
  else
    let kind2 := field k.toNat 62 2 == 2
    let sp := if kind2 then (Space.of? (field k.toNat 59 3)).getD .g else d.space
    let sb := if kind2 then field k.toNat 0 56 else d.scalebase.toNat
    (List.range nl).map fun l => runAt sp (sb + scaleOffset d contig l b) 1

/-- A little-endian number. -/
def leNum (l : List Nat) : Nat := l.foldr (fun b a => b % 256 + 256 * a) 0

/-- `n` little-endian numbers of `z` bytes. -/
def leGroups (z : Nat) : Nat → List Nat → List Nat
  | 0, _ => []
  | n + 1, l => leNum (l.take z) :: leGroups z n (l.drop z)

/-! ## VQ2X (02 R44 to R47) -/

/-- A byte of a codebook image. -/
def cbByte (cb : List Byte) (i : Nat) : Nat := (nth cb i 0).toNat

/-- Sign `j` of an index: a bit of it, or the parity of the others with that of the entry. -/
def vqSign (cb : List Byte) (idx j : Nat) : Bool :=
  if j < 7 then bitAt idx (1 + j)
  else (List.range 7).foldl (fun a k => a != bitAt idx (1 + k)) (bitAt (cbByte cb (16 + 9 * (idx / 256 % 256) + 8)) 0)

/-- Weight `j` of an index, before its block scale. -/
def decodeVq2x (cb : List Byte) (idx j : Nat) : FVal :=
  let m := fe4m3.read (cbByte cb (16 + 9 * (idx / 256 % 256) + j) % 128)
  let delta := fe4m3.read (cbByte cb 0)
  let h := bitAt idx 0
  if m.isNan || (h && delta.isNan) then .nan false
  else
    let x := if vqSign cb idx j then m.negate else m
    if h then (exactAdd .rne x delta).1 else x

/-- Bytes of a codebook image. -/
def imageBytes : Nat := 2320

/-- Whether MCODE accepts an image (02 R46). -/
def imageOk (img : List Nat) : Bool :=
  nth img 1 0 == 1 && ((img.drop 2).take 14).all (· == 0) &&
    (List.range 256).all fun e => nth img (16 + 9 * e + 8) 0 / 2 == 0

/-! ## Decoded lines -/

/-- An element of a plain or MX format, before its block scale. -/
def elemVal (f : ElemFmt) (x : Nat) : FVal :=
  match f with
  | .bf16 => bf16.read x
  | .mxfp8 => fe4m3.read x
  | .mxfp8e5 => fe5m2.read x
  | _ => cvtRead .i8 x

/-- The elements of each of `nl` lines in block `b`, from the runs of `elemRuns`. -/
def blockLines (d : Td) (contig : Bool) (cb : List Byte) (nl k b : Nat) (runs : List RunData) : List (List FVal) :=
  let n := blockLen k b
  if d.fmt == .vq2x then
    runs.map fun r =>
      let idx := leGroups 2 4 r.bytes
      (List.range n).map fun i => decodeVq2x cb (nth idx (i / 8) 0) (i % 8)
  else
    let z := elemBytes d.fmt
    if contig then runs.map fun r => (leGroups z n r.bytes).map (elemVal d.fmt)
    else
      let rows := runs.map fun r => (leGroups z nl r.bytes).map (elemVal d.fmt)
      (List.range nl).map fun l => rows.map fun r => nth r l (.fin false 0 0)

/-- The scales of each line in a block: 127 where the format has none. -/
def blockScales (d : Td) (k : Word) (nl : Nat) (runs : List RunData) : List Nat :=
  if !hasScales d.fmt then List.replicate nl 127
  else if field k.toNat 62 2 == 1 then List.replicate nl (field k.toNat 0 8)
  else runs.map fun r => nth r.bytes 0 0

/-! ## One block of one cell (02 R48, R49) -/

/-- The exact block sum with the flags of its products: +0 stands beyond K. It raises NV for a product of infinity and zero, for
infinite products of both signs and for a signalling NaN, as they come in the order of the products; a quiet NaN that comes before
keeps a later pair of infinities from raising it (DEDUCED, log entry 41). -/
def blockSum (a b : List FVal) (short : Bool) : FVal × Nat :=
  (a.zip b).foldl (fun acc p =>
    let (x, f1) := exactMul p.1 p.2
    let (y, f2) := exactAdd .rne acc.1 x
    (y, acc.2 ||| f1 ||| f2)) (.fin (!short) 0 0, 0)

/-- A finite value times a power of two. -/
def FVal.scale (v : FVal) (e : Int) : FVal :=
  match v with
  | .fin n m x => .fin n m (x + e)
  | v => v

/-- The cell after one block of floating-point operands. -/
def fpCell (mode : MmaMode) (c : Nat) (a b : List FVal) (short : Bool) (xa xb : Nat) : Nat × Nat :=
  let (sum, f1) := if xa == 255 || xb == 255 then (.nan false, 0) else blockSum a b short
  let scaled := sum.scale ((xa + xb : Nat) - 254)
  let (y, f2) := exactAdd .rne (fp32.read c) (if mode == .acn then scaled.negate else scaled)
  let (r, f3) := fp32.round .rne false y
  (r, f1 ||| f2 ||| f3)

/-- The integer of a decoded INT8 element. -/
def FVal.toInteger : FVal → Int
  | .fin n m e => atExp n m e 0
  | _ => 0

/-- The cell after one block of INT8 operands. -/
def intCell (mode : MmaMode) (c : Nat) (a b : List FVal) : Nat :=
  let sum := (a.zip b).foldl (fun (acc : Int) p => acc + p.1.toInteger * p.2.toInteger) 0
  wrapTo 32 (if mode == .acn then (c : Int) - sum else (c : Int) + sum)

/-! ## Who takes part in an operation -/


/-- Whether the matrix work of a strand may move: neither its stage nor its core is stopped. -/
def State.mayMove (s : State) (t : Strand) : Bool := t.phase == .live && !s.engineHalted t

/-- Whether operations that have not begun are held until TRET (07 R160). -/
def Strand.heldBack (t : Strand) : Bool :=
  (match t.frame with | some f => f.mprog.isSome | none => false) || t.pending.any Susp.matrix

/-- Whether an operation multiplies. -/
def MatOp.isMma (o : MatOp) : Bool := match o.kind with | .mma | .mmaq .. => true | _ => false
def MatOp.isMcode (o : MatOp) : Bool := match o.kind with | .mcode .. => true | _ => false
def MatOp.isSt (o : MatOp) : Bool := match o.kind with | .maccst .. => true | _ => false

/-- Whether an operation decodes VQ2X weights. -/
def MatOp.usesCodebook (o : MatOp) : Bool := o.isMma && o.b.fmt == .vq2x

/-- The join an operation waits for. -/
def State.joinOf (s : State) (t : Strand) (o : MatOp) : Option Join :=
  o.join.bind fun n => (s.core (coreOf t.at_)).joins.find? fun j => j.id == n

/-- Whether an operation may begin: the order of R146, its join, its copy, and no hold (07 R146, R160; 09 R185, R187). -/
def State.mayBegin (s : State) (t : Strand) (o : MatOp) : Bool :=
  let before := t.ops.takeWhile fun x => x.id != o.id
  !o.begun && s.mayMove t && !t.heldBack && o.copy.isNone &&
    !before.any (fun x => (o.handle.isSome && x.handle == o.handle) || (o.isMma && x.isMcode)) &&
    (match s.joinOf t o with | some j => j.done | none => true)

/-- The cause with which an operation starts poisoned (07 R166). -/
def State.startPoison (s : State) (t : Strand) (o : MatOp) : Option Nat :=
  let core := s.core (coreOf t.at_)
  if o.poison.isSome then o.poison
  else if (match s.joinOf t o with | some j => j.failed | none => false) then some 2
  else if (o.isMma || o.isSt) && (o.handle.any fun h => accPoison (t.racc h)) then some 3
  else if o.usesCodebook && (core.codebook.isEmpty || core.codeOwner != some t.inst) then some 4
  else none

/-! ## Beginning -/

/-- Applies a change to a strand of the device and one of its operations. -/
def State.mapOp (s : State) (i : SlotId) (id : Nat) (f : Strand → MatOp → State) : State :=
  match s.strand? i with
  | none => s
  | some t => match t.op? id with
    | none => s
    | some o => f t o

/-- Whether an operation begins without partners: a single one, or a dissolved MMAQ. -/
def MatOp.alone (o : MatOp) : Bool := match o.kind with | .mmaq .. => o.poison.isSome | _ => true

/-- MATRIX_OP_BEGIN. A team begins by MMAQ_TEAM_START; a dissolved MMAQ begins poisoned, in its order. -/
def execMatrixOpBegin (slot : SlotId) (op : Nat) (s : State) : Out :=
  .next (s.mapOp slot op fun t o =>
    if o.alone && s.mayBegin t o then s.putStrand (t.putOp { o with begun := true, poison := s.startPoison t o }) else s)

/-- Whether two members captured the same operation (07 R158). -/
def MatOp.agrees (o p : MatOp) : Bool := o.a == p.a && o.b == p.b && o.ka == p.ka && o.kb == p.kb && o.mode == p.mode

/-- MMAQ_TEAM_START: every member has issued in time and may begin. -/
def execMmaqTeamStart (slot : SlotId) (op : Nat) (s : State) : Out :=
  .next (s.mapOp slot op fun t o =>
    match o.kind with
    | .mmaq qm _ =>
      let team := s.party t o
      if team.length == (teamSlots t.at_ qm).length && team.all (fun m => m.2.poison.isNone && s.mayBegin m.1 m.2) then
        let agree := team.all fun m => o.agrees m.2
        team.foldl (fun s m =>
          s.putStrand (m.1.putOp { m.2 with begun := true, poison := if agree then s.startPoison m.1 m.2 else some 6 })) s
      else s
    | _ => s)

/-- MMAQ_TEAM_TIMEOUT: partners are missing after 2^20 cycles; members that issue later find the operation dissolved. -/
def execMmaqTeamTimeout (slot : SlotId) (op : Nat) (s : State) : Out :=
  .next (s.mapOp slot op fun t o =>
    match o.kind with
    | .mmaq qm _ =>
      if s.teamLate t o && (s.party t o).length != (teamSlots t.at_ qm).length then s.dissolve t o else s
    | _ => s)

/-! ## Units (07 R154, R159, R163, R164) -/

/-- Bytes of a line of a codebook image. -/
def imageLine : Nat := 64

/-- The units of an operation: K blocks, rows, or lines of the image. -/
def MatOp.units (o : MatOp) : Nat :=
  match o.kind with
  | .mma | .mmaq .. => blocksOf (opK o.a)
  | .maccld | .maccst .. => o.a.rows.toNat
  | .mcode .. => (imageBytes + imageLine - 1) / imageLine

/-- What a unit comes to. -/
inductive UnitOut
  | next (s : State) | stop (s : State) (x : EngineStop)

/-- The strand and operation as they stand now. -/
def State.again (s : State) (m : Strand × MatOp) : Strand × MatOp :=
  match s.strand? m.1.at_ with
  | some t => (t, (t.op? m.2.id).getD m.2)
  | none => m

/-- Marks the next unit done. -/
def MatOp.advance (o : MatOp) : MatOp := { o with progress := o.progress + 1 }

/-- A strand with matrix flags raised (07 R165). -/
def Strand.orMx (t : Strand) (fl : Nat) : Strand := { t with mx := { t.mx with flags := t.mx.flags ||| fl } }

/-- One block on one member: rows `r0` on and columns `c0` on of the result, as far as its portion goes. -/
def State.blockOn (s : State) (m : Strand × MatOp) (r0 c0 rows cols : Nat) (av bv : List (List FVal)) (xa xb : List Nat) :
    State :=
  let (t, o) := s.again m
  let w := t.racc (o.handle.getD 0)
  let core := s.core (coreOf t.at_)
  let short := blockLen (opK o.a) o.progress < 32
  let cell := fun (acc : List (Nat × Nat) × Nat) (i j : Nat) =>
    let at_ := accBase w + i * accCols w + j
    let c := if o.mode == .ovw && o.progress == 0 then 0 else cellGet acc.1 at_
    let a := nth av (r0 + i) []
    let b := nth bv (c0 + j) []
    if accInt w then (cellSet acc.1 at_ (intCell o.mode c a b), acc.2)
    else
      let (v, fl) := fpCell o.mode c a b short (nth xa (r0 + i) 127) (nth xb (c0 + j) 127)
      (cellSet acc.1 at_ v, acc.2 ||| fl)
  let active := (List.range rows).filter fun i => bitAt o.mask.toNat i
  let (cells, fl) := active.foldl (fun acc i => (List.range cols).foldl (fun acc j => cell acc i j) acc) (core.cells, 0)
  (s.putCore { core with cells := cells }).putStrand ((t.putOp o.advance).orMx fl)

/-- The rows and columns that a member computes: where they begin and how many there are. -/
def MatOp.portion (o : MatOp) (t : Strand) : Nat × Nat × Nat × Nat :=
  match o.kind with
  | .mmaq .. =>
    let c := t.at_.core % 4
    (memberRow c, memberCol c, portionRows (opM o.a) c, portionCols (opN o.b) c)
  | _ => (0, 0, opM o.a, opN o.b)

/-- Poisons every member. -/
def State.poisonAll (s : State) (team : List (Strand × MatOp)) (cause : Nat) : State :=
  team.foldl (fun s m => let (t, o) := s.again m; s.putStrand (t.putOp { o with poison := some cause })) s

/-- One K block of an MMA or of a team: the operands are read once, for the first member. -/
def mmaUnit (s : State) (team : List (Strand × MatOp)) (t : Strand) (o : MatOp) (far : List FarLine) : UnitOut :=
  let b := o.progress
  let k := opK o.a
  let ca := contiguousA o.a
  let cb := contiguousB o.b
  let read := fun (s : State) (d : Td) (l : List Run) => readRuns t.party (d.device.toNat % 2048) far .policy l s
  match read s o.a (elemRuns o.a ca (opM o.a) k b ++ scaleRuns o.a o.ka ca (opM o.a) b) with
  | (s1, .error x) => .stop s1 x
  | (s1, .ok da) =>
    match read s1 o.b (elemRuns o.b cb (opN o.b) k b ++ scaleRuns o.b o.kb cb (opN o.b) b) with
    | (s2, .error x) => .stop s2 x
    | (s2, .ok db) =>
      if (da ++ db).any RunData.poisoned then .next (s2.poisonAll team 1)
      else
        let na := (elemRuns o.a ca (opM o.a) k b).length
        let nb := (elemRuns o.b cb (opN o.b) k b).length
        let xa := blockScales o.a o.ka (opM o.a) (da.drop na)
        let xb := blockScales o.b o.kb (opN o.b) (db.drop nb)
        .next (team.foldl (fun s m =>
          let book := (s.core (coreOf m.1.at_)).codebook
          let av := blockLines o.a ca book (opM o.a) k b (da.take na)
          let bv := blockLines o.b cb book (opN o.b) k b (db.take nb)
          let (r0, c0, rows, cols) := m.2.portion m.1
          s.blockOn m r0 c0 rows cols av bv xa xb) s2)

/-- A source element of MACCLD as a cell, with its flags: BF16 is converted to FP32 (02 R39). -/
def ldCell (f : ElemFmt) (v : Nat) : Nat × Nat := if f == .bf16 then convert .bf16 .f32 .rne false v else (v, 0)

/-- One row of MACCLD: a poisoned line leaves its cells at +0 and is noted. -/
def ldUnit (s : State) (t : Strand) (o : MatOp) (far : List FarLine) : UnitOut :=
  let i := o.progress
  let z := elemBytes o.a.fmt
  let cols := o.a.cols.toNat
  match readRun s t.party (o.a.device.toNat % 2048) far .never (runAt o.a.space (rowAddr o.a i) (cols * z)) with
  | (s1, .error x) => .stop s1 x
  | (s1, .ok d) =>
    if d.poisoned then .next (s1.putStrand (t.putOp { o.advance with vals := [1] }))
    else
      let w := t.racc (o.handle.getD 0)
      let vals := (leGroups z cols d.bytes).map (ldCell o.a.fmt)
      let core := s1.core (coreOf t.at_)
      .next ((s1.putCore { core with cells := cellSetRun core.cells (accBase w + i * accCols w) (vals.map (·.1)) }).putStrand
        ((t.putOp o.advance).orMx (vals.foldl (fun a v => a ||| v.2) 0)))

/-- The activation of MACCST. -/
def activate (relu int : Bool) (c : Nat) : Nat :=
  if !relu then c
  else if int then (if 0 < signedOf c 32 then c else 0)
  else match fp32.read c with
    | .nan _ => c
    | .inf n => if n then 0 else c
    | .fin n m _ => if n || m == 0 then 0 else c

/-- The conversion type of a destination format. -/
def cvtOf : ElemFmt → CvtType
  | .fp32 => .f32 | .bf16 => .bf16 | .fp16 => .f16 | .e4m3 => .e4m3 | .e5m2 => .e5m2 | .int8 => .i8 | .int32 => .i32
  | .mxfp8 | .mxfp8e5 | .vq2x => .e4m3

/-- A row of cells as element bytes, scale bytes and flags. A row in FP32 of FP32 cells is a conversion too: a NaN becomes the
canonical one, and a signalling NaN raises NV (log entry 52). -/
def encodeRow (fmt : ElemFmt) (int : Bool) (fpctl : Word) (cells : List Nat) : List Nat × List Nat × Nat :=
  let rm := RMode.ofCode (field fpctl.toNat 0 3)
  let sat := bitAt fpctl.toNat 3
  let src : CvtType := if int then .i32 else .f32
  if isMx fmt then
    let f := if fmt == .mxfp8 then fe4m3 else fe5m2
    let blocks := (List.range (blocksOf cells.length)).map fun b =>
      let part := (cells.drop (32 * b)).take 32
      let q := quantiseMx f rm sat ((part.map fun c => some (cvtRead src c)) ++ List.replicate (32 - part.length) none)
      (q.1, q.2.1.take part.length, q.2.2)
    (blocks.flatMap (fun q => q.2.1), blocks.map (·.1), blocks.foldl (fun a q => a ||| q.2.2) 0)
  else
    let rs := cells.map fun c => convert src (cvtOf fmt) rm sat c
    (rs.flatMap (fun r => toNats (leBytes (elemBytes fmt) r.1)), [], rs.foldl (fun a r => a ||| r.2) 0)

/-- One row of MACCST: every byte is checked before any is written. -/
def stUnit (s : State) (t : Strand) (o : MatOp) (relu : Bool) (fmt : ElemFmt) (far : List FarLine) : UnitOut :=
  let i := o.progress
  let w := t.racc (o.handle.getD 0)
  let core := s.core (coreOf t.at_)
  let cells := (cellRun core.cells (accBase w + i * accCols w) o.a.cols.toNat).map (activate relu (accInt w))
  let (elems, scales, fl) := encodeRow fmt (accInt w) o.fpctl cells
  let runs := [⟨o.a.space, rowAddr o.a i, elems⟩] ++ (if scales.isEmpty then [] else [⟨o.a.space, rowScaleAddr o.a i, scales⟩])
  let dev := o.a.device.toNat % 2048
  match checkWrites t.party dev (if o.underItem then none else some far) false runs s with
  | (s1, .error x) => .stop s1 x
  | (s1, .ok l) =>
    let s2 := s1.putStrand ((t.putOp o.advance).orMx fl)
    .next (s2.engineWrite t.at_ t.world dev o.underItem o.lost l)

/-- One line of a codebook image. -/
def mcodeUnit (s : State) (t : Strand) (o : MatOp) (sp : Space) (addr : Nat) : UnitOut :=
  let from_ := imageLine * o.progress
  match readRun s t.party 0 [] .policy (runAt sp (addr + from_) (min imageLine (imageBytes - from_))) with
  | (s1, .error x) => .stop s1 x
  | (s1, .ok d) =>
    if d.poisoned then .next (s1.putStrand (t.putOp { o with poison := some 1 }))
    else .next (s1.putStrand (t.putOp { o.advance with vals := o.vals ++ d.bytes }))

/-- Whether the next unit of an operation may be tried. -/
def State.unitReady (s : State) (t : Strand) (o : MatOp) : Bool :=
  (s.party t o).all fun m => m.2.begun && !m.2.suspended && m.2.poison.isNone && s.mayMove m.1 && o.progress < o.units

/-- A spilled region of an operation is back before its next unit (17 R322). -/
def State.reloadFor (s : State) (team : List (Strand × MatOp)) : Option State :=
  team.foldl (fun acc m => acc.bind fun s =>
    let (t, o) := s.again m
    match o.handle with
    | none => some s
    | some h => match s.ensureLoaded t h with
      | .ok (s1, t1) => some (s1.putStrand t1)
      | .error _ => none) (some s)

/-- The next unit of an operation. -/
def State.tryUnit (s : State) (t0 : Strand) (o0 : MatOp) (far : List FarLine) : UnitOut :=
  match s.reloadFor ((s.party t0 o0).filter fun m => m.2.poison.isNone) with
  | none => .stop s .waiting
  | some s1 =>
    let (t, o) := s1.again (t0, o0)
    match o.kind with
    | .mma => mmaUnit s1 [(t, o)] t o far
    | .mmaq .. =>
      let team := (s1.party t o).filter fun m => m.2.poison.isNone
      match team with
      | [] => .stop s1 .waiting
      | m :: _ => mmaUnit s1 team m.1 m.2 far
    | .maccld => ldUnit s1 t o far
    | .maccst relu fmt => stUnit s1 t o relu fmt far
    | .mcode sp addr => mcodeUnit s1 t o sp addr

/-- Members of a team that started poisoned take no part in its units. -/
def State.teamReady (s : State) (t : Strand) (o : MatOp) : Bool :=
  match o.kind with
  | .mmaq .. =>
    let team := s.party t o
    o.begun && o.poison.isNone && decide (o.progress < o.units) &&
      team.all fun m => m.2.poison.isSome || (m.2.begun && !m.2.suspended && s.mayMove m.1)
  | _ => s.unitReady t o

/-- The paths of an operation's operands on other devices. -/
def State.opPaths (s : State) (t : Strand) (o : MatOp) : State :=
  let far := fun (s : State) (d : Td) => if d.space == .d then s.usePath t.launch (d.device.toNat % 2048) else s
  far (far s o.a) o.b

/-- One unit of a matrix operation; nothing where it may not move or must suspend. -/
def State.unitStep (s : State) (slot : SlotId) (op : Nat) (far : List FarLine) : State :=
  s.mapOp slot op fun t o =>
    if s.teamReady t o then match s.tryUnit t o far with
      | .next s1 => s1.opPaths t o
      | .stop .. => s
    else s

/-! ## Suspension (07 R160, R161) -/

/-- What a suspension's information word keeps of the trap: the walk word of PAGE and PERM (17 R316) and what R93 gives for
REMOTE. -/
def suspInfo (x : Trap) : Nat :=
  if x.cause == causeRemote || x.cause == causePage || x.cause == causePerm then x.info else 0

/-- The information word of a suspended matrix operation: bit 31, the handle, and that of its cause. -/
def matInfo (h : Nat) (x : Trap) : Nat := 2 ^ 31 + h * 2 ^ 16 + suspInfo x

/-- The trap of an engine's stop, if it stops the operation. -/
def EngineStop.trap? : EngineStop → Option Trap
  | .trap x => some x
  | .refused va cause => some (remoteTrap va cause)
  | .waiting => none

/-- Suspends one operation of a strand at its first unfinished unit. -/
def State.suspendOp (s : State) (m : Strand × MatOp) (x : Trap) : State :=
  let (t, o) := s.again m
  let h := o.owner
  (s.putStrand (t.putOp { o with suspended := true })).suspend (t.putOp { o with suspended := true })
    ⟨x.cause, BitVec.ofNat 64 x.addr, BitVec.ofNat 64 (matInfo h x), true, ⟨o.vpc, h, o.progress⟩⟩

/-- MATRIX_SUSPEND: the next unit fails a check; a fault of a team parks every member but one whose own operation started
poisoned, which takes no further part (log entry 52). -/
def execMatrixSuspend (slot : SlotId) (op : Nat) (far : List FarLine) (s : State) : Out :=
  .next (s.mapOp slot op fun t o =>
    if s.teamReady t o then
      match s.tryUnit t o far with
      | .next _ => s
      | .stop s1 stop =>
        match stop.trap? with
        | none => s
        | some x => ((s1.party t o).filter fun m => m.2.poison.isNone).foldl (fun s m => s.suspendOp m x) s1
    else s)

/-! ## Completion (07 R145, R163, R166) -/

/-- The status of a poisoned completion. -/
def Strand.poisoned (t : Strand) (o : MatOp) (cause : Nat) : Strand :=
  let t1 := { t with mx := { t.mx with poison := true, lastCause := cause } }
  match o.handle with
  | some h => if accPoison (t1.racc h) then t1 else t1.setAcc h (t1.racc h + 2 ^ 62)
  | none => t1

/-- The cause that an operation ends with: an image may be refused, and a poisoned line of MACCLD counts at the end. -/
def MatOp.endPoison (o : MatOp) : Option Nat :=
  match o.poison, o.kind with
  | some c, _ => some c
  | none, .maccld => if o.vals.isEmpty then none else some 1
  | none, .mcode .. => if imageOk o.vals then none else some 5
  | none, _ => none

/-- Whether some begun operation on a core decodes with the codebook that stands in its RAM. -/
def State.codebookBusy (s : State) (c : CoreId) : Bool :=
  (s.strandsOn c).any fun t => t.ops.any fun o => o.begun && o.usesCodebook && o.poison.isNone

/-- What MCODE leaves in the RAM: the image with its owner, or nothing; an MCODE that was not performed leaves it alone. -/
def State.mcodeEnd (s : State) (t : Strand) (o : MatOp) (sp : Space) (addr : Nat) : State :=
  if o.poison == some 2 then s
  else
    let core := s.core (coreOf t.at_)
    let s1 := match o.endPoison with
      | some _ => s.putCore { core with codebook := [], codeOwner := none }
      | none => s.putCore { core with codebook := toBytes o.vals, codeOwner := some t.inst }
    match s1.stage? t.inst with
    | some g => s1.putStage { g with mcode := some (addr, sp) }
    | none => s1

/-- Whether an operation has nothing left to do. -/
def State.opFinished (s : State) (t : Strand) (o : MatOp) : Bool :=
  o.begun && !o.suspended && s.mayMove t && (o.poison.isSome || o.progress == o.units) &&
    !(o.isMcode && o.poison != some 2 && s.codebookBusy (coreOf t.at_))

/-- MATRIX_OP_COMPLETE. -/
def execMatrixOpComplete (slot : SlotId) (op : Nat) (s : State) : Out :=
  .next (s.mapOp slot op fun t o =>
    if s.opFinished t o then
      let t1 := { t with ops := t.ops.filter fun x => x.id != o.id }
      let t2 := match o.endPoison with
        | some c => t1.poisoned o c
        | none => t1
      let t3 := if o.isSt && o.underItem && !o.lost && loggedSpace o.a.space then t2.unreserve (stSectors o.a o.progress) else t2
      let s1 := (s.putStrand t3).voidByPoison t3.launch o.endPoison
      match o.kind with
      | .mcode sp addr => s1.mcodeEnd t3 o sp addr
      | _ => s1
    else s)

end Sys2Proof.Machine
end

