-- ==== Sys2Proof/Machine/Copy.lean ====
section
/-! DEFINITION. Copies and landing maps: the instructions, the walk of a copy, and the copy engine (09 R177 to R190; 15
R272). -/

namespace Sys2Proof.Machine

/-! ## The walk of a copy (09 R179, R183 to R185) -/

/-- A run of a walk: where its bytes come from and where they go. -/
structure Piece where
  src : Nat
  dst : Nat
  len : Nat
  deriving DecidableEq, Repr

/-- The part of a walk from byte `lo` to byte `hi`; `at_` is the place of its first piece. -/
def cutWalk (lo hi : Nat) : Nat → List Piece → List Piece
  | _, [] => []
  | at_, p :: r =>
    let a := max lo at_
    let b := min hi (at_ + p.len)
    let rest := cutWalk lo hi (at_ + p.len) r
    if a < b then ⟨p.src + (a - at_), p.dst + (a - at_), b - a⟩ :: rest else rest

/-- Bytes of a chunk. -/
def chunkBytes : Nat := 512

/-- Lines and K of a descriptor in the role of A or B (07 R149). -/
def tileLines (d : Td) (isA : Bool) : Nat := if isA then d.rows.toNat else d.cols.toNat
def tileK (d : Td) (isA : Bool) : Nat := if isA then d.cols.toNat else d.rows.toNat
def tileContig (d : Td) (isA : Bool) : Bool := if isA then contiguousA d else contiguousB d

/-- Where line `l` has its element bytes, and how long each run is: by ascending K. -/
def lineRuns (d : Td) (isA : Bool) (l : Nat) : List (Nat × Nat) :=
  let base := d.base.toNat
  let stride := d.stride.toNat
  let k := tileK d isA
  let z := elemBytes d.fmt
  if d.fmt == .vq2x then (List.range (blocksOf k)).map fun b => (base + b * stride + 8 * l, 8)
  else if tileContig d isA then [(base + l * stride, k * z)]
  else (List.range k).map fun i => (base + i * stride + l * z, z)

/-- The scale bytes of line `l`, by block. -/
def lineScales (d : Td) (isA : Bool) (l : Nat) : List (Nat × Nat) :=
  if !hasScales d.fmt then []
  else (List.range (blocksOf (tileK d isA))).map fun b => (d.scalebase.toNat + scaleOffset d (tileContig d isA) l b, 1)

/-- The image of a descriptor: its element bytes by line, then its scale bytes by line. -/
def tileImage (d : Td) (isA : Bool) : List (Nat × Nat) :=
  let lines := List.range (tileLines d isA)
  lines.flatMap (lineRuns d isA) ++ lines.flatMap (lineScales d isA)

/-- Rows of CGATHER and CSCATTER that stand in the walk from byte `lo` to `hi`, with their indexes. -/
def rowPieces (o : CopyOp) (rowb : Nat) (idx : List (Nat × Nat)) : List Piece :=
  idx.map fun p => match o.kind with
    | .cgather .. => ⟨o.src + p.2 * rowb, o.dst + p.1 * rowb, rowb⟩
    | _ => ⟨o.src + p.1 * rowb, o.dst + p.2 * rowb, rowb⟩

/-- Length of a walk. -/
def CopyOp.total (o : CopyOp) : Nat := o.len

/-- Chunks of a walk. -/
def CopyOp.chunks (o : CopyOp) : Nat := (o.len + chunkBytes - 1) / chunkBytes

/-- The chunk that has to land next. -/
def CopyOp.lowest (o : CopyOp) : Nat := ((List.range o.chunks).find? fun k => !o.landed.contains k).getD o.chunks

/-- Whether chunks land in ascending order only: rows do, and so does what a source in space D answers (21 R377). -/
def CopyOp.ordered (o : CopyOp) : Bool := o.ssp == .d || match o.kind with | .cgather .. | .cscatter .. => true | _ => false

/-- The party of a copy. -/
def CopyOp.party (o : CopyOp) : Party := ⟨coreOf o.owner, o.world, o.inst⟩

/-- Reads the index entries of rows `j0` to `j1`, from the scratchpad of the issuing core. -/
def readIndexes (s : State) (o : CopyOp) (list j0 n : Nat) : State × Except EngineStop (List (Nat × Nat) × Bool) :=
  match readRun s o.party 0 [] .never ⟨.l, list + 4 * j0, 4 * n⟩ with
  | (s1, .error x) => (s1, .error x)
  | (s1, .ok d) => (s1, .ok ((List.range n).zip (leGroups 4 n d.bytes) |>.map fun p => (j0 + p.1, p.2), d.poisoned))

/-- The pieces of a walk without an index list, from byte `lo` to byte `hi`. -/
def CopyOp.pieces (o : CopyOp) (lo hi : Nat) : List Piece :=
  match o.kind with
  | .cpym src dst isA => cutWalk lo hi 0 (((tileImage src isA).zip (tileImage dst isA)).map fun p => ⟨p.1.1, p.2.1, p.2.2⟩)
  | _ => if lo < hi then [⟨o.src + lo, o.dst + lo, hi - lo⟩] else []

/-- The pieces of chunk `k`, and whether the index list was poisoned. -/
def chunkPieces (s : State) (o : CopyOp) (k : Nat) : State × Except EngineStop (List Piece × Bool) :=
  let lo := chunkBytes * k
  let hi := min (lo + chunkBytes) o.len
  let rows := fun (list rowb : Nat) =>
    let j0 := lo / rowb
    match readIndexes s o list j0 ((hi - 1) / rowb + 1 - j0) with
    | (s1, .error x) => (s1, .error x)
    | (s1, .ok (idx, bad)) => (s1, .ok (cutWalk lo hi (j0 * rowb) (rowPieces o rowb idx), bad))
  match o.kind with
  | .cgather list _ rowb => rows list rowb
  | .cscatter list _ rowb => rows list rowb
  | .cpy | .cfill _ | .cpym .. => (s, .ok (o.pieces lo hi, false))

/-! ## One chunk (09 R175, R176, R179, R181) -/

/-- How a copy treats grotto source bytes: none may go to G or D; CPYM takes them under the policy. -/
def CopyOp.grottoUse (o : CopyOp) : GrottoUse :=
  if loggedSpace o.dsp then .never else match o.kind with | .cpym .. => .policy | _ => .copied

/-- Places of a run at which grotto can begin: its first and last byte and every stripe between. -/
def probeAddrs (a n : Nat) : List Nat := (List.range ((n + 2047) / 2048)).map (fun i => a + 2048 * i) ++ [a + n - 1]

/-- The packages of the grotto bytes among runs. -/
def State.grottoPkgs (s : State) (p : Party) (sp : Space) (runs : List (Nat × Nat)) : Option (List Nat) :=
  let found := (runs.flatMap fun r => probeAddrs (r.1 % 2 ^ 64) r.2).filterMap (s.grottoOf p sp)
  if found.isEmpty then none else some (uniq (found.flatMap id))

/-- The index entries of a list as they stand in the scratchpad of the issuing core. -/
def State.indexList (s : State) (o : CopyOp) (list count : Nat) : List Nat :=
  (List.range count).map fun j => leValue (memBytes (s.core (coreOf o.owner)).spad (list + 4 * j) 4)

/-- The whole source of a copy, as runs. -/
def State.sourceRuns (s : State) (o : CopyOp) : List (Nat × Nat) :=
  match o.kind with
  | .cfill _ => []
  | .cpy | .cscatter .. => [(o.src, o.len)]
  | .cgather list count rowb => (s.indexList o list count).map fun i => (o.src + i * rowb, rowb)
  | .cpym src _ isA => tileImage src isA

/-- The whole destination of a copy, as runs. -/
def State.destRuns (s : State) (o : CopyOp) : List (Nat × Nat) :=
  match o.kind with
  | .cfill _ | .cpy | .cgather .. => [(o.dst, o.len)]
  | .cscatter list count rowb => (s.indexList o list count).map fun i => (o.dst + i * rowb, rowb)
  | .cpym _ dst isA => tileImage dst isA

/-- The packages of a copy's source, when a byte of it lies in grotto memory: every stripe that it writes becomes grotto. -/
def CopyOp.sourcePkgs (o : CopyOp) (s : State) : Option (List Nat) :=
  if o.ssp == .d then none else s.grottoPkgs o.party o.ssp (s.sourceRuns o)

/-- The bytes of a fill pattern from walk byte `at_`. -/
def patternBytes (pattern : Word) (at_ n : Nat) : List Nat :=
  (List.range n).map fun i => field pattern.toNat (8 * ((at_ + i) % 8)) 8

/-- The devices of a copy's source and destination, where they lie in space D. -/
def CopyOp.srcDev (o : CopyOp) : Nat := match o.kind with | .cpym src _ _ => src.device.toNat % 2048 | _ => o.dev
def CopyOp.dstDev (o : CopyOp) : Nat := match o.kind with | .cpym _ dst _ => dst.device.toNat % 2048 | _ => o.dev

/-! ### A source in space D (21 R377) -/

/-- Pieces with the walk byte at which each begins. -/
def placed (at_ : Nat) : List Piece → List (Nat × Piece)
  | [] => []
  | p :: r => (at_, p) :: placed (at_ + p.len) r

/-- Whether the source of a copy is another device, to which READs go. -/
def State.asksFor (s : State) (o : CopyOp) : Bool := o.ssp == .d && !s.isOwn o.srcDev

/-- The failing check of this device on some source piece. -/
def State.askTrap (s : State) (o : CopyOp) (l : List Piece) : Option EngineStop :=
  l.findSome? fun p => podStop s o.world o.srcDev false none (p.src % 2 ^ 64) p.len

/-- The most bytes of a READ of a copy. -/
def readMax : Nat := 2048

/-- The READs of a part of the walk: its pieces whole, or where a check of this device fails on one of them, chunk by chunk up to
that. The answer says whether all could be sent. -/
def State.readsOf (s : State) (o : CopyOp) (lo hi : Nat) : List (Nat × Piece) × Bool :=
  let whole := placed lo (o.pieces lo hi)
  let good := fun (l : List Piece) => (s.askTrap o l).isNone
  if good (whole.map (·.2)) then (whole, true)
  else
    let chunk := fun (k : Nat) => placed (max lo (chunkBytes * k)) (o.pieces (max lo (chunkBytes * k)) (min hi (chunkBytes * (k + 1))))
    let ks := (List.range ((hi + chunkBytes - 1) / chunkBytes)).filter fun k => lo < chunkBytes * (k + 1)
    ((ks.takeWhile fun k => good ((chunk k).map (·.2))).flatMap chunk, false)

/-- Sends the READs of the walk from the first byte that has not been asked for to the end of the chunks that may be in flight,
in walk order; `fuel` bounds the parts of up to 2,048 bytes. None goes out while the first hop is STOPPED. -/
def State.askParts (p : PodWorld) : Nat → State → CopyOp → State × CopyOp
  | 0, s, o => (s, o)
  | fuel + 1, s, o =>
    if o.asked < min o.len (chunkBytes * (o.lowest + 16)) && (s.stoppedHop o.srcDev).isNone && !s.unreachableTo o.srcDev then
      let (l, all) := s.readsOf o o.asked (min o.len ((o.asked / readMax + 1) * readMax))
      let s1 := l.foldl (fun s x =>
        s.send ⟨s.deviceId, o.srcDev, p.num, .read, x.2.src % 2 ^ 64, x.2.len, copyTag o.num x.1, []⟩) s
      let sent := (l.map fun x => x.2.len).foldl (· + ·) 0
      let o1 := { o with asked := o.asked + sent, asks := o.asks ++ l.map fun x => (x.1, x.2.len) }
      if all then State.askParts p fuel s1 o1 else (s1, o1)
    else (s, o)

/-- A copy with its source on another device sends what READs it may. -/
def State.ask (s : State) (o : CopyOp) : State × CopyOp :=
  match if s.asksFor o then s.podWorldOf o.world else none with
  | none => (s, o)
  | some p => State.askParts p 9 (s.usePath o.launch o.srcDev) o

/-- The answer to the READ that covers a walk byte: the walk byte where it begins, and the reply. -/
def State.answerAt (s : State) (o : CopyOp) (at_ : Nat) : Option (Nat × RemoteReply) :=
  (o.asks.find? fun a => a.1 ≤ at_ && at_ < a.1 + a.2).bind fun a =>
    (s.fabric.repliesIn.find? fun r => r.reqid == copyTag o.num a.1 && r.src == o.srcDev).map fun r => (a.1, r)

/-- The source bytes of a placed piece, as its device has answered. A status other than 0 refuses it. -/
def State.answered (s : State) (o : CopyOp) (x : Nat × Piece) : Except EngineStop RunData :=
  match s.answerAt o x.1 with
  | none => .error .waiting
  | some (a, r) =>
    if r.status != 0 then .error (.refused (x.2.src % 2 ^ 64) r.status)
    else .ok ⟨((r.data.drop (x.1 - a)).take x.2.len), List.replicate x.2.len false⟩

/-- The source bytes of placed pieces. -/
def State.answeredAll (s : State) (o : CopyOp) : List (Nat × Piece) → Except EngineStop (List RunData)
  | [] => .ok []
  | x :: r =>
    match s.answered o x with
    | .error e => .error e
    | .ok d =>
      match s.answeredAll o r with
      | .error e => .error e
      | .ok l => .ok (d :: l)

/-- The source bytes of pieces of chunk `k` from another device: the checks of this device come first; a copy from a device that
cannot be reached is refused (19 R358). -/
def State.farPieces (s : State) (o : CopyOp) (k : Nat) (l : List Piece) : Except EngineStop (List RunData) :=
  match s.askTrap o l with
  | some x => .error x
  | none =>
    match s.answeredAll o (placed (chunkBytes * k) l) with
    | .error .waiting => if s.unreachableTo o.srcDev then .error (.refused (o.src % 2 ^ 64) 0) else .error .waiting
    | x => x

/-- The source bytes of pieces. -/
def readPieces (s : State) (o : CopyOp) (k : Nat) (l : List Piece) : State × Except EngineStop (List RunData) :=
  match o.kind with
  | .cfill pat => (s, .ok (l.map fun p =>
      ⟨patternBytes pat (chunkBytes * k) p.len, List.replicate p.len false⟩))
  | _ =>
    if s.asksFor o then (s, s.farPieces o k l)
    else readRuns o.party o.srcDev [] o.grottoUse (l.map fun p => runAt o.ssp p.src p.len) s

/-- The READs whose bytes have all landed are over, and their replies go. -/
def State.settleAsks (s : State) (o : CopyOp) : State × CopyOp :=
  let spent := o.asks.filter fun a => a.1 + a.2 ≤ chunkBytes * o.lowest
  if spent.isEmpty then (s, o)
  else
    ({ s with fabric := { s.fabric with repliesIn := s.fabric.repliesIn.filter fun r => !spent.any fun a => r.reqid == copyTag o.num a.1 } },
      { o with asks := o.asks.filter fun a => !spent.contains a })

/-- Replies that no strand and no copy waits for any more go. -/
def State.sweepReplies (s : State) : State :=
  if s.fabric.repliesIn.isEmpty then s
  else { s with fabric := { s.fabric with repliesIn := s.fabric.repliesIn.filter fun r => s.replyWanted r.reqid } }

/-- A chunk that has been checked and read, ready to be written. -/
structure ChunkData where
  writes : List Checked
  bad : List (List Bool)
  grotto : Option (List Nat)
  deriving DecidableEq, Repr

/-- Checks the destination of pieces with the bytes that go there. -/
def checkPieces (s : State) (o : CopyOp) (far : List FarLine) (grotto : Bool) (l : List Piece) (data : List (List Nat)) :
    State × Except EngineStop (List Checked) :=
  checkWrites o.party o.dstDev (if o.underItem then none else some far) grotto
    ((l.zip data).map fun p => ⟨o.dsp, p.1.dst % 2 ^ 64, p.2⟩) s

/-- Checks and reads chunk `k`: source bytes first, then every destination byte. The destination is checked though an answer
for the source has not come. -/
def prepareChunk (s : State) (o : CopyOp) (k : Nat) (far : List FarLine) : State × Except EngineStop ChunkData :=
  match chunkPieces s o k with
  | (s1, .error x) => (s1, .error x)
  | (s1, .ok (l, badIndex)) =>
    match readPieces s1 o k l with
    | (s2, .error .waiting) =>
      match checkPieces s2 o far o.grotto l (l.map fun p => List.replicate p.len 0) with
      | (s3, .error x) => (s3, .error x)
      | (s3, .ok _) => (s3, .error .waiting)
    | (s2, .error x) => (s2, .error x)
    | (s2, .ok data) =>
      let g := o.sourcePkgs s2
      let grotto := g.isSome || o.grotto
      match checkPieces s2 o far grotto l (data.map RunData.bytes) with
      | (s3, .error x) => (s3, .error x)
      | (s3, .ok c) => (s3, .ok ⟨c, data.map fun d => if badIndex then d.bad.map fun _ => true else d.bad, if grotto then some (g.getD []) else none⟩)

/-- Marks the stripes of written scratchpad bytes grotto for a stage instance. -/
def State.markGrotto (s : State) (inst : Nat) (pkgs : List Nat) (ls : List Loc) : State :=
  ls.foldl (fun s l => match l with
    | .phys _ => s
    | .spad c off =>
      let core := s.core c
      let old := (core.grotto.find? fun g => g.stripe == off / 2048).getD ⟨off / 2048, [], []⟩
      let new_ := { old with insts := uniq (old.insts ++ [inst]), pkgs := uniq (old.pkgs ++ pkgs) }
      if old == new_ then s else s.putCore { core with grotto := upsert GrottoStripe.stripe new_ core.grotto }) s

/-- The bytes of a checked write that came from a poisoned line. -/
def badLocs (c : Checked) (bad : List Bool) : List Loc := (c.2.zip bad).filterMap fun p => if p.2 then some p.1 else none

/-- Poisons the sectors and lines of places. -/
def State.poisonLocs (s : State) (ls : List Loc) : State :=
  ls.foldl (fun s l => match l with
    | .phys pa => if s.poison.contains (pa / 64) then s else { s with poison := s.poison ++ [pa / 64] }
    | .spad c off =>
      let core := s.core c
      if core.spadPoison.contains (off / 32) then s else s.putCore { core with spadPoison := core.spadPoison ++ [off / 32] }) s

/-- Notes in the log of the item the lines that a poisoned source leaves poisoned. -/
def State.poisonLog (s : State) (i : SlotId) (ls : List Loc) : State :=
  match s.strand? i with
  | none => s
  | some t =>
    let lines := ls.filterMap fun l => match l with | .phys pa => some (pa / 64) | .spad .. => none
    s.putStrand (t.mapLog fun g => { g with bad := uniq (g.bad ++ lines) })

/-- The scratchpad bytes that chunks of a copy have written. -/
def State.landedLocs (s : State) (o : CopyOp) : List Loc :=
  o.landed.flatMap fun k => match chunkPieces s o k with
    | (_, .error _) => []
    | (_, .ok (l, _)) => l.flatMap fun p =>
        (List.range p.len).filterMap fun i => (spadLoc o.party o.dsp ((p.dst + i) % 2 ^ 64)).map fun x => .spad x.1 x.2

/-- Marks what a copy of grotto bytes writes: a chunk's bytes, and those of earlier chunks when the first grotto byte is found
late. -/
def State.markChunk (s : State) (o : CopyOp) (grotto : Option (List Nat)) (ls : List Loc) : State :=
  match grotto with
  | none => s
  | some pkgs => s.markGrotto o.inst pkgs (if o.grotto then ls else s.landedLocs o ++ ls)

/-- Writes a prepared chunk. -/
def State.writeChunk (s : State) (o : CopyOp) (d : ChunkData) : State :=
  let s1 := s.engineWrite o.owner o.world o.dstDev o.underItem o.lost d.writes
  let ls := d.writes.flatMap fun c => c.2
  let bad := (d.writes.zip d.bad).flatMap fun p => badLocs p.1 p.2
  let s2 := s1.markChunk o d.grotto ls
  if o.underItem && loggedSpace o.dsp then (if o.lost then s2 else s2.poisonLog o.owner bad) else s2.poisonLocs bad

/-! ## Queues -/

/-- Operations that a queue holds. -/
def queueLimit : Nat := 64

/-- The operations of a queue, in order. -/
def Core.queueOps (c : Core) (q : Nat) : List CopyOp := c.copies.filter fun o => o.q == q

/-- The operation at the head of a queue. -/
def Core.headOp (c : Core) (q : Nat) : Option CopyOp := (c.queueOps q).head?

/-- Replaces a copy. -/
def Core.putCopy (c : Core) (o : CopyOp) : Core := { c with copies := c.copies.map fun x => if x.num == o.num then o else x }

/-- Removes a copy. -/
def Core.dropCopy (c : Core) (num : Nat) : Core := { c with copies := c.copies.filter fun x => x.num != num }

/-- Whether a run in space Q lies in one core's scratchpad. -/
def runInCore (c : CoreId) (r : Nat × Nat) : Bool :=
  let a := r.1 % 2 ^ 64
  a / 2 ^ 21 == c.core % 4 && (a + r.2 - 1) / 2 ^ 21 == c.core % 4

/-- Whether the destination of a copy of core `c` is the scratchpad of that core: every row or run of it. -/
def State.landsHere (s : State) (c : CoreId) (o : CopyOp) : Bool :=
  o.dsp == .l || (o.dsp == .q && (s.destRuns o).all (runInCore c))

/-- Whether a copy may move: its stage is not stopped, and a debugger halt lets only copies into this scratchpad land until
QUIET (09 R190). A chunk lands in one step, so the chunks in flight at a checkpoint or a halt have written nothing (log entry
18). -/
def State.copyMoves (s : State) (c : CoreId) (o : CopyOp) : Bool :=
  let d := (s.core c).dbg
  (match s.strand? o.owner with | some t => t.phase == .live | none => false) &&
    (!d.halt || (!d.quiet && s.landsHere c o))

/-- Applies a change to the head of a queue. -/
def State.withHead (s : State) (c : CoreId) (q : Nat) (f : CopyOp → State) : State :=
  match (s.core c).headOp q with
  | none => s
  | some o => f o

/-- Whether a join is open: on a core, or with a saved stage while a copy of it is. -/
def State.joinOpen (s : State) (n : Nat) : Bool :=
  s.cores.any (fun c => c.joins.any fun j => j.id == n && !j.done) ||
    s.stages.any fun g => g.saved.any fun v => v.cores.any fun c => c.joins.any fun j => j.id == n && !j.done && j.waits.any s.copyOpen

/-- COPY_BEGIN: the queue before it is empty and its joins have completed. A copy from another device sends its first READs. -/
def execCopyBegin (c : CoreId) (q : Nat) (s : State) : Out :=
  .next (s.withHead c q fun o =>
    if !o.begun && s.copyMoves c o && !o.joins.any s.joinOpen then
      let (s1, o1) := s.ask { o with begun := true }
      s1.putCore ((s1.core c).putCopy o1)
    else s)

/-- Whether chunk `k` may have begun: chunks begin in ascending order, and up to 16 are in flight. -/
def CopyOp.inFlight (o : CopyOp) (k : Nat) : Bool :=
  decide (k < o.chunks) && !o.landed.contains k && decide (((List.range k).filter fun j => !o.landed.contains j).length < 16)

/-- Whether chunk `k` may land now: it is in flight, and rows land in ascending order. -/
def CopyOp.mayLand (o : CopyOp) (k : Nat) : Bool :=
  o.begun && !o.suspended && o.inFlight k && (!o.ordered || k == o.lowest)

/-- Sets a bit of a landing map. -/
def Core.setBit (c : Core) (map : Option Nat) (k : Nat) : Core :=
  match map with
  | none => c
  | some m => { c with maps := c.maps.setIfInBounds m (((c.maps[m]?).getD 0) ||| BitVec.ofNat 512 (2 ^ k)) }

/-- Notes the paths of a copy with a side in space D (16 R299). -/
def State.copyPaths (s : State) (o : CopyOp) : State :=
  let s1 := if o.ssp == .d then s.usePath o.launch o.srcDev else s
  if o.dsp == .d then s1.usePath o.launch o.dstDev else s1

/-- COPY_CHUNK_LANDED: every byte of the chunk is written, then its bit is set. A copy from another device sends the READs that
may go now, before this and after it; `far` are the answers of a device to which the copy writes. -/
def execCopyChunkLanded (c : CoreId) (q chunk : Nat) (far : List FarLine) (s0 : State) : Out :=
  .next (s0.withHead c q fun o0 =>
    if o0.mayLand chunk && s0.copyMoves c o0 then
      let (s, o) := s0.ask o0
      match prepareChunk s o chunk far with
      | (_, .error _) => if o == o0 then s0 else s.putCore ((s.core c).putCopy o)
      | (s1, .ok d) =>
        let s2 := (s1.copyPaths o).writeChunk o d
        let (s3, o1) := s2.settleAsks { o with
          landed := o.landed ++ [chunk]
          poisoned := o.poisoned || d.bad.any fun l => l.any id
          grotto := o.grotto || d.grotto.isSome }
        let (s4, o2) := s3.ask o1
        s4.putCore (((s4.core c).putCopy o2).setBit o.map chunk)
    else s0)

/-- A queue of a core has room again: the strands that waited for one try again (16 R305). -/
def State.queuesFreed (s : State) (c : CoreId) : State :=
  s.mapStrands fun t => if coreOf t.at_ == c then t.unstall .queue (s.now t.at_) else t

/-- A join hears of the failure of a copy: it fails when that is one of its copies and was issued after the mark. -/
def Join.hearFailure (j : Join) (num : Nat) : Join :=
  { j with failed := j.failed || (j.waits.contains num && decide (j.mark ≤ num)) }

/-- A strand of one of the cores in whose queues a copy has stood notes its failure for its next QFENCE. -/
def Strand.noteFailure (t : Strand) (o : CopyOp) : Strand :=
  if o.homes.contains (coreOf t.at_) && t.fenceMark ≤ o.num then { t with fenceFails := t.fenceFails ++ [(o.num, o.q)] } else t

/-- Every join and every strand hears of the failure of a copy, saved ones too (09 R187). -/
def State.copyFailed (s : State) (o : CopyOp) : State :=
  let note := fun (t : Strand) => t.noteFailure o
  let hear := fun (l : List Join) => l.map fun j => j.hearFailure o.num
  { s with
    strands := s.strands.map note
    cores := s.cores.map fun (c : Core) => { c with joins := hear c.joins }
    stages := s.stages.map fun (g : Stage) => { g with saved := g.saved.map fun v => { v with
      strands := v.strands.map note, cores := v.cores.map fun x => { x with joins := hear x.joins } } } }

/-- The end of a copy: it leaves its queue, and the matrix operation that it carries may begin or is poisoned (09 R181,
R185, R189). `cause` is that of a failure. -/
def State.endCopy (s : State) (c : CoreId) (o : CopyOp) (cause : Option Nat) : State :=
  let core := (s.core c).dropCopy o.num
  let core' := { core with grottoLog := if o.grotto then core.grottoLog ++ [o] else core.grottoLog }
  let sa := ((s.putCore core').queuesFreed c).sweepReplies
  let s0 := if cause.isSome then sa.copyFailed o else sa
  let s1 := match s0.stage? o.inst with
    | some g => s0.voidByPoison g.launch cause
    | none => s0
  match s1.strand? o.owner with
  | none => s1
  | some t =>
    let t1 := { t with ops := t.ops.map fun x =>
      if x.copy == some o.num then { x with copy := none, poison := if cause.isSome then some 2 else x.poison } else x }
    let t2 := match cause with
      | none => t1
      | some n => { t1 with
          cp := { t1.cp with lastCause := n, failQ := t1.cp.failQ ||| 2 ^ o.q }
          failed := t1.failed ++ [⟨o.num, o.dsp⟩] }
    s1.putStrand t2

/-- COPY_COMPLETE: the last byte is written. -/
def execCopyComplete (c : CoreId) (q : Nat) (s : State) : Out :=
  .next (s.withHead c q fun o =>
    if o.begun && !o.suspended && s.copyMoves c o && o.lowest == o.chunks && !o.poisoned then s.endCopy c o none else s)

/-- Sectors that a chunk's destination runs touch. -/
def pieceSectors (l : List Piece) : Nat := (l.map fun p => spanSectors p.dst p.len).foldl (· + ·) 0

/-- Sectors that a copy reserves in the log: those of each chunk it has not logged yet. Rows of CSCATTER are not known at
issue, and each may touch one sector more than its length. -/
def CopyOp.sectors (o : CopyOp) (s : State) : Nat :=
  if !loggedSpace o.dsp then 0
  else match o.kind with
    | .cscatter _ count rowb => count * ((rowb + 30) / 32 + 1)
    | _ => (((List.range o.chunks).filter fun k => !o.landed.contains k).map fun k =>
        match chunkPieces s o k with
        | (_, .ok (l, _)) => pieceSectors l
        | (_, .error _) => 0).foldl (· + ·) 0

/-- Whether a target refuses some chunk that is in flight. -/
def State.someRefused (s : State) (o : CopyOp) (far : List FarLine) : Bool :=
  (List.range o.chunks).any fun k => o.mayLand k && match prepareChunk s o k far with
    | (_, .error (.refused ..)) => true
    | _ => false

/-- COPY_FAIL: a copy that met a poisoned source completes failed with cause 1 once it has written everything; a refusal by
a space-D target ends it at once with cause 2. -/
def execCopyFail (c : CoreId) (q : Nat) (far : List FarLine) (s : State) : Out :=
  .next (s.withHead c q fun o =>
    if o.begun && !o.suspended && s.copyMoves c o then
      if o.lowest == o.chunks then (if o.poisoned then s.endCopy c o (some 1) else s)
      else
        if s.someRefused o far then
          let s1 := match s.strand? o.owner with
            | some t => if o.underItem && !o.lost then s.putStrand (t.unreserve (o.sectors s)) else s
            | none => s
          s1.endCopy c o (some 2)
        else s
    else s)

/-- A byte of an abandoned chunk: the address that the copy gave it, its place, its value and whether it came from a poisoned
line. -/
structure ChunkByte where
  addr : Nat
  loc : Loc
  val : Byte
  bad : Bool
  deriving DecidableEq, Repr

/-- The bytes of a prepared chunk in order. -/
def ChunkData.cells (d : ChunkData) : List ChunkByte :=
  (d.writes.zip d.bad).flatMap fun w =>
    (List.range w.1.2.length).filterMap fun i => (w.1.2[i]?).map fun l =>
      ⟨(w.1.1.addr + i) % 2 ^ 64, l, BitVec.ofNat 8 (nth w.1.1.data i 0), nth w.2 i false⟩

/-- Performs some bytes of a chunk, with all that a write of them does. -/
def State.writeCells (s : State) (o : CopyOp) (grotto : Option (List Nat)) (l : List ChunkByte) : State :=
  let ls := l.map ChunkByte.loc
  let s1 := (s.setBytesAt (l.map fun b => (b.loc, b.val))).clearPoison ls
  let s2 := s1.placesWritten ls
  (s2.markChunk o grotto ls).poisonLocs ((l.filter ChunkByte.bad).map ChunkByte.loc)

/-- A chunk that had begun above a failing one: each of its bytes keeps its old value or gets its new one, by a free value.
Bytes that go to another device or to the log of an item keep their old values (log entry 18). -/
def State.abandonChunk (s : State) (o : CopyOp) (k : Nat) : State :=
  if o.ordered || (o.underItem && loggedSpace o.dsp) || o.dsp == .d then s
  else
    match prepareChunk s o k [] with
    | (_, .error _) => s
    | (s1, .ok d) =>
      let pick := Config.freeValue s1.freeCount
      let cells := d.cells
      let kept := (List.range cells.length).zip cells |>.filterMap fun p => if bitAt pick p.1 then some p.2 else none
      s1.drawFree.writeCells o d.grotto kept

/-- The information word of a suspended copy: bit 30, the queue, and that of its cause. -/
def copyInfo (q : Nat) (x : Trap) : Nat := 2 ^ 30 + q * 2 ^ 16 + suspInfo x

/-- COPY_SUSPEND: the lowest unfinished chunk fails a check of this device. -/
def execCopySuspend (c : CoreId) (q : Nat) (abandoned : List Nat) (s : State) : Out :=
  .next (s.withHead c q fun o =>
    if o.begun && !o.suspended && s.copyMoves c o && o.lowest != o.chunks then
      match prepareChunk s o o.lowest [] with
      | (s1, .error (.trap x)) =>
        let began := (uniq abandoned).filter fun k => o.lowest < k && o.inFlight k
        let s2 := began.foldl (fun s k => s.abandonChunk o k) s1
        let s3 := s2.putCore ((s2.core c).putCopy { o with suspended := true })
        match s3.strand? o.owner with
        | none => s3
        | some t => s3.suspend t
            ⟨x.cause, BitVec.ofNat 64 x.addr, BitVec.ofNat 64 (copyInfo q x), false, ⟨o.vpc, q, o.lowest⟩⟩
      | _ => s
    else s)

/-! ## Issue of a copy (09 R177, R178, R180) -/

/-- The longest walk with a map and without one. -/
def mapMax : Nat := 262144
def copyMax : Nat := 2 ^ 30

/-- Check 8. -/
def lengthOk (nm : Bool) (n : Nat) : Bool := n ≤ (if nm then copyMax else mapMax)

/-- The parts of a range of addresses, which wrap at 64 bits: first address and end. -/
def wrapParts (r : Nat × Nat) : List (Nat × Nat) :=
  let a := r.1 % 2 ^ 64
  if a + r.2 ≤ 2 ^ 64 then [(a, a + r.2)] else [(a, 2 ^ 64), (0, a + r.2 - 2 ^ 64)]

/-- Whether two lists of parts share an address. -/
def partsMeet (l m : List (Nat × Nat)) : Bool := l.any fun x => m.any fun y => decide (x.1 < y.2) && decide (y.1 < x.2)

/-- The parts of an L range as offsets in space Q: those of the strand's own scratchpad. -/
def asQuad (t : Strand) (l : List (Nat × Nat)) : List (Nat × Nat) :=
  (l.filter fun x => x.1 < 2 ^ 21).map fun x => (t.at_.core % 4 * 2 ^ 21 + x.1, t.at_.core % 4 * 2 ^ 21 + min x.2 (2 ^ 21))

/-- Whether two ranges share a byte of one space; a byte of L stands in Q too. -/
def rangesMeet (t : Strand) (sp1 : Space) (r1 : Nat × Nat) (sp2 : Space) (r2 : Nat × Nat) : Bool :=
  match sp1, sp2 with
  | .g, .g | .l, .l | .q, .q => partsMeet (wrapParts r1) (wrapParts r2)
  | .l, .q => partsMeet (asQuad t (wrapParts r1)) (wrapParts r2)
  | .q, .l => partsMeet (wrapParts r1) (asQuad t (wrapParts r2))
  | _, _ => false

/-- The joins of a core that hold a copy of queue `q` back. -/
def Core.joinsOn (c : Core) (q : Nat) : List Nat := (c.joins.filter fun j => bitAt j.queues q && !j.done).map Join.id

/-- A copy of a strand as it issues. -/
def State.newCopy (s : State) (t : Strand) (x : CopyForm) (kind : CopyKind) (dsp ssp : Space) (dst src len dev : Nat) : CopyOp :=
  let core := s.core (coreOf t.at_)
  { num := s.nextCopy
    homes := [coreOf t.at_]
    asked := 0
    asks := []
    owner := t.at_
    inst := t.inst
    launch := t.launch
    world := t.world
    vpc := t.pc
    kind := kind
    dsp := dsp
    ssp := ssp
    dst := dst
    src := src
    len := len
    dev := dev
    map := if x.nm then none else some x.map
    q := x.q
    joins := core.joinsOn x.q
    underItem := t.held.isSome
    lost := false
    begun := false
    landed := []
    suspended := false
    poisoned := false
    grotto := false }

/-- Whether a queue takes no more. -/
def State.queueFull (s : State) (t : Strand) (q : Nat) : Bool := queueLimit ≤ ((s.core (coreOf t.at_)).queueOps q).length

/-- Enters a copy in its queue and reserves its part of the log. -/
def State.enqueueCopy (s : State) (t : Strand) (o : CopyOp) : Except Trap (State × Strand) :=
  match if o.underItem then t.reserve (o.sectors s) else .ok t with
  | .error e => .error e
  | .ok t1 =>
    let core := s.core (coreOf t.at_)
    .ok ({ s.putCore { core with copies := core.copies ++ [o] } with nextCopy := s.nextCopy + 1 }, t1)

/-- Issues a copy that has passed its checks: a length of 0 completes at once; a full queue keeps it from issuing. -/
def State.issueCopy (s : State) (t : Strand) (o : CopyOp) : State :=
  if o.len == 0 then s.complete t
  else if s.queueFull t o.q then s.stall t .queue
  else
    match s.enqueueCopy t o with
    | .error e => s.trap t e
    | .ok (s1, t1) => s1.complete t1

/-- The device of a copy with a side in space D. -/
def copyDev (t : Strand) (x : CopyForm) : Nat := t.rn x.c % 2048

def execCpy (x : CopyForm) (dsp ssp : Space) (s : State) : Out :=
  released (.cpy x dsp ssp) s fun s t =>
    let n := t.rn x.b
    if !lengthOk x.nm n then s.trap t (bounds 8)
    else if n != 0 && rangesMeet t dsp (t.rn x.d, n) ssp (t.rn x.a, n) then s.trap t (bounds 12)
    else s.issueCopy t (s.newCopy t x .cpy dsp ssp (t.rn x.d) (t.rn x.a) n (copyDev t x))

def execCfill (x : CopyForm) (dsp : Space) (s : State) : Out :=
  released (.cfill x dsp) s fun s t =>
    let n := t.rn x.b
    if !lengthOk x.nm n then s.trap t (bounds 8)
    else s.issueCopy t (s.newCopy t x (.cfill (t.rs x.a)) dsp .g (t.rn x.d) 0 n (copyDev t x))

/-- COUNT and ROWB of a control word, in range or not (09 R184). -/
def rowControl (w : Nat) : Option (Nat × Nat) :=
  let count := field w 0 16
  let rowb := field w 16 16
  if count ≤ 4096 && 1 ≤ rowb && rowb ≤ 4096 && field w 32 32 == 0 then some (count, rowb) else none

/-- CGATHER and CSCATTER. The checks are made in the order of their codes. -/
def State.rowCopy (s : State) (t : Strand) (x : CopyForm) (dsp ssp : Space) (kind : Nat → Nat → CopyKind) : State :=
  let w := t.rn x.c
  let len := field w 0 16 * field w 16 16
  if !lengthOk x.nm len then s.trap t (bounds 8)
  else
    match rowControl w with
    | none => s.trap t (bounds 9)
    | some (count, rowb) => s.issueCopy t (s.newCopy t x (kind count rowb) dsp ssp (t.rn x.d) (t.rn x.a) (count * rowb) 0)

def execCgather (x : CopyForm) (ssp : Space) (s : State) : Out :=
  released (.cgather x ssp) s fun s t => s.rowCopy t x .l ssp (.cgather (t.rn x.b))

def execCscatter (x : CopyForm) (dsp : Space) (s : State) : Out :=
  released (.cscatter x dsp) s fun s t => s.rowCopy t x dsp .l (.cscatter (t.rn x.b))

/-- Length of an image. -/
def imageLen (l : List (Nat × Nat)) : Nat := (l.map (·.2)).foldl (· + ·) 0

/-- Whether two images overlap in one space. -/
def imagesMeet (t : Strand) (a b : Td) (isA : Bool) : Bool :=
  let ia := tileImage a isA
  let ib := tileImage b isA
  ia.any fun r => ib.any fun q => rangesMeet t a.space r b.space q

/-- CPYM: the copy part with its checks, then the MMA that waits for it. Its shape checks come before the image is laid out;
a full queue or 32 outstanding operations keep it from issuing. -/
def State.cpym (s : State) (t : Strand) (x : CopyForm) (k : Nat) (mode : MmaMode) (which : Bool) : State :=
  let a := t.rtd x.a
  let b := t.rtd x.b
  let src := t.rtd x.c
  let dst := if which then a else b
  match mmaShape (t.racc x.d) a b with
  | some c => s.trap t (bounds c)
  | none =>
    let n := imageLen (tileImage dst which)
    if !lengthOk x.nm n then s.trap t (bounds 8)
    else if src.rows != dst.rows || src.cols != dst.cols || src.fmt != dst.fmt || src.transpose != dst.transpose then
      s.trap t (bounds 11)
    else if imagesMeet t src dst which then s.trap t (bounds 12)
    else if s.queueFull t x.q then s.stall t .queue
    else if t.matFull then s.stall t .other
    else
      let o := s.newCopy t x (.cpym src dst which) dst.space src.space 0 0 n 0
      match s.enqueueCopy t o with
      | .error e => s.trap t e
      | .ok (s1, t1) =>
        match s1.ensureLoaded t1 x.d with
        | .error e => s.trap t e
        | .ok (s2, t2) =>
          let m := t2.newOp (s.now t.at_) .mma (some x.d) a b (t.rk k) (t.rk (k + 1)) mode (BitVec.allOnes 2048)
          s2.complete (t2.addOp { m with copy := some o.num })

def execCpym (x : CopyForm) (k : Nat) (mode : MmaMode) (which : Bool) (s : State) : Out :=
  released (.cpym x k mode which) s fun s t => s.cpym t x k mode which

/-! ## Landing maps (09 R186) -/

/-- The mask of a landing map instruction, if its operands are in range. -/
def mapMask (x : MapForm) (t : Strand) : Option Nat :=
  let a := t.rn x.a
  let b := t.rn x.b
  if x.wd then (if a < 8 then some (b * 2 ^ (64 * a)) else none)
  else if a < 512 && b ≤ 512 && a + b ≤ 512 then some ((2 ^ b - 1) * 2 ^ a) else none

/-- A landing map of a core. -/
def State.landingMap (s : State) (i : SlotId) (m : Nat) : Nat := (((s.core (coreOf i)).maps[m]?).getD 0).toNat

/-- Whether every masked bit is set. -/
def State.mapHas (s : State) (i : SlotId) (m mask : Nat) : Bool := s.landingMap i m &&& mask == mask

def execCmapwt (x : MapForm) (s : State) : Out :=
  gated (.cmapwt x) s fun s t =>
    match mapMask x t with
    | none => s.trap t (bounds 10)
    | some mask =>
      if s.mapHas t.at_ x.map mask then s.complete t else s.waitIn t (.cmapwt x.map mask (s.now t.at_))

def execCmaptst (x : MapForm) (d : Nat) (s : State) : Out :=
  gated (.cmaptst x d) s fun s t =>
    match mapMask x t with
    | none => s.trap t (bounds 10)
    | some mask => s.complete (t.writePred d (s.mapHas t.at_ x.map mask) .set)

def execCmapclr (x : MapForm) (s : State) : Out :=
  gated (.cmapclr x) s fun s t =>
    match mapMask x t with
    | none => s.trap t (bounds 10)
    | some mask =>
      let core := s.core (coreOf t.at_)
      let old := s.landingMap t.at_ x.map
      (s.putCore { core with maps := core.maps.setIfInBounds x.map (BitVec.ofNat 512 (old - (old &&& mask))) }).complete t

/-- CMAPWT_COMPLETE. -/
def execCmapwtComplete (slot : SlotId) (s : State) : Out :=
  match s.strand? slot with
  | none => .next s
  | some t =>
    match t.wait with
    | some (.cmapwt m mask _) =>
      if s.mayMove t && t.frame.isNone && s.mapHas slot m mask then .next (s.finishWait t) else .next s
    | _ => .next s

/-! ## QFENCE, CDRAIN and CSTAT (09 R187 to R189) -/

/-- The copies of a core that have not completed: those in its queues, and those that were and that a checkpoint keeps or a
resume has taken to another core (09 R187, R188). -/
def State.openCopies (s : State) (c : CoreId) : List CopyOp :=
  ((s.cores.flatMap Core.copies) ++ s.stages.flatMap fun g => (g.saved.map fun v => v.cores.flatMap SavedCore.copies).getD []).filter
    fun o => o.homes.contains c

/-- QFENCE opens an epoch whose join is every copy of the core in the named queues that has not completed; a copy there that has
failed since the strand's previous QFENCE fails it. -/
def execQfence (g : Guard) (mask : Nat) (s : State) : Out :=
  gated (.qfence g mask) s fun s t =>
    let core := s.core (coreOf t.at_)
    let j : Join := ⟨s.nextJoin, t.serial, mask, ((s.openCopies (coreOf t.at_)).filter fun o => bitAt mask o.q).map CopyOp.num,
      t.fenceMark, t.fenceFails.any fun f => bitAt mask f.2, false⟩
    ({ s.putCore { core with joins := core.joins ++ [j] } with nextJoin := s.nextJoin + 1 }).complete
      { t with fenceMark := s.nextCopy, fenceFails := [], epochJoin := some j.id }

/-- A join of a strand has failed: JOINFAIL, where the strand stands. -/
def State.joinFailed (s : State) (owner : Nat) : State :=
  s.mapStrands fun t => if t.serial == owner then { t with cp := { t.cp with joinFail := true } } else t

/-- QFENCE_JOIN_COMPLETE: every copy of the join has completed. -/
def execQfenceJoinComplete (c : CoreId) (join : Nat) (s : State) : Out :=
  let core := s.core c
  match core.joins.find? fun j => j.id == join with
  | none => .next s
  | some j =>
    if j.done || j.waits.any s.copyOpen then .next s
    else
      let s1 := s.putCore { core with joins := core.joins.map fun x => if x.id == join then { x with done := true } else x }
      .next (if j.failed then s1.joinFailed j.owner else s1)

/-- Whether a path covers a destination space. -/
def pathCovers : DrainPath → Space → Bool
  | .all, _ => true
  | .spad, sp => sp == .l || sp == .q
  | .glob, sp => sp == .g
  | .pod, sp => sp == .d

/-- Whether a copy on the path that was issued before is outstanding. -/
def State.drainBusy (s : State) (t : Strand) (path : DrainPath) (upTo : Nat) : Bool :=
  (s.openCopies (coreOf t.at_)).any fun o => o.num < upTo && pathCovers path o.dsp

/-- What CDRAIN writes and reports as it completes. -/
def Strand.drained (t : Strand) (d : Nat) (path : DrainPath) (upTo : Nat) : Strand :=
  let mine := fun (f : FailedCopy) => pathCovers path f.dst && decide (f.num < upTo)
  if d == 0 then t
  else { t.writePred d (!t.failed.any mine) .set with
    failed := t.failed.filter fun f => !(pathCovers path f.dst) }

def execCdrain (g : Guard) (d : Nat) (path : DrainPath) (s : State) : Out :=
  gated (.cdrain g d path) s fun s t =>
    let upTo := s.nextCopy
    if s.drainBusy t path upTo then s.waitIn t (.cdrain d path upTo (s.now t.at_)) else s.complete (t.drained d path upTo)

/-- CDRAIN_COMPLETE. -/
def execCdrainComplete (slot : SlotId) (s : State) : Out :=
  match s.strand? slot with
  | none => .next s
  | some t =>
    match t.wait with
    | some (.cdrain d path upTo _) =>
      if s.mayMove t && t.frame.isNone && !s.drainBusy t path upTo then .next (s.finishWait (t.drained d path upTo)) else .next s
    | _ => .next s

/-- The copy status word. -/
def State.cstatWord (s : State) (t : Strand) : Nat :=
  let core := s.core (coreOf t.at_)
  let out := fun q => (core.queueOps q).length * 2 ^ (7 * q)
  t.cp.lastCause * 2 ^ 40 + boolNat t.cp.joinFail * 2 ^ 36 + t.cp.failQ * 2 ^ 32 + out 3 + out 2 + out 1 + out 0

def execCstat (g : Guard) (d : Nat) (clr : Bool) (s : State) : Out :=
  gated (.cstat g d clr) s fun s t =>
    let t1 := t.setN d (s.cstatWord t)
    s.complete (if clr then { t1 with cp := ⟨0, false, 0⟩ } else t1)

end Sys2Proof.Machine
end

