-- ==== Sys2Proof/Machine/Events.lean ====
section
/-! DEFINITION. What the agents outside the cores use: accesses through a world's page tables, and the ring of event records
to the host (20 R372, R373). -/

namespace Sys2Proof.Machine

/-! ## Bytes of world 0 -/

/-- Readable by world 0. -/
def readable0 (pte : Nat) : Bool := pteWorld pte == 0 && pteR pte
/-- Writable by world 0. -/
def writable0 (pte : Nat) : Bool := pteWorld pte == 0 && pteW pte

/-- The bytes of physical runs. -/
def State.runBytes (s : State) (l : List PhysRun) : List Byte := l.flatMap fun r => memBytes s.mem r.1 r.2

/-- The places of the bytes of physical runs. -/
def runLocs (l : List PhysRun) : List Loc := l.flatMap fun r => (List.range r.2).map fun i => .phys (r.1 + i)

/-- Whether a run touches a poisoned line. -/
def State.runPoisoned (s : State) (l : List PhysRun) : Bool :=
  l.any fun r => s.poison.any fun line => decide (line * 64 < r.1 + r.2) && decide (r.1 < line * 64 + 64)

/-- World 0 bytes, if they translate, may be read and are not poisoned. -/
def State.read0 (s : State) (va n : Nat) : Option (List Byte) :=
  match worldRuns s 0 readable0 (n / 65536 + 2) va n with
  | none => none
  | some l => if s.runPoisoned l then none else some (s.runBytes l)

/-- Writes world 0 bytes, if they translate and may be written. -/
def State.write0 (s : State) (va : Nat) (bs : List Byte) : Option State :=
  (worldRuns s 0 writable0 (bs.length / 65536 + 2) va bs.length).map fun l => s.storeAt (runLocs l) bs

/-! ## The host's link (20 R361, R374) -/

/-- What the host does: nothing answers before the CXL link has trained. -/
def State.byHost (s : State) (o : Out) : Out := if s.hallmark.linkUp then o else .next s

/-- Whether the submission, completion and event registers can be reached: their TDI is not bound to a TVM, or is in the RUN state. -/
def State.tdiOpen (s : State) : Bool := s.hallmark.linkUp && (!s.hallmark.tdi.bound || s.hallmark.tdi.run)

/-- What the host does to those registers. -/
def State.byTdi (s : State) (o : Out) : Out := if s.tdiOpen then o else .next s

/-! ## Event records (20 R372, R373) -/

/-- A record of every kind but 0x0301 and 0x0302: KIND, DIE, CYCLE and DATA. -/
def eventBytes (kind die cycle : Nat) (data : List Byte) : List Byte :=
  leBytes 2 kind ++ leBytes 1 die ++ leBytes 5 0 ++ leBytes 8 cycle ++ (data ++ List.replicate 16 0).take 16

/-- The die number of an event that belongs to no compute die. -/
def noDie : Nat := 0xFF

/-- Kinds that wait in the reserve while the ring is full. -/
def reservedKind (kind : Nat) : Bool :=
  kind == 0x0301 || kind == 0x0302 || kind == 0x0305 || kind == 0x0402 || kind == 0x0501 || kind == 0x0602

/-- Whether a size is a power of two within bounds. -/
def ringSizeOk (lo hi n : Nat) : Bool := lo ≤ n && n ≤ hi && n == 2 ^ Nat.log2 n

/-- Whether the ring is enabled and has room. -/
def EventRing.room (r : EventRing) : Bool := ringSizeOk 64 65536 r.size && (r.tail + 2 ^ 64 - r.head) % 2 ^ 64 < r.size

/-- A dropped record is counted. -/
def EventRing.drop (r : EventRing) : EventRing := { r with overflow := true, lost := min (r.lost + 1) (2 ^ 32 - 1) }

/-- Replaces the event ring. -/
def State.setRing (s : State) (r : EventRing) : State := { s with hallmark := { s.hallmark with events := r } }

/-- Writes a record at TAIL, and then TAIL advances. A record whose place does not translate is dropped. -/
def State.ringWrite (s : State) (bs : List Byte) : State :=
  let r := s.hallmark.events
  match s.write0 (r.base + 32 * (r.tail % r.size)) bs with
  | some s1 => s1.setRing { r with tail := (r.tail + 1) % 2 ^ 64 }
  | none => s.setRing r.drop

/-- Records that the reserve holds. -/
def reserveSize : Nat := 16

/-- The records of the reserve are written as far as the ring has room, oldest first. `fuel` bounds them. -/
def State.flushReserve : Nat → State → State
  | 0, s => s
  | fuel + 1, s =>
    let r := s.hallmark.events
    match r.reserve with
    | [] => s
    | b :: l => if r.room then State.flushReserve fuel ((s.setRing { r with reserve := l }).ringWrite b) else s

/-- EVENT_POST: a record is written, behind what the reserve holds, so that records of one source keep their order; without room it
waits in the reserve, or is dropped and counted. -/
def State.postRecord (s0 : State) (kind : Nat) (bs : List Byte) : State :=
  let s := s0.flushReserve reserveSize
  let r := s.hallmark.events
  if r.room then s.ringWrite bs
  else if reservedKind kind && r.reserve.length < reserveSize then s.setRing { r with reserve := r.reserve ++ [bs] }
  else s.setRing r.drop

/-- Posts an event of the common layout. -/
def State.postEvent (s : State) (kind die : Nat) (data : List Byte) : State :=
  s.postRecord kind (eventBytes kind die s.pkgCycle data)

/-- A coarsened count as the host reads it now: floor to 2^16, and changed only once per 2^30 package-reference cycles (15
R266). -/
def State.showCount (s : State) (c : HostCount) (v : Nat) : State × Nat :=
  let shown := v / 2 ^ 16 * 2 ^ 16
  let change := ({ s with hallmark := { s.hallmark with
    shown := upsert ShownCount.count ⟨c, shown, s.pkgCycle⟩ s.hallmark.shown } }, shown)
  match s.hallmark.shown.find? fun x => x.count == c with
  | none => change
  | some x => if s.pkgCycle < x.cycle + 2 ^ 30 || x.value == shown then (s, x.value) else change

/-- EVENT_RESERVE_WRITE: the oldest record of the reserve is written once the ring has room. -/
def execEventReserveWrite (s : State) : Out :=
  let r := s.hallmark.events
  match r.reserve with
  | [] => .next s
  | b :: l => if r.room then .next ((s.setRing { r with reserve := l }).ringWrite b) else .next s

/-- EQ_HEAD_WRITE. -/
def execEqHeadWrite (v : Nat) (s : State) : Out := s.byTdi <| .next (s.setRing { s.hallmark.events with head := v % 2 ^ 64 })

/-- EQ_OVERFLOW_CLEAR. -/
def execEqOverflowClear (s : State) : Out := s.byTdi <| .next (s.setRing { s.hallmark.events with overflow := false, lost := 0 })

end Sys2Proof.Machine
end

