-- ==== Sys2Proof/Machine/Work.lean ====
section
/-! DEFINITION. Work items, channels, barriers and memory waits: the instructions of chapter 10, and the events that complete
them (10 R191 to R208; 17 R309). -/

namespace Sys2Proof.Machine

/-- Applies a change to the strand of a slot, if one stands there. -/
def State.onStrand (s : State) (slot : SlotId) (f : Strand → State) : State :=
  match s.strand? slot with
  | none => s
  | some t => f t

/-- Whether a wait of a strand may end: the strand is not parked, and neither its stage nor its core is stopped. -/
def State.waitMoves (s : State) (t : Strand) : Bool := t.frame.isNone && t.phase == .live && !s.engineHalted t

/-- Local cycles since a wait began. -/
def State.waited (s : State) (t : Strand) (since : Nat) : Nat := s.now t.at_ - since

/-- The stage of a strand. -/
def State.stageOf (s : State) (t : Strand) : Option Stage := s.stage? t.inst

/-! ## DEQ and DEQT (10 R196) -/

/-- DEQ begins to wait; the wait is examined by the events below. -/
def State.beginDeq (s : State) (t : Strand) (d c : Nat) (limit : Option Nat) : State :=
  if t.held.isSome then s.trap t (bounds 13)
  else
    let s1 := s.waitIn t (.deq d c limit (s.now t.at_))
    match s1.stageOf t with
    | some g => s1.putStage { g with waiters := g.waiters ++ [t.at_] }
    | none => s1

def execDeq (g : Guard) (d c : Nat) (s : State) : Out := gated (.deq g d c) s fun s t => s.beginDeq t d c none

/-- The longest DEQT wait. -/
def deqtMax : Nat := 2 ^ 32

def execDeqt (g : Guard) (d a c : Nat) (s : State) : Out :=
  gated (.deqt g d a c) s fun s t => s.beginDeq t d c (some (min (t.rn a) deqtMax))

/-- The item that a stage can grant now. -/
def State.grantable (s : State) (g : Stage) : Option Item :=
  if g.state != .running then none
  else
    match g.queue with
    | [] => none
    | i :: _ => match i.firing with
      | some n => if s.switchHolds g n then none else some i
      | none => some i

/-- The strand that holds an item: HELD, WORKID, its CONFIG and an empty log. -/
def Strand.hold (t : Strand) (i : Item) (config : Word) : Strand :=
  { t with held := some ⟨i, config, WriteLog.empty⟩, workid := i.id, consumed := [] }

/-- What is left of a stage after it grants an item to a waiter. -/
def Stage.grant (g : Stage) (i : Item) (slot : SlotId) : Stage :=
  { g with
    queue := g.queue.drop 1
    waiters := g.waiters.filter (· != slot)
    dispatched := match i.firing with | some n => max g.dispatched (n + 1) | none => g.dispatched }

/-- The CONFIG of an item. -/
def Stage.configOf (g : Stage) (i : Item) : Word := match i.firing with | some n => g.configFor n | none => g.config

/-- DEQ_GRANT: the strand that has waited longest takes the item at the head, within its limit. -/
def execDeqGrant (slot : SlotId) (s : State) : Out :=
  .next (s.onStrand slot fun t =>
    match t.wait, s.stageOf t with
    | some (.deq d c limit since), some g =>
      match s.grantable g with
      | none => s
      | some i =>
        if s.waitMoves t && g.waiters.head? == some slot && limit.all fun l => s.waited t since ≤ l then
          (s.putStage (g.grant i slot)).finishWait ((t.hold i (g.configOf i)).setS d i.id |>.writePred c true .set)
        else s
    | _, _ => s)

/-- A DEQ that returns without an item. -/
def State.deqReturns (s : State) (t : Strand) (d c v : Nat) : State :=
  (s.dropWaiter t).finishWait ((t.setN d v).writePred c false .set)

/-- A channel-fed input stays closed. -/
def Stage.close (g : Stage) : Stage := if g.channelFed then { g with inputClosed := true } else g

/-- DEQ_INPUT_CLOSED: 1 when the input is closed, else 2 when the stage drains. Outside a drain an item in the queue is
granted first. The runtime strand has no stage and nothing to take: its input counts as closed (log entry 9). -/
def execDeqInputClosed (slot : SlotId) (s : State) : Out :=
  .next (s.onStrand slot fun t =>
    match t.wait with
    | some (.deq d c _ _) =>
      if !s.waitMoves t then s
      else
        match s.stageOf t with
        | none => s.deqReturns t d c 1
        | some g =>
          let draining := g.state == .stoppingDrain
          if s.inputClosedNow g && (draining || g.queue.isEmpty) then (s.putStage g.close).deqReturns t d c 1
          else if draining then s.deqReturns t d c 2
          else s
    | _ => s)

/-- Whether the strand is in line for an item that the stage can grant now: those that wait longer take theirs first. -/
def State.inLine (s : State) (g : Stage) (slot : SlotId) : Bool :=
  (s.grantable g).isSome && g.waiters.contains slot &&
    decide ((g.waiters.takeWhile fun i => i != slot).length < g.queue.length)

/-- DEQT_TIMEOUT: the limit has passed, with nothing to grant in that cycle and neither closure nor drain to report. The local
clock stands until this event or the grant has come (01 R25), so the cycle of the limit is not passed by. -/
def execDeqtTimeout (slot : SlotId) (s : State) : Out :=
  .next (s.onStrand slot fun t =>
    match t.wait with
    | some (.deq d c (some l) since) =>
      let busy := match s.stageOf t with
        | none => true
        | some g => g.state == .stoppingDrain || (s.inputClosedNow g && g.queue.isEmpty) ||
            (s.waited t since == l && s.inLine g slot)
      if s.waitMoves t && decide (l ≤ s.waited t since) && !busy then s.deqReturns t d c 0 else s
    | _ => s)

/-! ## ENQ and WIDX (10 R197, R198) -/

/-- The most ENQs a log holds. -/
def enqMax : Nat := 64

/-- The width W that `.workid` declares. -/
def Strand.workWidth (t : Strand) : Nat := t.workWidths.foldl (· + ·) 0

/-- ENQ under an item goes into the log; otherwise it is performed at once as a release at package scope (10 R196), and a strand
that finds the queue full waits. A runtime strand has no queue: nothing is added (log entry 9). -/
def execEnq (g : Guard) (a : Nat) (s : State) : Out :=
  gated (.enq g a) s fun s t =>
    match s.stageOf t with
    | none => s.complete t
    | some st =>
      if st.channelFed || 2 ^ t.workWidth ≤ t.rn a then s.trap t (bounds 16)
      else
        match t.held with
        | some h =>
          if enqMax ≤ h.log.enqs.length then s.trap t (bounds 16)
          else s.complete (t.mapLog fun l => { l with enqs := l.enqs ++ [t.rs a] })
        | none =>
          if queueCapacity ≤ s.queueUsed st || s.owesPkg t then s.stall t .other
          else (s.putStage { st with queue := st.queue ++ [⟨t.rs a, none, 0⟩] }).complete t

/-- The lowest bit of field `k`: the widths after it. -/
def fieldLow (ws : List Nat) (k : Nat) : Nat := (ws.drop (k + 1)).foldl (· + ·) 0

def execWidx (g : Guard) (d a k : Nat) (s : State) : Out :=
  gated (.widx g d a k) s fun s t =>
    s.complete (t.setN d (field (t.rn a) (fieldLow t.workWidths k) (nth t.workWidths k 0)))

/-! ## CHW and CHWS (10 R202) -/

/-- Appends bytes to an output of the item's log, or traps when they are more than a firing gives. -/
def State.logChannel (s : State) (t : Strand) (o : Nat) (bs : List Byte) : State :=
  s.complete (t.mapLog fun l => { l with chan := assocSet l.chan o (l.chanBytes o ++ bs) })

/-- Whether `n` more bytes stay within B. -/
def State.channelRoom (s : State) (t : Strand) (h : Held) (o n : Nat) : Bool :=
  (h.log.chanBytes o).length + n ≤ ((s.stageOf t).map fun g => g.outBytes o).getD 0

/-- The bytes of CHW: each element, zero where the guard masks it off. -/
def chwBytes (t : Strand) (g : Guard) (a : Nat) : List Byte :=
  (List.range t.vl).flatMap fun i =>
    leBytes (t.ew / 8) (if t.guardBit g i then field (t.vsrc a t.grp) (t.ew * i) t.ew else 0)

def execChw (g : Guard) (d a : Nat) (s : State) : Out :=
  gated (.chw g d a) s fun s t =>
    match t.held with
    | none => s.trap t (bounds 13)
    | some h =>
      let bs := chwBytes t g a
      if s.channelRoom t h d bs.length then s.logChannel t d bs else s.trap t (bounds 15)

def execChws (g : Guard) (d a b : Nat) (s : State) : Out :=
  gated (.chws g d a b) s fun s t =>
    match t.held with
    | none => s.trap t (bounds 13)
    | some h =>
      let n := t.rn b
      if !s.channelRoom t h d n then s.trap t (bounds 15)
      else
        match s.loadBytes t checkLoad .l (t.rn a) n with
        | (s1, .error x) => s1.trap t x
        | (s1, .ok bs) => s1.logChannel t d bs

/-! ## COMMIT, ABORT and SWITCH (10 R200, R201, R204) -/

/-- COMMIT: what can happen at once happens; otherwise the strand waits for COMMIT_PUBLISH. -/
def execCommit (g : Guard) (s : State) : Out :=
  gated (.commit g) s fun s t =>
    match t.held, s.stageOf t with
    | none, _ => s.trap t (bounds 13)
    | some _, none => s.trap t (bounds 13)
    | some _, some st => (s.clearStalls st t.at_).commitStep t [] none 0 (s.now t.at_)

/-- COMMIT_PUBLISH: a waiting COMMIT goes on as far as it can. One that has sent nothing stays while its strand is stopped. -/
def execCommitPublish (slot : SlotId) (s : State) : Out :=
  .next (s.onStrand slot fun t =>
    match t.wait with
    | some (.commit sent refused phase _ since) =>
      if t.frame.isNone && (phase != 0 || s.waitMoves t) then s.commitStep t sent refused phase since else s
    | _ => s)

def execAbort (g : Guard) (drop : Bool) (s : State) : Out :=
  gated (.abort g drop) s fun s t =>
    if t.held.isNone then s.trap t (bounds 13)
    else if drop && (s.stageOf t).any Stage.channelFed then s.trap t (bounds 16)
    else let (s1, t1) := s.abortItem t drop; s1.complete t1

def execSwitch (g : Guard) (a : Nat) (s : State) : Out :=
  gated (.switch g a) s fun s t =>
    if (s.stageOf t).any Stage.channelFed then s.trap t (bounds 16)
    else if t.held.isNone then s.trap t (bounds 13)
    else s.complete (t.mapLog fun l => { l with switch := some (t.rs a) })

/-! ## CHSTAT (10 R205) -/

/-- The item word. -/
def State.itemWord (s : State) (t : Strand) : Nat :=
  let closed := ((s.stageOf t).map s.inputClosedNow).getD true
  boolNat t.held.isSome * 2 ^ 63 + boolNat closed * 2 ^ 62 +
    (match t.held with | some h => h.item.replay * 2 ^ 32 + min 4096 h.log.sectors.length | none => 0)

/-- Packets of the held firing that no instruction has consumed; a detached input holds none. -/
def State.unread (t : Strand) (k : Consumer) (q : Nat) : Nat :=
  if t.held.isNone || k.detached then 0 else k.packets - nth t.consumed q 0

/-- The input word. -/
def State.inputWord (s : State) (t : Strand) (n : Nat) : Nat :=
  match s.stageOf t, s.inputOf t.inst n with
  | some g, some k =>
    boolNat k.detached * 2 ^ 63 + boolNat (!k.arrived.isEmpty) * 2 ^ 62 + min 4095 (State.unread t k n) * 2 ^ 32 +
      min (2 ^ 32 - 1) (s.readyFirings g - g.dispatched)
  | _, _ => 0

/-- CONFIG of the held item, or the current one. -/
def State.configWord (s : State) (t : Strand) : Nat :=
  match t.held with
  | some h => h.config.toNat
  | none => ((s.stageOf t).map fun g => g.currentConfig.toNat).getD 0

def execChstat (g : Guard) (d : Nat) (sel : ChstatSel) (s : State) : Out :=
  gated (.chstat g d sel) s fun s t =>
    s.complete (t.setN d (match sel with
      | .item => s.itemWord t
      | .inp n => s.inputWord t n
      | .cfg => s.configWord t))

/-! ## Named barriers (10 R206, R207) -/

/-- The launch of a strand that may use a barrier: no item is held. A runtime strand has no launch, hence no barrier (log
entry 9). -/
def State.barLaunch (s : State) (t : Strand) : Option Launch := if t.held.isSome then none else s.launch? t.launch

/-- A barrier of a launch. -/
def Launch.bar (l : Launch) (b : Nat) : Barrier := (l.bars[b]?).getD ⟨0, 0, 0⟩

/-- Stores a barrier. -/
def Launch.setBar (l : Launch) (b : Nat) (x : Barrier) : Launch := { l with bars := l.bars.setIfInBounds b x }

/-- One arrival. -/
def Barrier.arrive (x : Barrier) : Barrier :=
  if x.arrived + 1 == x.count then { x with arrived := 0, gen := (x.gen + 1) % 2 ^ 32 } else { x with arrived := x.arrived + 1 }

/-- Whether a generation has completed since `g`. -/
def Barrier.passed (x : Barrier) (g : Nat) : Bool :=
  let n := (x.gen + 2 ^ 32 - g % 2 ^ 32) % 2 ^ 32
  1 ≤ n && n ≤ 2 ^ 31

def execBari (g : Guard) (a c : Nat) (s : State) : Out :=
  gated (.bari g a c) s fun s t =>
    match s.barLaunch t with
    | none => s.trap t (bounds 17)
    | some l =>
      let x := l.bar c
      let n := t.rn a
      if x.arrived != 0 || n == 0 || 65535 < n then s.trap t (bounds 17)
      else (s.putLaunch (l.setBar c { x with count := n })).complete t

/-- BARA is a release at package scope. -/
def execBara (g : Guard) (d c : Nat) (s : State) : Out :=
  gated (.bara g d c) s fun s t =>
    match s.barLaunch t with
    | none => s.trap t (bounds 17)
    | some l =>
      let x := l.bar c
      if x.count == 0 then s.trap t (bounds 17)
      else if s.owesPkg t then s.stall t .other
      else (s.putLaunch (l.setBar c x.arrive)).complete (t.setN d x.gen)

def execBarw (g : Guard) (a c : Nat) (s : State) : Out :=
  gated (.barw g a c) s fun s t =>
    match s.barLaunch t with
    | none => s.trap t (bounds 17)
    | some l => if (l.bar c).passed (t.rn a) then s.complete t else s.waitIn t (.barw c (t.rn a % 2 ^ 32) (s.now t.at_))

/-- BARW_COMPLETE. -/
def execBarwComplete (slot : SlotId) (s : State) : Out :=
  .next (s.onStrand slot fun t =>
    match t.wait, s.launch? t.launch with
    | some (.barw b gen _), some l => if s.waitMoves t && (l.bar b).passed gen then s.finishWait t else s
    | _, _ => s)

/-! ## Memory waits (10 R208) -/

/-- The longest SIGWAIT. -/
def sigwaitMax : Nat := 2 ^ 20

/-- A SIGWAIT reads its location. `last` says that its bound has passed. -/
def State.sigRead (s : State) (t : Strand) (sp : Space) (d ea n want : Nat) (acq last : Bool) (since : Nat) : State :=
  match s.loadBytes t checkLoad sp ea n with
  | (s1, .error x) => s1.trap { t with wait := none } x
  | (s1, .ok bs) =>
    if leValue bs != want then s1.finishWait (t.writePred d true .set)
    else if last then s1.finishWait (t.writePred d false .set)
    else s1.waitIn t (.sigwait sp d ea n want acq false since)

def execSigwait (x : MemForm) (acq : Bool) (s : State) : Out :=
  gated (.sigwait x acq) s fun s t =>
    let n := szBytes x.sz
    let e := ea0 x t
    if e % n != 0 then s.trap t ⟨causeMisalign, e, 0⟩
    else if s.owesSector t x.sp 0 then s.stall t .other
    else s.sigRead t x.sp x.d e n (t.rn x.b % 2 ^ (8 * n)) acq false (s.now t.at_)

/-- The 32-byte sector of an address for a party: in the package for G, in a scratchpad for L and Q. -/
def State.sectorOf (s : State) (p : Party) (sp : Space) (ea : Nat) : Option Loc :=
  if sp == .g then
    match translate s p.core p.world ea with
    | (_, .leaf e _) => some (.phys ((e.pa + ea % e.size) / 32))
    | (_, .fault ..) => none
  else (spadLoc p sp ea).map fun x => .spad x.1 (x.2 / 32)

/-- Whether a strand sleeps in a SIGWAIT on a sector. -/
def State.sleepsOn (s : State) (u : Strand) (sector : Option Loc) : Bool :=
  match u.wait with
  | some (.sigwait sp _ ea _ _ _ _ _) => sector.isSome && s.sectorOf u.party sp ea == sector
  | _ => false

/-- A sleeper that a SIGWAKE has reached. -/
def Strand.woken (u : Strand) : Strand :=
  match u.wait with
  | some (.sigwait sp d ea n want acq _ since) => { u with wait := some (.sigwait sp d ea n want acq true since) }
  | _ => u

/-- SIGWAKE wakes the sleepers of its world on its sector. It is a release at the scope of its space. -/
def execSigwake (x : MemForm) (s : State) : Out :=
  gated (.sigwake x) s fun s t =>
    let e := ea0 x t
    if s.owesAt t (spaceScope x.sp) allStreams then s.stall t .other
    else
      match checkAccess s t.party checkSigwake x.sp e 1 with
      | (s1, .error tr) => s1.trap t tr
      | (s1, .ok _) =>
        let sector := s1.sectorOf t.party x.sp e
        (s1.mapStrands fun u => if u.world == t.world && s1.sleepsOn u sector then u.woken else u).complete t

/-- SIGWAIT_WAKE: a woken SIGWAIT reads its location again. -/
def execSigwaitWake (slot : SlotId) (s : State) : Out :=
  .next (s.onStrand slot fun t =>
    match t.wait with
    | some (.sigwait sp d ea n want acq true since) =>
      if s.waitMoves t then s.sigRead t sp d ea n want acq (decide (sigwaitMax ≤ s.waited t since)) since else s
    | _ => s)

/-- SIGWAIT_TIMEOUT: the bound has passed; the location is read once more. -/
def execSigwaitTimeout (slot : SlotId) (s : State) : Out :=
  .next (s.onStrand slot fun t =>
    match t.wait with
    | some (.sigwait sp d ea n want acq _ since) =>
      if s.waitMoves t && decide (sigwaitMax ≤ s.waited t since) then s.sigRead t sp d ea n want acq true since else s
    | _ => s)

/-! ## Channels (10 R193, R203, R204) -/

/-- FIRING_READY: the lowest firing that is ready and not yet enqueued enters the work queue. -/
def execFiringReady (inst : Nat) (s : State) : Out :=
  match s.stage? inst with
  | none => .next s
  | some g =>
    if g.channelFed && g.state != .done && g.state != .stoppingKill && g.nextFiring < s.readyFirings g &&
        g.queue.length < queueCapacity then
      .next (s.putStage { g with
        queue := g.queue ++ [⟨BitVec.ofNat 64 g.nextFiring, some g.nextFiring, 0⟩]
        nextFiring := g.nextFiring + 1 })
    else .next s

/-- Packet `i` of firing `g` of an input, zero-padded. -/
def Chan.packet (c : Chan) (k : Consumer) (g i : Nat) : BitVec 2048 :=
  let first := g * k.bytes + packetBytes * i
  BitVec.ofNat 2048 (leValue ((c.buf.drop (first - c.base)).take (min packetBytes (k.bytes - packetBytes * i))))

/-- CHANNEL_PACKET_ARRIVAL: the next packet of the held firing comes to the strand. -/
def execChannelPacketArrival (slot : SlotId) (q : Nat) (s : State) : Out :=
  .next (s.onStrand slot fun t =>
    match t.held, s.stageOf t with
    | some h, some g =>
      match h.item.firing, s.inChan g q with
      | some n, some c =>
        match c.consumerOf g.id q with
        | none => s
        | some k =>
          let have_ := (t.regs.q[q]?).getD []
          let i := nth t.consumed q 0 + have_.length
          if t.phase == .live && !k.detached && decide (i < k.packets) then
            s.putStrand ({ t with regs := { t.regs with q := t.regs.q.setIfInBounds q (have_ ++ [c.packet k n i]) } }.unstall
              .packets (s.now slot))
          else s
      | _, _ => s
    | _, _ => s)


/-- Whether some COMMIT has waited on the full buffer of a channel for the stall bound, counted from the last commit of a
consumer where that is later. -/
def State.stalledOut (s : State) (c : Chan) (k : Consumer) : Bool :=
  let bound := ((s.launch? c.launch).map Launch.stall).getD (2 ^ 20)
  c.stall.any fun x => s.waitsForRoom c x.1 && decide (bound ≤ s.chanNow c - max x.2 k.last)

/-- A consumer that holds the oldest bytes of a channel. -/
def Chan.lags (c : Chan) (k : Consumer) : Bool := k.needs == some c.oldest && c.oldest < c.total

/-- A strand loses what it has of a detached input; a wait for its packets ends. -/
def Strand.detach (t : Strand) (input now : Nat) : Strand :=
  ({ t with regs := { t.regs with q := t.regs.q.setIfInBounds input [] } } : Strand).unstall .packets now

/-- CHANNEL_DETACH: every consumer that holds the oldest bytes and has committed nothing for the stall bound is detached, and
its packets go. -/
def execChannelDetach (chan : Nat) (s : State) : Out :=
  match s.chan? chan with
  | none => .next s
  | some c =>
    let goes := fun (k : Consumer) => c.lags k && s.stalledOut c k
    if c.consumers.length < 2 || !c.consumers.any goes then .next s
    else
      let c' := { c with consumers := c.consumers.map fun k => if goes k then { k with detached := true } else k }
      .next ((s.freeChan c').mapStrands fun t =>
        (c.consumers.filter fun k => goes k && k.inst == t.inst && !t.super).foldl (fun t k => t.detach k.input (s.now t.at_)) t)

/-- The inputs of a stage whose token has arrived, each with its firing and value, lowest input first. -/
def State.arrivedTokens (s : State) (g : Stage) : List (Nat × Nat × Word) :=
  sortBy (·.1) ((s.inputs g).filterMap fun x => x.2.arrived.head?.map fun a => (x.2.input, tokenFiring a.1 x.2.bytes, a.2))

/-- The switch of a stage takes effect once a token has arrived on every input. -/
def State.takeSwitch (s : State) (g : Stage) : State :=
  let toks := s.arrivedTokens g
  if toks.length < g.decls.nin || toks.length == 0 then s
  else
    let f := (toks.map fun x => x.2.1).foldl max 0
    let v := ((toks.getLast?).map fun x => x.2.2).getD 0
    let s1 := s.putStage { g with configs := g.configs ++ [(f, v)] }
    let s2 := g.ins.foldl (fun s p =>
      match s.chan? p.2 with
      | some c => s.putChan (c.mapConsumer g.id p.1 fun k => { k with arrived := k.arrived.drop 1 })
      | none => s) s1
    s2.mapOuts g fun _ c => c.putToken (f * c.bytes) v

/-- SWITCH_TOKEN_ARRIVAL: the next token of an input arrives behind its bytes, once no earlier one is pending there. -/
def execSwitchTokenArrival (inst input : Nat) (s : State) : Out :=
  match s.stage? inst with
  | none => .next s
  | some g =>
    match s.inChan g input with
    | none => .next s
    | some c =>
      match c.consumerOf inst input with
      | none => .next s
      | some k =>
        match k.tokens with
        | [] => .next s
        | (pos, v) :: r =>
          if k.arrived.isEmpty && pos ≤ c.total then
            .next ((s.putChan (c.mapConsumer inst input fun k => { k with tokens := r, arrived := [(pos, v)] })).takeSwitch g)
          else .next s

/-! ## Limitless waits (17 R309) -/

/-- Cycles after which a wait without a limit raises WATCHDOG. -/
def watchdogMax : Nat := 2 ^ 32

/-- The waits that WATCHDOG ends: the opcode and the cycle of issue. -/
def Wait.watched : Wait → Option (Nat × Nat)
  | .deq _ _ none since => some (0x280, since)
  | .barw _ _ since => some (0x289, since)
  | .mwait _ _ since => some (0x20A, since)
  | .cmapwt _ _ since => some (0x244, since)
  | .cdrain _ _ _ since => some (0x247, since)
  | .spwait _ _ _ none since => some (0x2C6, since)
  | .commit _ _ 0 _ since => some (0x285, since)
  | _ => none

/-- WATCHDOG_EXPIRY. -/
def execWatchdogExpiry (slot : SlotId) (s : State) : Out :=
  .next (s.onStrand slot fun t =>
    match t.wait.bind Wait.watched with
    | some (op, since) =>
      if s.waitMoves t && decide (watchdogMax ≤ s.waited t since) then
        (s.dropWaiter t).trap { t with wait := none } ⟨causeWatchdog, 0, op⟩
      else s
    | none => s)

/-! ## Banks, urgency, WAITP and the end of a strand (01 R24; 16 R305; 04 R86, R87) -/

/-- Cycles without use after which a bank enters retention. -/
def State.retentionAfter (s : State) : Nat := if min s.hallmark.hostcap s.hallmark.thermcap < 8 then 256 else 2048

/-- BANK_RETENTION_ENTRY. -/
def execBankRetentionEntry (c : CoreId) (bank : Nat) (s : State) : Out :=
  let core := s.core c
  match core.banks[bank]? with
  | none => .next s
  | some b =>
    if b.state == .powered && s.retentionAfter ≤ core.cycle.toNat - b.last then
      .next (s.putCore { core with banks := core.banks.setIfInBounds bank { b with state := .retention } })
    else .next s

/-- A strand on a core whose bank has woken may issue again. -/
def Strand.bankUp (t : Strand) (now : Nat) : Strand :=
  if t.bankStall then { t with bankStall := false, readyAt := now, urgent := false } else t

/-- BANK_WAKE: the bank is powered and the strands that waited for it are ready. -/
def execBankWake (c : CoreId) (bank : Nat) (s : State) : Out :=
  let core := s.core c
  match core.banks[bank]? with
  | none => .next s
  | some b =>
    match b.state with
    | .waking _ =>
      let now := core.cycle.toNat
      .next ((s.putCore { core with banks := core.banks.setIfInBounds bank ⟨.powered, now⟩ }).mapStrands fun t =>
        if coreOf t.at_ == c then t.bankUp now else t)
    | _ => .next s


/-- STRAND_URGENT. -/
def execStrandUrgent (slot : SlotId) (s : State) : Out :=
  .next (s.onStrand slot fun t =>
    if t.phase == .live && t.wait.isNone && t.frame.isNone && !t.bankStall && !t.heldUp && !s.engineHalted t &&
        decide (urgentAfter ≤ s.now slot - t.ageFrom) then
      s.putStrand { t with urgent := true }
    else s)

/-- WAITP_END. -/
def execWaitpEnd (slot : SlotId) (s : State) : Out :=
  .next (s.onStrand slot fun t =>
    match t.wait with
    | some (.waitp until_) => if s.waitMoves t && decide (until_ ≤ s.now slot) then s.finishWait t else s
    | _ => s)

/-- Whether a strand has engine work, posted operations or space-D stores outstanding. -/
def State.hasWork (s : State) (t : Strand) : Bool :=
  !t.ops.isEmpty || (s.core (coreOf t.at_)).copies.any (fun o => o.owner == t.at_) || s.owesAt t .pod allStreams

/-- Whether a region belongs to a strand. -/
def Region.ownedBy (r : Region) (slot : SlotId) : Bool := match r.owner with | .handle i _ => i == slot | .tagged .. => false

/-- STRAND_END: an EXIT whose engine work has completed frees the strand's regions and empties its slot. -/
def execStrandEnd (slot : SlotId) (s : State) : Out :=
  .next (s.onStrand slot fun t =>
    if t.wait == some .exit && s.waitMoves t && t.pending.isEmpty && !s.hasWork t then
      let core := s.core (coreOf slot)
      (s.putCore { core with regions := core.regions.filter fun r => !r.ownedBy slot }).dropStrand slot
    else s)

end Sys2Proof.Machine
end

