-- ==== Sys2Proof/Machine/Debugger.lean ====
section
/-! DEFINITION. The debug window of a core: halt, step, attach, and the reads and writes of DBGDATA (17 R324 to R326; 16
R308). -/

namespace Sys2Proof.Machine

/-- Replaces the debug window of a core. -/
def State.setDebug (s : State) (c : CoreId) (f : Debug → Debug) : State :=
  let core := s.core c
  s.putCore { core with dbg := f core.dbg }

/-- Sets VOID for every launch with a strand on a core. -/
def State.voidCore (s : State) (c : CoreId) : State := ((s.strandsOn c).filter fun t => !t.super).foldl (fun s t => s.setVoid t.launch) s

/-- The waits of a core's strands end as at a checkpoint, but for the runtime strand and parked strands. -/
def State.haltWaits (s : State) (c : CoreId) : State :=
  let ends := fun (t : Strand) => coreOf t.at_ == c && !(t.super || t.frame.isSome || t.phase != .live)
  let s1 := (s.strands.filter ends).foldl State.dropWaiter s
  s1.mapStrands fun t => if ends t then t.endWait else t

/-- DBG_HALT_SET: issue stops at once; with DRAIN, HALTED waits for QUIET. A write to HALT sets VOID whether the core was halted
before or not (R326). -/
def execDbgHaltSet (c : CoreId) (drain : Bool) (s : State) : Out :=
  let was := (s.core c).dbg.halt
  let s1 := s.setDebug c fun d =>
    { d with halt := true, drain := drain, halted := d.halted || !drain || d.quiet, mark := if was then d.mark else s.nextCopy }
  s.byHost <| .next ((if was then s1 else (s1.haltWaits c).settleTeams).voidCore c)

/-- DBG_HALT_CLEAR: issue, copies and matrix operations start again. DRAIN is 0 after it; a write of DRAIN beside a clear HALT is
a REGISTER_WRITE of DBGCTL after it. -/
def execDbgHaltClear (c : CoreId) (s : State) : Out :=
  let was := (s.core c).dbg.halt
  let s1 := s.setDebug c fun d =>
    { d with halt := false, drain := false, halted := false, quiet := false, stepping := false }
  let goes := fun (t : Strand) => if coreOf t.at_ == c && !t.super then { t with readyAt := s1.now t.at_ } else t
  s.byHost <| .next ((if was then (s1.mapStrands goes).settleTeams else s1).voidCore c)

/-- Whether the run of a copy touches a core's scratchpad. -/
def runMeetsCore (c : CoreId) (r : Nat × Nat) : Bool :=
  let a := r.1 % 2 ^ 64
  r.2 != 0 && decide (a / 2 ^ 21 ≤ c.core % 4) && decide (c.core % 4 ≤ (a + r.2 - 1) / 2 ^ 21)

/-- Whether a copy of core `own` writes into the scratchpad of core `c`. -/
def State.reaches (s : State) (own c : CoreId) (o : CopyOp) : Bool :=
  (o.dsp == .l && own == c) || (o.dsp == .q && (s.destRuns o).any (runMeetsCore c))

/-- Whether a copy into a core's scratchpad that was issued before the halt, on any core of its quad, has neither completed nor
failed nor suspended. One that cannot go on, behind another or behind an open join, counts too (17 R325). -/
def State.copiesLand (s : State) (c : CoreId) : Bool :=
  (List.range 4).any fun i =>
    let own : CoreId := ⟨c.die, c.core / 4 * 4 + i⟩
    (s.core own).copies.any fun o => !o.suspended && decide (o.num < (s.core c).dbg.mark) && s.reaches own c o

/-- Whether a core is quiet: every access that its strands have issued is performed, and every copy into its scratchpad is over. A
matrix operation of a halted core stands at a unit boundary. -/
def State.isQuiet (s : State) (c : CoreId) : Bool :=
  ((s.strandsOn c).all fun t => t.super || !(t.wait.any Wait.mustFinish || s.owesAt t .pod allStreams)) && !s.copiesLand c

/-- DBG_QUIET. -/
def execDbgQuiet (c : CoreId) (s : State) : Out :=
  if (s.core c).dbg.halt && s.isQuiet c then .next (s.setDebug c fun d => { d with quiet := true, halted := true }) else .next s

/-- DBG_STEP: the strand in STEPSLOT issues one instruction, after which the core is no longer known to be quiet. -/
def execDbgStep (c : CoreId) (s : State) : Out :=
  s.byHost <| if (s.core c).dbg.halted then .next (s.setDebug c fun d => { d with stepping := true, quiet := false }) else .next s

/-- DBG_ATTACH: BRK of open-world strands goes to the debugger. -/
def execDbgAttach (c : CoreId) (s : State) : Out := s.byHost <| .next ((s.setDebug c fun d => { d with attach := true }).voidCore c)

/-! ## DBGADDR and DBGRSTAT (R324) -/

/-- The fields of DBGADDR. -/
def Debug.kind (d : Debug) : Nat := field d.addr.toNat 60 4
def Debug.slot (d : Debug) : Nat := field d.addr.toNat 56 4
def Debug.index (d : Debug) : Nat := field d.addr.toNat 0 56

/-- What a read or write of the debugger answers: the value, or why not. -/
inductive DbgAnswer
  | value (v : Nat)
  | fault
  | refused
  | grotto
  deriving DecidableEq, Repr

/-- DBGRSTAT but for UNSTABLE. -/
def DbgAnswer.stat : DbgAnswer → Nat
  | .value _ => 0
  | .fault => 8
  | .refused => 2
  | .grotto => 6

/-- DBGDATA. -/
def DbgAnswer.data : DbgAnswer → Nat
  | .value v => v
  | _ => 0

/-- The 8 bytes of a chunk of a 2,048-bit register. -/
def chunkOf (r : BitVec 2048) (k : Nat) : Nat := field r.toNat (64 * k) 64

/-- A 2,048-bit register with a chunk replaced. -/
def setChunk (r : BitVec 2048) (k v : Nat) : BitVec 2048 :=
  BitVec.ofNat 2048 (r.toNat - chunkOf r k * 2 ^ (64 * k) + v % 2 ^ 64 * 2 ^ (64 * k))

/-- Whether a debugger's access by KIND is refused for a confidential world: all but the reads of VPC and TCAUSE. The
scratchpad is refused while a strand on the core is confidential, or the launch whose bytes it holds (log entry 25). -/
def State.dbgConfidential (s : State) (c : CoreId) (kind : Nat) (slot : Option Strand) : Bool :=
  if kind == 3 then
    ((s.strandsOn c).any fun t => t.world != 0) || (s.launch? (s.core c).launch).any fun l => l.world != 0
  else slot.any fun t => t.world != 0

/-- Eight scratchpad bytes. -/
def Core.dbgScratch (c : Core) (a : Nat) : DbgAnswer :=
  if 2 ^ 21 < a + 8 then .fault
  else if (List.range 8).any fun i => c.grottoAt (a + i) then .grotto
  else .value (leValue (memBytes c.spad a 8))

/-- The physical runs of eight virtual bytes of a strand's world, in pages of that world. -/
def State.dbgRuns (s : State) (t : Strand) (a : Nat) : Except DbgAnswer (List PhysRun) :=
  match worldRuns s t.world (fun pte => pteWorld pte == t.world) 2 a 8 with
  | none => .error .fault
  | some l => if (worldRuns s t.world (fun pte => !pteG pte) 2 a 8).isNone then .error .grotto else .ok l

/-- The virtual PC of a strand. -/
def Strand.dbgPc (t : Strand) : Word := match t.frame with | some f => f.vpc | none => t.pc

/-- The bank that a register access of the debugger touches. -/
def Debug.bank (d : Debug) : Option Nat :=
  if d.kind == 0 then some (d.index / 8)
  else if d.kind == 1 then some (d.index / 32 / 4)
  else if d.kind == 2 then some (d.index / 32 / 2)
  else none

/-- Whether the host may see the registers of a strand: it is parked, or its core is halted (04 R89). -/
def Debug.sees (d : Debug) (t : Strand) : Bool := d.halted || t.frame.isSome

/-- What the debugger reads; p0 reads all ones (01 R13). A grotto byte sets GROTTO in any world, and other reads are refused for a
confidential one (17 R326). A read of the registers or of the VPC of a strand that is neither parked nor on a halted core is refused
(04 R89). The spec does not say what a KIND of 7 to 15 does: it is refused (log entry 25), and a write leaves the field, so that
DBGADDR never holds one. -/
def State.dbgRead (s : State) (c : CoreId) : DbgAnswer :=
  let core := s.core c
  let d := core.dbg
  let slot := s.strand? ⟨c.die, c.core, d.slot⟩
  let kind := d.kind
  let i := d.index
  let hidden := kind != 4 && kind != 5 && s.dbgConfidential c kind slot
  let shown := fun (a : DbgAnswer) => if hidden && a != .grotto then .refused else a
  if 7 ≤ kind then .refused
  else if kind == 3 then shown (core.dbgScratch i)
  else
    match slot with
    | none => .fault
    | some t =>
      if kind == 6 then shown (match s.dbgRuns t i with | .error e => e | .ok l => .value (leValue (s.runBytes l)))
      else if hidden || (kind != 5 && !d.sees t) then .refused
      else if kind == 0 then (match t.regs.s[i]? with | some x => .value x.toNat | none => .fault)
      else if kind == 1 then (match t.regs.v[i / 32]? with | some x => .value (chunkOf x (i % 32)) | none => .fault)
      else if kind == 2 then
        (if i / 32 < 16 then .value (chunkOf (BitVec.ofNat 2048 (t.rp (i / 32))) (i % 32)) else .fault)
      else if kind == 4 then .value t.dbgPc.toNat
      else .value ((t.frame.map Frame.cause).getD 0)

/-- Reads of scratchpad and memory before QUIET are unstable. -/
def Debug.unstable (d : Debug) : Bool := (d.kind == 3 || d.kind == 6) && !d.quiet

/-- The bank that the debugger reads starts to wake where it is in retention (01 R24). -/
def State.dbgTouch (s : State) (c : CoreId) : State :=
  let core := s.core c
  match core.dbg.bank with
  | none => s
  | some b => s.putCore (core.mapBanks [b] fun b => b.startWake core.cycle.toNat)

/-- DBG_DATA_READ. -/
def execDbgDataRead (c : CoreId) (s : State) : Out :=
  let a := s.dbgRead c
  s.byHost <| .next ((s.dbgTouch c).setDebug c fun d =>
    { d with data := BitVec.ofNat 64 a.data, rstat := a.stat + boolNat d.unstable })

/-- A strand with a register written by the debugger; none where the index is out of range. A write to p0 is discarded. -/
def Strand.dbgSet (t : Strand) (kind i v : Nat) : Option Strand :=
  if kind == 0 then (if i < 64 then some (t.setN i v) else none)
  else if kind == 1 then
    (t.regs.v[i / 32]?).map fun x => { t with regs := { t.regs with v := t.regs.v.setIfInBounds (i / 32) (setChunk x (i % 32) v) } }
  else if i / 32 == 0 then some t
  else
    (t.regs.p[i / 32]?).map fun x => { t with regs := { t.regs with p := t.regs.p.setIfInBounds (i / 32) (setChunk x (i % 32) v) } }

/-- Where a strand goes on. -/
def Strand.dbgSetPc (t : Strand) (v : Nat) : Strand :=
  match t.frame with
  | some f => { t with frame := some { f with vpc := BitVec.ofNat 64 v } }
  | none => t.standAt (BitVec.ofNat 64 v)

/-- The debugger writes a strand's registers, VPC or memory. -/
def State.dbgWriteStrand (s : State) (t : Strand) (kind i v : Nat) : State × DbgAnswer :=
  if kind == 4 then (if v % 8 == 0 then (s.putStrand (t.dbgSetPc v), .value v) else (s, .refused))
  else if kind == 5 then (s, .refused)
  else if kind == 6 then
    match s.dbgRuns t i with
    | .error e => (s, e)
    | .ok l => (s.storeAt (runLocs l) (leBytes 8 v), .value v)
  else
    match t.dbgSet kind i v with
    | some t' => (s.putStrand t', .value v)
    | none => (s, .fault)

/-- The debugger writes: only when the core is HALTED and QUIET, and never to a confidential world. -/
def State.dbgWrite (s : State) (c : CoreId) (v : Nat) : State × DbgAnswer :=
  let core := s.core c
  let d := core.dbg
  let slot := s.strand? ⟨c.die, c.core, d.slot⟩
  if !(d.halted && d.quiet) || 7 ≤ d.kind || s.dbgConfidential c d.kind slot then (s, .refused)
  else if d.kind == 3 then
    match core.dbgScratch d.index with
    | .value _ =>
      let ls := (List.range 8).map fun i => Loc.spad c (d.index + i)
      (s.storeAt ls (leBytes 8 v), .value v)
    | e => (s, e)
  else
    match slot with
    | none => (s, .fault)
    | some t => s.dbgWriteStrand t d.kind d.index v

/-- DBG_DATA_WRITE. -/
def execDbgDataWrite (c : CoreId) (data : Nat) (s : State) : Out :=
  let (s1, a) := s.dbgWrite c (data % 2 ^ 64)
  s.byHost <| .next (s1.setDebug c fun d => { d with data := BitVec.ofNat 64 data, rstat := a.stat })

end Sys2Proof.Machine
end

