-- ==== Sys2Proof/Machine/Fabric.lean ====
section
/-! DEFINITION. The pod and its leases: manifest, routes, pod worlds and groups, LEASE, UNLEASE, LEASEQ, PODID and the lease
controllers (19 R331 to R346). -/

namespace Sys2Proof.Machine

/-! ## The plane over GF(32) (R331, R332) -/

/-- Multiplication by x modulo x^5 + x^2 + 1. -/
def gfDouble (a : Nat) : Nat := if 16 ≤ a then (2 * a) ^^^ 0x25 else 2 * a

/-- `x^i · a`. -/
def gfShift (a : Nat) : Nat → Nat
  | 0 => a
  | i + 1 => gfDouble (gfShift a i)

/-- Multiplication in GF(32). -/
def gfMul (a b : Nat) : Nat := (List.range 5).foldl (fun acc i => if bitAt b i then acc ^^^ gfShift a i else acc) 0

/-- The inverse of a nonzero element. -/
def gfInv (a : Nat) : Nat := ((List.range 32).find? fun b => gfMul a b == 1).getD 0

/-- A point. -/
abbrev Point := Nat × Nat × Nat

/-- Coordinates below 32 with the first nonzero one equal to 1. -/
def Point.normalised (p : Point) : Bool :=
  p.1 < 32 && p.2.1 < 32 && p.2.2 < 32 &&
    (if p.1 != 0 then p.1 == 1 else if p.2.1 != 0 then p.2.1 == 1 else p.2.2 == 1)

/-- The inner product. -/
def dot (x y : Point) : Nat := gfMul x.1 y.1 ^^^ gfMul x.2.1 y.2.1 ^^^ gfMul x.2.2 y.2.2

/-- Adjacency. -/
def adjacent (x y : Point) : Bool := x != y && dot x y == 0

/-- A point scaled so that its first nonzero coordinate is 1. -/
def normalise (p : Point) : Point :=
  let k := gfInv (if p.1 != 0 then p.1 else if p.2.1 != 0 then p.2.1 else p.2.2)
  (gfMul k p.1, gfMul k p.2.1, gfMul k p.2.2)

/-- The cross product. -/
def cross (x y : Point) : Point :=
  normalise (gfMul x.2.1 y.2.2 ^^^ gfMul x.2.2 y.2.1, gfMul x.2.2 y.1 ^^^ gfMul x.1 y.2.2, gfMul x.1 y.2.1 ^^^ gfMul x.2.1 y.1)

/-! ## The manifest (R331) -/

/-- The entry of a device. -/
def manifestEntry (m : Manifest) (d : Nat) : Option ManifestEntry := m.entries.find? fun e => e.dev == d

/-- The port of a device that is cabled to another. -/
def cableTo (e : ManifestEntry) (d : Nat) : Option Nat :=
  (List.range e.ports.length).find? fun k => match e.ports[k]? with | some (some far) => far.1 == d | _ => false

/-- Whether the far ends of a device's ports point back at it. -/
def cablesMatch (m : Manifest) (e : ManifestEntry) : Bool :=
  (List.range e.ports.length).all fun k =>
    match e.ports[k]? with
    | some (some far) =>
      match manifestEntry m far.1 with
      | some f => (f.ports[far.2]?).getD none == some (e.dev, k)
      | none => false
    | _ => true

/-- Whether no entry stands twice in a list. -/
def allDistinct {α : Type} [BEq α] (l : List α) : Bool := (uniq l).length == l.length

/-- Whether a Hallmark accepts a manifest. -/
def manifestOk (m : Manifest) : Bool :=
  m.proofsOk && (manifestEntry m m.self).isSome && allDistinct (m.entries.map ManifestEntry.dev) &&
    allDistinct (m.entries.map ManifestEntry.point) &&
    m.entries.all fun e =>
      e.dev ≤ 1056 && Point.normalised e.point && e.ports.length ≤ 33 && cablesMatch m e &&
        m.entries.all fun f => e.dev == f.dev || (cableTo e f.dev).isSome == adjacent e.point f.point

/-! ## The routing table (R332, R333, R337) -/

/-- The neighbour through which the minimal route goes; none where there is none. -/
def viaOf (m : Manifest) (me dst : ManifestEntry) : Option Nat :=
  if adjacent me.point dst.point then some dst.dev
  else (m.entries.find? fun e => e.point == cross me.point dst.point).map ManifestEntry.dev

/-- Port and neighbour of the minimal route to each other member. -/
def hopsOf (m : Manifest) (me : ManifestEntry) : List (Nat × Nat × Nat) :=
  (m.entries.filter fun e => e.dev != me.dev).map fun e =>
    match viaOf m me e with
    | some v => (e.dev, (cableTo me v).getD noPort, v)
    | none => (e.dev, noPort, noDevice)

/-- The slot of a destination on its port: 0 for the neighbour, then the two-hop destinations in ascending order. -/
def slotOf (hops : List (Nat × Nat × Nat)) (h : Nat × Nat × Nat) : Nat :=
  if h.2.1 == noPort || h.2.2 == h.1 then 0
  else 1 + (hops.filter fun x => x.2.1 == h.2.1 && x.2.2 != x.1 && x.1 < h.1).length

/-- Draws up to `n` members in turn. -/
def drawAlts (podId src dst : Nat) : Nat → Nat → List Nat → List Nat
  | 0, _, _ => []
  | n + 1, i, l =>
    match l with
    | [] => []
    | _ =>
      let a := nth l (Config.altDraw podId src dst i % l.length) 0
      a :: drawAlts podId src dst n (i + 1) (l.filter (· != a))

/-- The routing table. -/
def routesOf (m : Manifest) (podId : Nat) (me : ManifestEntry) : List Route :=
  let hops := hopsOf m me
  let members := sortBy id (m.entries.map ManifestEntry.dev)
  hops.map fun h =>
    ⟨h.1, h.2.2 == h.1, h.2.1, h.2.2, slotOf hops h,
      drawAlts podId me.dev h.1 3 0 (members.filter fun d => d != me.dev && d != h.1)⟩

/-- A port of a formed pod: cabled or not, every wavelength OFF, DOWN from now on. -/
def formPort (old : Port) (far : Option (Nat × Nat)) (now : Nat) : Port :=
  { Port.reset old.port with peer := far, quota := old.quota, termlog := old.termlog, downSince := some now }

/-- What a manifest lists of a device, as numbers. -/
def entryNumbers (e : ManifestEntry) : List Nat :=
  [e.dev, e.identity, e.point.1, e.point.2.1, e.point.2.2] ++ e.ports.flatMap fun x => match x with
    | some far => [far.1, far.2]
    | none => [0xFFFF]

/-- The pod identifier: bytes 0 to 3 of SHA-384 of the manifest, little-endian (log entries 5 and 51). -/
def podIdOf (m : Manifest) : Nat := Config.sha384 (Config.manifestBytes (m.entries.flatMap entryNumbers)) % 2 ^ 32

/-- MANIFEST_DELIVERY: an accepted manifest sets the pod identifier and DEVICE, the routing table and the ports. -/
def execManifestDelivery (m : Manifest) (s : State) : Out :=
  match if manifestOk m && !s.fabric.off then manifestEntry m m.self else none with
  | none => .next s
  | some me =>
    let podId := podIdOf m
    let ports := (List.range 33).map fun k => formPort (s.port k) ((me.ports[k]?).getD none) s.pkgCycle
    .next { s with fabric := { s.fabric with
      member := some me.dev, podId := podId, routes := routesOf m podId me, ports := ports
      worlds := [], groups := [], unreachable := [] } }

/-! ## Pod worlds and groups (R335) -/

/-- Whether a device is a member of the pod: this one or one with a route entry. -/
def State.inPod (s : State) (d : Nat) : Bool := s.fabric.member == some d || (s.routeTo d).isSome

/-- POD_WORLD_REGISTER. -/
def execPodWorldRegister (num world : Nat) (members : List Nat) (s : State) : Out :=
  if s.fabric.member.isSome && 1 ≤ num && num ≤ 65535 && (s.world? world).isSome && s.fabric.worlds.length < 64 &&
      (s.podWorldOf world).isNone && (s.localWorld num).isNone && members.contains s.deviceId && members.all s.inPod &&
      allDistinct members then
    .next { s with fabric := { s.fabric with worlds := s.fabric.worlds ++ [⟨num, world, members⟩] } }
  else .next s

/-- MCAST_GROUP_REGISTER: refused when the members' records differ (`agree` false). -/
def execMcastGroupRegister (num group root : Nat) (members : List Nat) (agree : Bool) (s : State) : Out :=
  match s.localWorld num with
  | none => .next s
  | some p =>
    if agree && group ≤ 2047 && members.contains root && members.all p.members.contains && allDistinct members &&
        (s.groupRoot p group).isNone then
      .next { s with fabric := { s.fabric with groups := s.fabric.groups ++ [⟨num, group, root, members⟩] } }
    else .next s

/-! ## PODID (R345) -/

/-- A routing table entry as a word (R333). -/
def Route.word (r : Route) : Nat :=
  let alt := fun (i : Nat) => nth r.alts i noDevice
  2 ^ 63 + boolNat r.direct * 2 ^ 62 + r.port * 2 ^ 56 + r.via * 2 ^ 45 + r.slot * 2 ^ 39 + alt 0 * 2 ^ 22 + alt 1 * 2 ^ 11 + alt 2

/-- PODID `.pod`: 0 outside any pod. -/
def State.podWord (s : State) : Nat := if s.fabric.member.isSome then 2 ^ 32 + s.fabric.podId else 0

/-- What PODID reads. -/
def State.podidWord (s : State) (t : Strand) (sel d : Nat) : Nat :=
  let pod := if s.fabric.member.isSome then s.podWorldOf t.world else none
  if sel == 0 then s.podWord
  else if sel == 1 then (if s.fabric.member.isSome then ((s.routeTo d).map Route.word).getD 0 else 0)
  else if sel == 2 then boolNat (pod.any fun p => p.members.contains d)
  else (pod.map fun p => p.members.length).getD 0

def execPodid (g : Guard) (d a sel : Nat) (s : State) : Out :=
  gated (.podid g d a sel) s fun s t => s.complete (t.setN d (s.podidWord t sel (t.rn a % 2048)))

/-! ## Lease records (R339, R343, R344) -/

/-- The record of a world toward a destination. -/
def Port.lease (p : Port) (world dst : Nat) : Option Lease := p.leases.find? fun l => l.world == world && l.dst == dst

/-- Stores a record; one with COUNT 0 and no pending entry is removed. -/
def Port.putLease (p : Port) (l : Lease) : Port :=
  if l.waves.isEmpty && l.pend == 0 then { p with leases := p.leases.filter fun x => !(x.world == l.world && x.dst == l.dst) }
  else { p with leases := upsert (fun x => (x.world, x.dst)) l p.leases }

/-- Wavelengths a world holds and waits for on a port. -/
def Port.claimed (p : Port) (world : Nat) : Nat :=
  ((p.leases.filter fun l => l.world == world).map fun l => l.waves.length + l.pend).foldl (· + ·) 0

/-- The free UP pool wavelengths of a port. -/
def Port.freeWaves (p : Port) (pool : List Nat) : List Nat := pool.filter fun w => p.txUp w && (p.holderOf w).isNone

/-- A wavelength joins a record; the first one starts the term. -/
def Lease.take (l : Lease) (w now termlog : Nat) : Lease :=
  let l' := { l with waves := sortBy id (w :: l.waves) }
  if l.waves.isEmpty then { l' with start := now, term := 2 ^ termlog, revocable := false } else l'

/-- Wavelengths leave a record, and what it borrowed for them. -/
def Lease.giveBack (l : Lease) (ws : List Nat) : Lease :=
  let left := l.waves.filter fun w => !ws.contains w
  { l with waves := left, loans := l.loans.filter fun x => left.contains x.1, revocable := l.revocable && !left.isEmpty }

/-- Ends the pending entry of a record. -/
def Port.dropPending (p : Port) (world dst : Nat) : Port :=
  { p with pendList := p.pendList.filter fun e => !(e.1 == world && e.2.1 == dst) }

/-- A free wavelength goes to a pending entry. -/
def Port.grantTo (p : Port) (world dst w now : Nat) : Port :=
  match p.lease world dst with
  | none => p
  | some l =>
    let l' := { l.take w now p.termlog with pend := l.pend - 1 }
    let p' := p.putLease l'
    if l'.pend == 0 then p'.dropPending world dst else p'

/-- Loans (R344): those whose original is UP again, or whose wavelength is not UP, end; each leased wavelength that is not UP
borrows the lowest free one. -/
def Port.settleLoans (p : Port) (pool : List Nat) : Port :=
  let p1 := { p with leases := p.leases.map fun (l : Lease) =>
    { l with loans := l.loans.filter fun x => l.waves.contains x.1 && !p.txUp x.1 && p.txUp x.2 } }
  let wants := p1.leases.flatMap fun l =>
    (l.waves.filter fun w => !p.txUp w && !l.loans.any fun x => x.1 == w).map fun w => (l.world, l.dst, w)
  wants.foldl (fun p x =>
    match p.lease x.1 x.2.1, (p.freeWaves pool).head? with
    | some l, some w => p.putLease { l with loans := l.loans ++ [(x.2.2, w)] }
    | _, _ => p) p1

/-- Stores a port after its leases or wavelengths have changed, and sends what can go now. -/
def State.settlePort (s : State) (p : Port) : State := (s.putPort (p.settleLoans (s.pool p.port))).drainPort p.port

/-! ## LEASE, UNLEASE and LEASEQ (R340 to R342, R346) -/

/-- The checks that the lease instructions share: the destination, or the trap. -/
def State.leaseTarget (s : State) (t : Strand) (dst : Nat) : Except Trap Nat :=
  if (s.podTarget t.world dst).isNone || dst == s.deviceId then .error (bounds 25) else .ok dst

/-- KEY_EXHAUSTED when the port's direction is STOPPED (R357). -/
def State.leaseStopped (s : State) (port : Nat) : Bool := port != noPort && ((s.port port).link .tx).isStopped

/-- The lease controller serves a LEASE: the port and what was granted. -/
def State.serveLease (s : State) (world dst port k : Nat) (nw : Bool) : Port × Nat :=
  let p := s.port port
  let want := min k (p.quota - p.claimed world)
  let free := if p.pendList.isEmpty && !s.unreachableTo dst then p.freeWaves (s.pool port) else []
  let granted := free.take want
  let r := (p.lease world dst).getD ⟨world, dst, [], [], 0, 0, 0, false⟩
  let r1 := granted.foldl (fun l w => l.take w s.pkgCycle p.termlog) r
  let more := if nw then 0 else want - granted.length
  let p1 := p.putLease { r1 with pend := r.pend + more }
  let p2 := if more != 0 && r.pend == 0 then { p1 with pendList := p1.pendList ++ [(world, dst, s.pkgCycle)] } else p1
  (p2, granted.length)

def execLease (g : Guard) (d a b : Nat) (nw : Bool) (s : State) : Out :=
  gated (.lease g d a b nw) s fun s t =>
    match s.leaseTarget t (t.rn a % 2048) with
    | .error x => s.trap t x
    | .ok dst =>
      let k := t.rn b
      let port := s.portTo dst
      if k == 0 || 128 < k then s.trap t (bounds 26)
      else if s.leaseStopped port then s.trap t (linkExhausted port)
      else if port == noPort then s.complete (t.setN d 0)
      else let (p, n) := s.serveLease t.world dst port k nw; (s.settlePort p).complete (t.setN d n)

/-- The lease controller serves an UNLEASE: the port and the COUNT left. -/
def Port.serveUnlease (p : Port) (world dst n : Nat) : Port × Nat :=
  match p.lease world dst with
  | none => (p, 0)
  | some l =>
    if n == 0 then ((p.putLease { l.giveBack l.waves with pend := 0 }).dropPending world dst, 0)
    else
      let l' := l.giveBack (l.waves.drop (l.waves.length - n))
      (p.putLease l', l'.waves.length)

def execUnlease (g : Guard) (d a b : Nat) (s : State) : Out :=
  gated (.unlease g d a b) s fun s t =>
    match s.leaseTarget t (t.rn a % 2048) with
    | .error x => s.trap t x
    | .ok dst =>
      let port := s.portTo dst
      if s.leaseStopped port then s.trap t (linkExhausted port)
      else if port == noPort then s.complete (t.setN d 0)
      else let (p, n) := (s.port port).serveUnlease t.world dst (t.rn b); (s.settlePort p).complete (t.setN d n)

/-- Whether a record's term has ended. -/
def Lease.ended (l : Lease) (now : Nat) : Bool := !l.waves.isEmpty && (l.revocable || decide (l.start + l.term ≤ now))

/-- The word of LEASEQ. -/
def Lease.word (l : Lease) (port now : Nat) : Nat :=
  boolNat (l.ended now) * 2 ^ 63 + boolNat (l.pend != 0) * 2 ^ 62 + port * 2 ^ 56 + l.waves.length * 2 ^ 48 + l.pend * 2 ^ 40 +
    (if l.waves.isEmpty || l.ended now then 0 else l.start + l.term - now)

def execLeaseq (g : Guard) (d a : Nat) (s : State) : Out :=
  gated (.leaseq g d a) s fun s t =>
    match s.leaseTarget t (t.rn a % 2048) with
    | .error x => s.trap t x
    | .ok dst =>
      let port := s.portTo dst
      s.complete (t.setN d (match (s.port port).lease t.world dst with
        | some l => l.word port s.pkgCycle
        | none => port * 2 ^ 56))

/-! ## The lease controller's own steps (R343, R344) -/

/-- LEASE_WAVELENGTH_FREE: a free UP pool wavelength goes to the oldest pending entry. -/
def execLeaseWavelengthFree (port wave : Nat) (s : State) : Out :=
  let p := s.port port
  match p.pendList.head? with
  | none => .next s
  | some e =>
    if (p.freeWaves (s.pool port)).contains wave then .next (s.settlePort (p.grantTo e.1 e.2.1 wave s.pkgCycle)) else .next s

/-- LEASE_TERM_EXPIRY. -/
def execLeaseTermExpiry (port world dst : Nat) (s : State) : Out :=
  let p := s.port port
  match p.lease world dst with
  | none => .next s
  | some l => if l.ended s.pkgCycle then .next (s.putPort (p.putLease { l with revocable := true })) else .next s

/-- The record with the oldest START among some. -/
def oldestLease (l : List Lease) : Option Lease := (sortBy Lease.start l).head?

/-- Whether a pending entry is another record's. -/
def othersEntry (l : Lease) (e : Nat × Nat × Nat) : Bool := !(e.1 == l.world && e.2.1 == l.dst)

/-- LEASE_TERM_TAKE: the REVOCABLE record with the oldest START loses its highest wavelength to the oldest pending entry of
another record. -/
def execLeaseTermTake (port : Nat) (s : State) : Out :=
  let p := s.port port
  match oldestLease (p.leases.filter fun l => l.revocable && !l.waves.isEmpty && p.pendList.any (othersEntry l)) with
  | none => .next s
  | some l =>
    match l.waves.getLast?, p.pendList.find? (othersEntry l) with
    | some w, some e => .next (s.settlePort ((p.putLease (l.giveBack [w])).grantTo e.1 e.2.1 w s.pkgCycle))
    | _, _ => .next s

/-- How long a pending entry waits before it revokes a lease. -/
def starveBound : Nat := 2 ^ 20

/-- Wavelengths go to the pending entries in list order, as far as there are any. -/
def Port.handOut (now : Nat) : List Nat → Port → Port
  | [], p => p
  | w :: r, p =>
    match p.pendList.head? with
    | none => p
    | some e => Port.handOut now r (p.grantTo e.1 e.2.1 w now)

/-- LEASE_STARVATION_REVOKE: the longest-held lease of the other records is revoked whole, and the starving entry's wait
starts again. -/
def execLeaseStarvationRevoke (port : Nat) (s : State) : Out :=
  let p := s.port port
  match p.pendList.head? with
  | none => .next s
  | some e =>
    match if starveBound ≤ s.pkgCycle - e.2.2 then
        oldestLease (p.leases.filter fun l => !l.waves.isEmpty && othersEntry l e) else none with
    | none => .next s
    | some l =>
      let p1 := p.putLease (l.giveBack l.waves)
      let p2 := { p1 with pendList := p1.pendList.map fun x => if x == e then (e.1, e.2.1, s.pkgCycle) else x }
      .next (s.settlePort (Port.handOut s.pkgCycle (l.waves.filter p.txUp) p2))

/-- A whole revocation, as for an uncorrectable error of the record, keeping or cancelling its pending entry (20 R370). -/
def State.revokeLease (s : State) (port world dst : Nat) (cancel : Bool) : State :=
  let p := s.port port
  match p.lease world dst with
  | none => s
  | some l =>
    let l' := l.giveBack l.waves
    s.settlePort (if cancel then (p.putLease { l' with pend := 0 }).dropPending world dst else p.putLease l')

end Sys2Proof.Machine
end

