-- ==== Sys2Proof/Machine/Burin.lean ====
section
/-! DEFINITION. The Burin: module images, the checks of a graph at load, repetition vectors and channel buffers (14 R246 to
R253). -/

namespace Sys2Proof.Machine

/-- A little-endian field of `n` bytes at an offset; bytes beyond the end read as zero. -/
def leAt (bs : List Byte) (off n : Nat) : Nat := leValue ((bs.drop off).take n)

/-- Whether a run of bytes is all zero. -/
def zeroAt (bs : List Byte) (off n : Nat) : Bool := leAt bs off n == 0

/-! ## Status codes (14 R250) -/

def stSigMissing : Nat := 0x21
def stSigBad : Nat := 0x22
def stNotInPolicy : Nat := 0x23
def stRate : Nat := 0x24
def stFormat : Nat := 0x25
def stRegs : Nat := 0x26
def stUnsupported : Nat := 0x27

/-! ## Module images (14 R246, R247, R249) -/

/-- A declared channel: whether it is an output, its format code and its rate. -/
structure ChanDecl where
  out : Bool
  fmt : Nat
  rate : Nat
  deriving DecidableEq, Repr

/-- What the Burin keeps of a module. -/
structure Module where
  codeSize : Nat
  dataDist : Nat
  dataSize : Nat
  code : List Byte
  data : List Byte
  meas : Nat
  signer : Nat
  decls : Decls
  nstrands : Nat
  widths : List Nat
  chans : List ChanDecl
  deriving DecidableEq, Repr

/-- The next multiple of `m`. -/
def roundUpTo (m n : Nat) : Nat := (n + m - 1) / m * m

/-- The sizes of an image header. -/
structure ImageSizes where
  code : Nat
  dist : Nat
  data : Nat
  decl : Nat
  sig : Nat
  deriving DecidableEq, Repr

/-- The size fields of a header. -/
def imageSizes (img : List Byte) : ImageSizes := ⟨leAt img 8 4, leAt img 12 4, leAt img 16 4, leAt img 20 4, leAt img 24 4⟩

/-- The image offset of the declarations. -/
def ImageSizes.declAt (z : ImageSizes) : Nat := roundUpTo 8 (64 + z.dist + z.data)

/-- Bytes of a signature block. -/
def sigBytes : Nat := 200

/-- The reserved bytes of the declarations are zero, and DECLSIZE is 24 bytes and 8 for each channel (R246, R247). -/
def declReserved (d : List Byte) : Bool :=
  zeroAt d 11 1 && zeroAt d 18 6 && d.length == 24 + 8 * (leAt d 8 1 + leAt d 9 1) &&
    (List.range (leAt d 8 1 + leAt d 9 1)).all fun c => zeroAt d (28 + 8 * c) 4

/-- Step 1: the header, the sizes and the reserved bytes. R250 does not say that its "reserved bytes zero" takes in those of
the declarations; here it does (log entry 52). -/
def headerOk (img : List Byte) : Bool :=
  let z := imageSizes img
  let stop := z.declAt + z.decl
  64 ≤ img.length && declReserved ((img.drop z.declAt).take z.decl) && leAt img 0 4 == 0x014D5847 && leAt img 4 2 == 1 && zeroAt img 6 2 && zeroAt img 28 36 &&
    z.code % 8 == 0 && 8 ≤ z.code && z.code ≤ 2 ^ 24 && z.dist == max 4096 (roundUpTo 4096 z.code) && z.data ≤ 2 ^ 28 &&
    24 ≤ z.decl && z.decl % 8 == 0 &&
    (if z.sig == 0 then img.length == stop
     else z.sig == roundUpTo 8 stop && img.length == z.sig + sigBytes && zeroAt img (z.sig + 101) 3)

/-- Step 3 without the signer list: SIGALG and the signature. -/
def signatureOk (img : List Byte) (sig : Nat) : Bool :=
  leAt img sig 4 == 1 &&
    Config.ecdsaVerify ((img.drop (sig + 4)).take 97) ((img.drop (sig + 104)).take 96) (Config.sha384 (img.take sig))

/-- The signer hash. -/
def signerOf (img : List Byte) (sig : Nat) : Nat := Config.sha384 ((img.drop (sig + 4)).take 97)

/-- The measurement. -/
def measureOf (img : List Byte) (sig : Nat) : Nat := Config.sha384 (img.take sig ++ leBytes 48 (signerOf img sig))

/-- Step 4: the register counts are within their files. -/
def countsWithin (d : List Byte) : Bool :=
  leAt d 0 1 ≤ 64 && leAt d 1 1 ≤ 32 && leAt d 2 1 ≤ 16 && leAt d 3 1 ≤ 16 && leAt d 4 1 ≤ 16 && leAt d 5 1 ≤ 16

/-- The declared widths. -/
def declWidths (d : List Byte) : List Nat := (List.range (leAt d 10 1)).map fun i => leAt d (12 + i) 1

/-- The declared channels. -/
def declChans (d : List Byte) : List ChanDecl :=
  (List.range (leAt d 8 1 + leAt d 9 1)).map fun c => ⟨leAt d (24 + 8 * c) 1 == 1, leAt d (25 + 8 * c) 1, leAt d (26 + 8 * c) 2⟩

/-- Step 5: widths, strands, channel records and seeds, and the limits of R247 that R250 gives to no step: s, p, NIN and NOUT (DESIGN
CHOICE, log entry 60). -/
def declsOk (d : List Byte) (nseed : Nat) : Bool :=
  let nin := leAt d 8 1
  let nout := leAt d 9 1
  let nwid := leAt d 10 1
  let ws := declWidths d
  1 ≤ leAt d 0 1 && 1 ≤ leAt d 2 1 && 1 ≤ leAt d 6 2 && leAt d 6 2 ≤ 4096 && nin ≤ 16 && nout ≤ 16 && nwid ≤ 6 &&
    zeroAt d (12 + nwid) (6 - nwid) && ws.all (fun w => 1 ≤ w && w ≤ 64) &&
    ws.foldl (· + ·) 0 ≤ 64 && (nseed == 0 || nin == 0) &&
    (List.range (nin + nout)).all fun c => leAt d (24 + 8 * c) 1 == boolNat (nin ≤ c) && 1 ≤ leAt d (26 + 8 * c) 2

/-- Step 6: every code word has a defined opcode. -/
def opcodesOk (code : List Byte) : Bool :=
  (List.range (code.length / 8)).all fun i => (opcodeDecoder (leAt code (8 * i) 8 / 2 ^ 54)).isSome

/-- Whether a package's policy admits a stage. -/
def Package.admitsStage (p : Package) (meas signer : Nat) : Bool := p.policy.any fun e => e == (1, meas) || e == (2, signer)

/-- Whether a package's policy admits this device (15 R269). -/
def State.admitsDevice (s : State) (p : Package) : Bool :=
  p.policy.any fun e => if s.fabric.member.isSome then e.1 == 3 && e.2 == s.fabric.podId else e.1 == 4

/-- Step 7: the package that a stage names; a handle stays loaded while its unload waits (15 R274). -/
def State.bindingOk (s : State) (world handle meas signer : Nat) : Bool :=
  handle == 0 ||
    match s.packages.find? fun p => p.world == world && p.handle == handle with
    | none => false
    | some p => p.admitsStage meas signer && s.admitsDevice p

/-- The declarations as the strands carry them. -/
def declsOf (d : List Byte) : Decls :=
  ⟨leAt d 0 1, leAt d 1 1, leAt d 2 1, leAt d 3 1, leAt d 4 1, leAt d 5 1, leAt d 8 1, leAt d 9 1⟩

/-- A module that has passed, from its image. -/
def moduleOf (img : List Byte) : Module :=
  let z := imageSizes img
  let d := (img.drop z.declAt).take z.decl
  { codeSize := z.code, dataDist := z.dist, dataSize := z.data
    code := (img.drop 64).take z.code, data := (img.drop (64 + z.dist)).take z.data
    meas := measureOf img z.sig, signer := signerOf img z.sig
    decls := declsOf d, nstrands := leAt d 6 2, widths := declWidths d, chans := declChans d }

/-- What a launch record says of one stage (16 R294). -/
structure StageEntry where
  modAddr : Nat
  modSize : Nat
  graph : Nat
  mode : Nat
  die : Nat
  core0 : Nat
  spc : Nat
  pkg : Nat
  nseed : Nat
  seedAddr : Nat
  remain : Nat
  config : Nat
  spmap : List (Nat × Nat)
  deriving DecidableEq, Repr

/-- A channel entry of a launch record (16 R294). -/
structure ChanEntry where
  producer : Nat
  out : Nat
  consumer : Nat
  input : Nat
  deriving DecidableEq, Repr

/-- Whether step 3 accepts a signer: any for world 0, whose list is empty. -/
def State.signerAccepted (s : State) (world signer : Nat) : Bool :=
  world == 0 || (s.world? world).any fun w => w.signers.contains signer

/-- Steps 1 to 3 on the image of a stage: the status of the first failure. An image that cannot be read fails step 1. -/
def State.imageStatus (s : State) (world : Nat) (img : Option (List Byte)) : Option Nat :=
  match img with
  | none => some stUnsupported
  | some b =>
    let sig := (imageSizes b).sig
    if !headerOk b then some stUnsupported
    else if sig == 0 then some stSigMissing
    else if !signatureOk b sig || !s.signerAccepted world (signerOf b sig) then some stSigBad
    else none

/-- Steps 4 to 7 on the image of a stage. -/
def State.moduleStatus (s : State) (world : Nat) (e : StageEntry) (b : List Byte) : Option Nat :=
  let z := imageSizes b
  let d := (b.drop z.declAt).take z.decl
  let m := moduleOf b
  if !countsWithin d then some stRegs
  else if !declsOk d e.nseed then some stUnsupported
  else if !opcodesOk m.code then some stUnsupported
  else if !s.bindingOk world e.pkg m.meas m.signer then some stNotInPolicy
  else none

/-! ## Channels of a graph (14 R250 steps 8 to 11, R251 to R253; 10 R192) -/

/-- The bytes that one firing gives a channel of a format and rate. Codes: 0 FP32, 1 BF16, 2 FP16, 3 E4M3, 4 E5M2, 5 MXFP8,
6 MXFP8E5, 7 INT8, 8 INT32. -/
def firingBytes (fmt rate : Nat) : Nat :=
  if fmt == 0 || fmt == 8 then 4 * rate
  else if fmt == 1 || fmt == 2 then 2 * rate
  else if fmt == 5 || fmt == 6 then 33 * rate / 32
  else rate

/-- MX formats. -/
def mxFmt (fmt : Nat) : Bool := fmt == 5 || fmt == 6

/-- A channel entry joined with its two declarations. -/
structure Edge where
  chan : Nat
  producer : Nat
  out : Nat
  consumer : Nat
  input : Nat
  fmt : Nat
  bp : Nat
  bc : Nat
  mxOk : Bool
  deriving DecidableEq, Repr

/-- The declared inputs and outputs of a module. -/
def Module.inputsOf (m : Module) : List ChanDecl := m.chans.filter fun c => !c.out
def Module.outputsOf (m : Module) : List ChanDecl := m.chans.filter fun c => c.out

/-- The modules of a graph by stage index of the launch. -/
abbrev Modules := List (Nat × Module)

/-- The module of a stage. -/
def moduleAt (ms : Modules) (i : Nat) : Option Module := (ms.find? fun x => x.1 == i).map (·.2)

/-- Step 8: joins the entries with the declarations; the index of the first that fails otherwise. `n` numbers them. -/
def joinEdges (ms : Modules) : Nat → List ChanEntry → List Edge → Except Nat (List Edge)
  | _, [], acc => .ok acc
  | n, c :: r, acc =>
    match (moduleAt ms c.producer).bind fun m => m.outputsOf[c.out]?, (moduleAt ms c.consumer).bind fun m => m.inputsOf[c.input]? with
    | some o, some i =>
      if o.fmt != i.fmt || acc.any (fun e => e.consumer == c.consumer && e.input == c.input) then .error n
      else joinEdges ms (n + 1) r (acc ++ [⟨n, c.producer, c.out, c.consumer, c.input, o.fmt, firingBytes o.fmt o.rate,
        firingBytes i.fmt i.rate, o.rate % 32 == 0 && i.rate % 32 == 0⟩])
    | _, _ => .error n

/-- The first stage, in order, that declares a channel which no entry connects. -/
def unconnected (ms : Modules) (es : List Edge) : Option Nat :=
  ((List.range ms.length).find? fun k => match ms[k]? with
    | none => false
    | some (i, m) =>
      (List.range m.inputsOf.length).any (fun q => !es.any fun e => e.consumer == i && e.input == q) ||
      (List.range m.outputsOf.length).any (fun o => !es.any fun e => e.producer == i && e.out == o))

/-- The stages reached from some stages along the channels in at most `fuel` steps. -/
def reach (es : List Edge) : Nat → List Nat → List Nat
  | 0, l => l
  | fuel + 1, l => reach es fuel (uniq (l ++ (es.filter fun e => l.contains e.producer).map Edge.consumer))

/-- The first channel that lies on a cycle. -/
def onCycle (es : List Edge) : Option Nat :=
  (es.find? fun e => (reach es es.length [e.consumer]).contains e.producer).map Edge.chan

/-- A repetition count as a fraction, with the stage that its connected part started from. -/
structure Rep where
  stage : Nat
  root : Nat
  num : Nat
  den : Nat
  deriving DecidableEq, Repr

/-- The count of a stage, if it is known. -/
def repOf (l : List Rep) (i : Nat) : Option Rep := l.find? fun r => r.stage == i

/-- One channel gives the count of one end from the other's. -/
def spreadEdge (l : List Rep) (e : Edge) : List Rep :=
  match repOf l e.producer, repOf l e.consumer with
  | some p, none => l ++ [⟨e.consumer, p.root, p.num * e.bp, p.den * e.bc⟩]
  | none, some c => l ++ [⟨e.producer, c.root, c.num * e.bc, c.den * e.bp⟩]
  | _, _ => l

/-- Spreads the counts over a connected part. -/
def spread (es : List Edge) : Nat → List Rep → List Rep
  | 0, l => l
  | fuel + 1, l => spread es fuel (es.foldl spreadEdge l)

/-- The counts of every stage as fractions: each connected part starts from its lowest stage with 1. -/
def fractions (es : List Edge) (stages : List Nat) : List Rep :=
  stages.foldl (fun l i => if (repOf l i).isSome then l else spread es (es.length + 1) (l ++ [⟨i, i, 1, 1⟩])) []

/-- Whether the balance equation of a channel holds (R252). -/
def balanced (l : List Rep) (e : Edge) : Bool :=
  match repOf l e.producer, repOf l e.consumer with
  | some p, some c => e.bp * p.num * c.den == e.bc * c.num * p.den
  | _, _ => false

/-- The channels of the connected part of a channel. -/
def partOf (l : List Rep) (es : List Edge) (e : Edge) : List Edge :=
  es.filter fun x => (repOf l x.producer).map Rep.root == (repOf l e.producer).map Rep.root

/-- The repetition vector: the smallest positive integers, part by part. -/
def repsOf (l : List Rep) : List (Nat × Nat) :=
  l.map fun r =>
    let part := l.filter fun x => x.root == r.root
    let scale := part.foldl (fun a x => Nat.lcm a x.den) 1
    let g := part.foldl (fun a x => Nat.gcd a (x.num * scale / x.den)) 0
    (r.stage, r.num * scale / r.den / max g 1)

/-- Topological order, ties by index; `fuel` bounds it. -/
def topo (es : List Edge) : Nat → List Nat → List Nat → List Nat
  | 0, done, _ => done
  | fuel + 1, done, left =>
    match left.find? fun i => es.all fun e => e.consumer != i || done.contains e.producer with
    | none => done
    | some i => topo es fuel (done ++ [i]) (left.filter (· != i))

/-- The simulation of a period: what every producer has given, every consumer has taken, the firings left and the peaks. -/
structure Period where
  made : List (Nat × Nat)
  taken : List (Nat × Nat)
  left : List (Nat × Nat)
  peak : List (Nat × Nat)
  deriving DecidableEq, Repr

/-- The name of an output of a stage. -/
def outKey (stage out : Nat) : Nat := stage * 16 + out

/-- Bytes that an output's buffer holds: from the slowest consumer on. -/
def heldBytes (es : List Edge) (p : Period) (key : Nat) : Nat :=
  let mine := es.filter fun e => outKey e.producer e.out == key
  match mine.map fun e => assocD p.taken e.chan 0 with
  | [] => 0
  | n :: r => assocD p.made key 0 - r.foldl min n

/-- Whether a stage has firings left and its inputs hold their bytes. -/
def canFire (es : List Edge) (p : Period) (i : Nat) : Bool :=
  assocD p.left i 0 != 0 && es.all fun e =>
    e.consumer != i || e.bc ≤ assocD p.made (outKey e.producer e.out) 0 - assocD p.taken e.chan 0

/-- One firing. -/
def fire (es : List Edge) (p : Period) (i : Nat) : Period :=
  let taken := (es.filter fun e => e.consumer == i).foldl (fun l e => assocSet l e.chan (assocD l e.chan 0 + e.bc)) p.taken
  let outs := uniq ((es.filter fun e => e.producer == i).map fun e => (outKey e.producer e.out, e.bp))
  let made := outs.foldl (fun l o => assocSet l o.1 (assocD l o.1 0 + o.2)) p.made
  let p1 := { p with made := made, taken := taken, left := assocSet p.left i (assocD p.left i 0 - 1) }
  let keys := uniq (es.map fun e => outKey e.producer e.out)
  { p1 with peak := keys.map fun k => (k, max (assocD p.peak k 0) (heldBytes es p1 k)) }

/-- Fires the latest stage in the ranking that can fire, as long as one can; `fuel` bounds the firings. -/
def simulate (es : List Edge) (rank : List Nat) : Nat → Period → Period
  | 0, p => p
  | fuel + 1, p =>
    match rank.reverse.find? (canFire es p) with
    | none => p
    | some i => simulate es rank fuel (fire es p i)

/-- The capacity of each output: twice the peak, rounded up to 32 bytes. -/
def capacities (es : List Edge) (stages : List Nat) (reps : List (Nat × Nat)) : List (Nat × Nat) :=
  let total := (reps.map (·.2)).foldl (· + ·) 0
  let p := simulate es (topo es stages.length [] stages) total ⟨[], [], reps, []⟩
  p.peak.map fun x => (x.1, roundUpTo 32 (2 * x.2))

/-- The largest buffer, and the largest total on a die. -/
def bufferMax : Nat := 2 ^ 20
def dieBufferMax : Nat := 2 ^ 24

/-- The lowest channel of some outputs. -/
def lowestChan (es : List Edge) (keys : List Nat) : Nat :=
  ((es.find? fun e => keys.contains (outKey e.producer e.out)).map Edge.chan).getD 0xFF

/-- The groups of outputs whose buffers count together: by die for modes 1 and 2, by producer for mode 0. -/
def bufferGroups (entries : List StageEntry) (caps : List (Nat × Nat)) : List (List Nat) :=
  let modeOf := fun k => (entries[k / 16]?).map fun e => (e.mode, e.die)
  let fixed := (List.range 8).map fun d => (caps.map (·.1)).filter fun k => (modeOf k).any fun x => x.1 != 0 && x.2 == d
  let free := (List.range entries.length).map fun i => (caps.map (·.1)).filter fun k => k / 16 == i && (modeOf k).any fun x => x.1 == 0
  fixed ++ free

/-- Bytes of several outputs. -/
def capSum (caps : List (Nat × Nat)) (keys : List Nat) : Nat := (keys.map fun k => assocD caps k 0).foldl (· + ·) 0

/-- Step 11: the channel of a buffer that is too large, or the lowest channel of the first group whose total is (DESIGN CHOICE, log
entry 60). -/
def bufferFault (entries : List StageEntry) (es : List Edge) (caps : List (Nat × Nat)) : Option Nat :=
  match caps.find? fun c => bufferMax < c.2 with
  | some c => some (lowestChan es [c.1])
  | none => ((bufferGroups entries caps).find? fun g => dieBufferMax < capSum caps g).map (lowestChan es)

/-! ## The check of a graph -/

/-- What the check of a graph gives: its status word's fields, or its modules, channels and capacities. -/
inductive GraphCheck
  | refused (code stage chan : Nat)
  | accepted (ms : Modules) (es : List Edge) (caps : List (Nat × Nat))
  deriving DecidableEq, Repr

/-- Steps 8 to 11. An unbalanced set names the lowest channel of the whole connected part (DESIGN CHOICE, log entry 60). -/
def checkChannels (entries : List StageEntry) (ms : Modules) (cs : List ChanEntry) : GraphCheck :=
  let stages := ms.map (·.1)
  match joinEdges ms 0 cs [] with
  | .error n => .refused stFormat 0xFF n
  | .ok es =>
    match es.find? fun e => 8 < e.fmt with
    | some e => .refused stUnsupported 0xFF e.chan
    | none =>
      match es.find? fun e => mxFmt e.fmt && !e.mxOk with
      | some e => .refused stRate 0xFF e.chan
      | none =>
        match unconnected ms es, onCycle es with
        | some k, _ => .refused stRate k 0xFF
        | none, some c => .refused stRate 0xFF c
        | none, none =>
          let l := fractions es stages
          match es.find? fun e => !balanced l e with
          | some e => .refused stRate 0xFF (((partOf l es e).head?.map Edge.chan).getD e.chan)
          | none =>
            let caps := capacities es stages (repsOf l)
            match bufferFault entries es caps with
            | some c => .refused stUnsupported 0xFF c
            | none => .accepted ms es caps

/-- Steps 1 to 7 on the stages of a graph in order; `k` numbers them. Each module takes all its steps before the next one (DESIGN
CHOICE, log entry 60). -/
def checkModules (s : State) (world : Nat) : Nat → List (Nat × StageEntry) → Modules → Except (Nat × Nat) Modules
  | _, [], acc => .ok acc
  | k, (i, e) :: r, acc =>
    let img := s.read0 e.modAddr e.modSize
    match s.imageStatus world img with
    | some c => .error (c, k)
    | none =>
      let b := img.getD []
      match s.moduleStatus world e b with
      | some c => .error (c, k)
      | none => checkModules s world (k + 1) r (acc ++ [(i, moduleOf b)])

/-- The stages of a graph with their indices in the record. -/
def graphStages (entries : List StageEntry) (g : Nat) : List (Nat × StageEntry) :=
  (List.range entries.length).filterMap fun i => match entries[i]? with
    | some e => if e.graph == g then some (i, e) else none
    | none => none

/-- The channel entries of a graph. -/
def graphChans (entries : List StageEntry) (cs : List ChanEntry) (g : Nat) : List ChanEntry :=
  cs.filter fun c => (entries[c.producer]?).any fun e => e.graph == g

/-- The Burin's check of one graph (R250). -/
def State.checkGraph (s : State) (world : Nat) (entries : List StageEntry) (cs : List ChanEntry) (g : Nat) : GraphCheck :=
  match checkModules s world 0 (graphStages entries g) [] with
  | .error (c, k) => .refused c k 0xFF
  | .ok ms => checkChannels entries ms (graphChans entries cs g)

/-- The status word of a graph (R251). CHAN has eight bits: of an index above 255 the low ones (log entry 52). -/
def GraphCheck.word (r : GraphCheck) (g : Nat) : Nat :=
  match r with
  | .refused code stage chan => chan % 256 * 2 ^ 24 + stage * 2 ^ 16 + g * 2 ^ 8 + code
  | .accepted .. => 0xFF * 2 ^ 24 + 0xFF * 2 ^ 16 + g * 2 ^ 8

/-- The word of a graph that was never checked. -/
def uncheckedWord (g : Nat) : Nat := 0xFF * 2 ^ 24 + 0xFF * 2 ^ 16 + g * 2 ^ 8 + 0xFF

/-- The measurements of the modules that passed step 3, in the order of the record, up to the first failure of each
graph: the ones that a world remembers (20 R365). -/
def State.passedSigners (s : State) (world : Nat) : List StageEntry → List Nat
  | [] => []
  | e :: r =>
    let img := s.read0 e.modAddr e.modSize
    match s.imageStatus world img with
    | some _ => []
    | none =>
      let b := img.getD []
      let m := measureOf b (imageSizes b).sig
      if (s.moduleStatus world e b).isSome then [m] else m :: s.passedSigners world r

end Sys2Proof.Machine
end

