-- ==== Sys2Proof/Machine/VectorMem.lean ====
section
/-! DEFINITION. Vector loads and stores (06 R117 to R122). -/

namespace Sys2Proof.Machine

/-! ## Elements and their addresses (06 R118) -/

/-- Address of element `i` of VLD, VST and VLDFF. -/
def unitAddr (x : MemForm) (t : Strand) (i : Nat) : Nat := wrap64 (t.rn x.a + (i * szBytes x.sz : Nat) + off17 x.off)

/-- Address of element `i` of VLDS and VSTS; the stride is signed. -/
def strideAddr (x : MemForm) (t : Strand) (i : Nat) : Nat := wrap64 (t.rn x.a + i * t.ri x.b + off17 x.off)

/-- Address of element `i` of VLDX and VSTX; the index is unsigned. -/
def indexAddr (x : MemForm) (t : Strand) : Nat → Nat :=
  let idx := t.elems x.b t.ew
  fun i => wrap64 (t.rn x.a + (idx i * 2 ^ x.xs : Nat) + off17 x.off)

/-- Elements with `l`, in ascending order, put over the others: `n` of them from position `i`. -/
def mergeElems (old : Nat → Nat) : Nat → Nat → List (Nat × Nat) → List Nat
  | 0, _, _ => []
  | n + 1, i, [] => old i :: mergeElems old n (i + 1) []
  | n + 1, i, (j, v) :: r =>
    if j == i then v :: mergeElems old n (i + 1) r else old i :: mergeElems old n (i + 1) ((j, v) :: r)

/-- Writes elements of a group; a load leaves the others unchanged. -/
def Strand.putElems (t : Strand) (d : Nat) (l : List (Nat × Nat)) : Strand :=
  let n := t.grp
  let old := t.vgroup d n
  t.setGroup d n (joinElems t.ew (mergeElems (fun i => field old (t.ew * i) t.ew) t.vlmax 0 l))

/-! ## Loads (06 R119) -/

/-- Reads elements, each by all its checks; the first one that fails stops it. Gives the values read and the stop. -/
def loadElems (t : Strand) (sp : Space) (n : Nat) (addr : Nat → Nat) :
    List Nat → State → State × List (Nat × Nat) × Option (Nat × Trap)
  | [], s => (s, [], none)
  | i :: r, s =>
    match s.loadBytes t checkLoad sp (addr i) n with
    | (s1, .error x) => (s1, [], some (i, x))
    | (s1, .ok bs) => let (s2, l, stop) := loadElems t sp n addr r s1; (s2, (i, leValue bs) :: l, stop)

/-- The first element of a space-D access that fails checks 2 or 3. -/
def podElems (s : State) (t : Strand) (dev n : Nat) (addr : Nat → Nat) : List Nat → Option Trap
  | [] => none
  | i :: r =>
    match checkPod s t dev (addr i) n with
    | .error x => some x
    | .ok _ => podElems s t dev n addr r

/-- Sends one READ for each address, numbered from `tag`. -/
def State.sendReads (s : State) (p : PodWorld) (dev n : Nat) : Nat → List Nat → State
  | _, [] => s
  | tag, a :: r => (s.send ⟨s.deviceId, dev, p.num, .read, a, n, tag, []⟩).sendReads p dev n (tag + 1) r

/-- The elements of a space-D load up to the first that fails checks 2 or 3. -/
def podPrefix (s : State) (t : Strand) (dev n : Nat) (addr : Nat → Nat) : List Nat → List Nat
  | [] => []
  | i :: r =>
    match checkPod s t dev (addr i) n with
    | .error _ => []
    | .ok _ => i :: podPrefix s t dev n addr r

/-- What becomes of the replies of a load: `dest`, or the trap of the element after those sent. -/
def destOr (dest : ReplyDest) (stop : Option Trap) : ReplyDest :=
  match stop with
  | none => dest
  | some x => .fails x.cause x.addr x.info

/-- A vector load from another device: it waits for every element. The lowest element that fails gives the trap: where one
fails here, the lower ones are sent and heard first. -/
def State.loadPod (s : State) (t : Strand) (x : MemForm) (l : List Nat) (addr : Nat → Nat) (dest : ReplyDest) : State :=
  let dev := devOf x t
  let n := szBytes x.sz
  let stop := podElems s t dev n addr l
  match podPrefix s t dev n addr l, s.podTarget t.world dev with
  | i :: r, some p =>
    if s.unreachableTo dev then s.trap t (remoteTrap (addr i) 0)
    else
      let vas := (i :: r).map addr
      let (tag, t1) := t.freshTags vas.length
      ((s.usePath t.launch dev).sendReads p dev n tag vas).waitIn t1
        (.remote tag dev vas (destOr dest stop) ((List.range vas.length).map (tag + ·)) [])
  | _, _ =>
    match stop with
    | some e => s.trap t e
    | none => s.complete t

/-- VLD and VLDS: every element is checked before any is written. -/
def State.loadVec (s : State) (t : Strand) (x : MemForm) (addr : Nat → Nat) : State :=
  match loadElems t x.sp (szBytes x.sz) addr (t.activeList x.g) s with
  | (s1, _, some (_, e)) => s1.trap t e
  | (s1, l, none) => s1.complete (t.putElems x.d l)

/-- A vector access: it waits like a scalar one of its space (05 R95). -/
def vecGated (i : Instr) (x : MemForm) (s : State) (body : State → Strand → State) : Out :=
  gated i s fun s t => if s.owesSector t x.sp (devOf x t) then s.stall t .other else body s t

def execVld (x : MemForm) (s : State) : Out :=
  vecGated (.vld x) x s fun s t =>
    if x.sp == .d then s.loadPod t x (t.activeList x.g) (unitAddr x t) (.vector x.d t.ew (t.activeList x.g) false)
    else s.loadVec t x (unitAddr x t)

def execVlds (x : MemForm) (s : State) : Out := vecGated (.vlds x) x s fun s t => s.loadVec t x (strideAddr x t)

/-- VLDB: one access when some element is active, for every active element. -/
def execVldb (x : MemForm) (s : State) : Out :=
  vecGated (.vldb x) x s fun s t =>
    let l := t.activeList x.g
    let e := ea0 x t
    if x.sp == .d then s.loadPod t x (l.take 1) (fun _ => e) (.vector x.d t.ew l true)
    else
      match loadElems t x.sp (szBytes x.sz) (fun _ => e) (l.take 1) s with
      | (s1, _, some (_, tr)) => s1.trap t tr
      | (s1, got, none) => s1.complete (t.putElems x.d (l.map fun i => (i, (got.head?.map (·.2)).getD 0)))

/-! ## Stores (06 R119) -/

/-- Checks the stores of elements; the first that fails gives its trap. -/
def checkElems (t : Strand) (sp : Space) (n : Nat) (addr : Nat → Nat) :
    List Nat → State → State × Except Trap (List (Nat × List Loc))
  | [], s => (s, .ok [])
  | i :: r, s =>
    match checkAccess s t.party checkStore sp (addr i) n with
    | (s1, .error x) => (s1, .error x)
    | (s1, .ok ls) =>
      match checkElems t sp n addr r s1 with
      | (s2, .error x) => (s2, .error x)
      | (s2, .ok l) => (s2, .ok ((i, ls) :: l))

/-- Performs checked element stores at once. -/
def State.storeElems (s : State) (n : Nat) (val : Nat → Nat) : List (Nat × List Loc) → State
  | [] => s
  | (i, ls) :: r => (s.storeAt ls (leBytes n (val i))).storeElems n val r

/-- Logs checked element stores, in ascending order. -/
def logElems (n : Nat) (addr val : Nat → Nat) : List (Nat × List Loc) → Strand → Except Trap Strand
  | [], t => .ok t
  | (i, ls) :: r, t =>
    match t.held with
    | none => .ok t
    | some h =>
      match logStore t h (addr i) ls (leBytes n (val i)) with
      | .error x => .error x
      | .ok t1 => logElems n addr val r t1

/-- VST and VSTS in G, L and Q: every element is checked before any is performed. -/
def State.storeVec (s : State) (t : Strand) (x : MemForm) (addr : Nat → Nat) : State :=
  let n := szBytes x.sz
  let val := t.elems x.d t.ew
  match checkElems t x.sp n addr (t.activeList x.g) s with
  | (s1, .error e) => s1.trap t e
  | (s1, .ok l) =>
    if x.sp == .g && t.held.isSome then
      match logElems n addr val l t with
      | .error e => s1.trap t e
      | .ok t1 => s1.complete t1
    else (s1.storeElems n val l).complete t

/-- Posts element stores to another device. -/
def State.postElems (s : State) (t : Strand) (p : PodWorld) (m dev n : Nat) (addr val : Nat → Nat) :
    List Nat → State × Strand
  | [] => (s, t)
  | i :: r => let (s1, t1) := s.postStore t p m dev (addr i) (leBytes n (val i)); s1.postElems t1 p m dev n addr val r

/-- Logs element stores in space D. -/
def logPodElems (dev n : Nat) (addr val : Nat → Nat) : List Nat → State → Strand → State × Except Trap Strand
  | [], s, t => (s, .ok t)
  | i :: r, s, t =>
    match t.held with
    | none => (s, .ok t)
    | some h =>
      match s.logPod t h dev (addr i) (leBytes n (val i)) with
      | (s1, .error x) => (s1, .error x)
      | (s1, .ok t1) => logPodElems dev n addr val r s1 t1

/-- VST in space D. -/
def State.storeVecPod (s : State) (t : Strand) (x : MemForm) (addr : Nat → Nat) : State :=
  let dev := devOf x t
  let n := szBytes x.sz
  let l := t.activeList x.g
  let val := t.elems x.d t.ew
  match podElems s t dev n addr l, s.podTarget t.world dev with
  | some e, _ => s.trap t e
  | none, none => s.complete t
  | none, some p =>
    if t.held.isSome then
      match logPodElems dev n addr val l s t with
      | (s1, .error e) => s1.trap t e
      | (s1, .ok t1) => s1.complete t1
    else if t.countRoom x.m dev l.length then
      let (s1, t1) := s.postElems (t.roomFor x.m dev l.length) p x.m dev n addr val l
      s1.complete t1
    else s.stall t .other

def execVst (x : MemForm) (s : State) : Out :=
  vecGated (.vst x) x s fun s t =>
    if x.sp == .d then s.storeVecPod t x (unitAddr x t) else s.storeVec t x (unitAddr x t)

def execVsts (x : MemForm) (s : State) : Out := vecGated (.vsts x) x s fun s t => s.storeVec t x (strideAddr x t)

/-! ## Element by element: VLDX, VSTX, VLDFF (06 R120, R121)

A checkpoint or a debugger halt may stop such an instruction between two elements: the agenda then says after how many
elements, and the strand stands at the instruction with its progress and the packets that it has taken (06 R120, R141). -/

/-- The active elements from the one that a stop left. -/
def Strand.resumeList (t : Strand) (g : Guard) : List Nat :=
  let k := (t.vprog.map VProg.elem).getD 0
  (t.activeList g).filter fun i => k ≤ i

/-- The elements of this run of an instruction, and the first one after them. -/
def State.elemRun (s : State) (l : List Nat) : List Nat × Option Nat :=
  match s.elemLimit with
  | none => (l, none)
  | some n => (l.take n, (l.drop n).head?)

/-- The strand stops inside its instruction, before element `k`. -/
def Strand.stopAt (t : Strand) (k : Nat) (loaded : Bool) : Strand := { t with vprog := some ⟨k, loaded⟩ }

/-- Whether an element was loaded before the stop. -/
def Strand.loadedBefore (t : Strand) : Bool := (t.vprog.map VProg.loaded).getD false

/-- VLDX: each element by all its checks, in order. -/
def execVldx (x : MemForm) (s : State) : Out :=
  vecGated (.vldx x) x s fun s t =>
    let (now, later) := s.elemRun (t.resumeList x.g)
    match loadElems t x.sp (szBytes x.sz) (indexAddr x t) now s with
    | (s1, l, some (k, e)) => s1.trap ((t.putElems x.d l).stopAt k false) e
    | (s1, l, none) =>
      match later with
      | none => s1.complete (t.putElems x.d l)
      | some k => s1.putStrand ((t.putElems x.d l).stopAt k false)

/-- The causes that end a VLDFF without a trap. -/
def truncates (cause : Nat) : Bool := cause == causeBounds || cause == causePage || cause == causePerm

def execVldff (x : MemForm) (s : State) : Out :=
  vecGated (.vldff x) x s fun s t =>
    let (now, later) := s.elemRun (t.resumeList x.g)
    match loadElems t x.sp (szBytes x.sz) (unitAddr x t) now s with
    | (s1, l, some (k, e)) =>
      let loaded := t.loadedBefore || !l.isEmpty
      let t1 := t.putElems x.d l
      if truncates e.cause && loaded then s1.complete (t1.setN x.b k) else s1.trap (t1.stopAt k loaded) e
    | (s1, l, none) =>
      match later with
      | none => s1.complete ((t.putElems x.d l).setN x.b t.vl)
      | some k => s1.putStrand ((t.putElems x.d l).stopAt k (t.loadedBefore || !l.isEmpty))

/-- Stores elements one at a time; the first that fails stops it. -/
def storeEach (sp : Space) (n : Nat) (addr val : Nat → Nat) : List Nat → State → Strand → State × Strand × Option (Nat × Trap)
  | [], s, t => (s, t, none)
  | i :: r, s, t =>
    match s.storeBytes t sp (addr i) (leBytes n (val i)) with
    | (s1, .error x) => (s1, t, some (i, x))
    | (s1, .ok t1) => storeEach sp n addr val r s1 t1

def execVstx (x : MemForm) (s : State) : Out :=
  vecGated (.vstx x) x s fun s t =>
    let (now, later) := s.elemRun (t.resumeList x.g)
    match storeEach x.sp (szBytes x.sz) (indexAddr x t) (t.elems x.d t.ew) now s t with
    | (s1, t1, some (k, e)) => s1.trap (t1.stopAt k false) e
    | (s1, t1, none) =>
      match later with
      | none => s1.complete t1
      | some k => s1.putStrand (t1.stopAt k false)

end Sys2Proof.Machine
end

