-- ==== Sys2Proof/Machine/Target.lean ====
section
/-! DEFINITION. Space D on arrival: the accesses of other devices at this target, and the answers that come back to a strand
(05 R93, R102, R103, R104, R110; 10 R200; 15 R273; 19 R335, R348). -/

namespace Sys2Proof.Machine

/-! ## At the target -/

/-- The local world of an access: registered under its pod-world number, with the issuing device in the list. -/
def State.targetWorld (s : State) (r : RemoteAccess) : Option Nat :=
  ((s.localWorld r.podWorld).filter fun p => p.members.contains r.src).map PodWorld.world

/-- Answers an access. -/
def State.reply (s : State) (r : RemoteAccess) (status : Nat) (data : List Byte) : State :=
  s.sendReply r.podWorld ⟨s.deviceId, r.src, r.reqid, status, toNats data⟩

/-- How an access is checked. -/
def kindCheck : RemoteKind → CheckKind
  | .read => checkLoad
  | .write | .held | .release _ | .part _ | .mcast _ => checkStore
  | .atomic _ | .cas => checkAtomic
  | .perform | .probe | .discard => checkProbe

/-- Whether a kind is answered even when it succeeds. -/
def kindAnswered : RemoteKind → Bool
  | .write | .release _ | .part _ | .mcast _ | .discard => false
  | _ => true

/-- Whether the target keeps the reply for a reissue (05 R110). -/
def kindKept : RemoteKind → Bool
  | .atomic _ | .cas => true
  | _ => false

/-- Whether a kind is a posted store, whose end the issuer hears by a notice or a refusal. -/
def kindPosted : RemoteKind → Bool
  | .write | .part _ | .release _ => true
  | _ => false

/-- What an ATOM or CAS leaves: its operand is `data`, for CAS the expected value and then the new one. -/
def kindUpdate (k : RemoteKind) (n old : Nat) (data : List Byte) : Option Nat :=
  match k with
  | .atomic op => some (atomNew op (8 * n) old (leValue (data.take n)))
  | .cas => if old == leValue (data.take n) then some (leValue ((data.drop n).take n)) else none
  | _ => none

/-- The POLICY of the page of the first byte of an access, as a PIN asks it (05 R108). -/
def State.policyAt (s : State) (world va : Nat) : Nat :=
  match walkFrom s world va 4 0 (s.root world) with
  | .leaf e _ => ptePolicy e.pte
  | .fault .. => 0

/-- Performs a checked access: the state and the bytes of its reply. -/
def State.performAt (s : State) (world : Nat) (r : RemoteAccess) (ls : List Loc) : State × List Byte :=
  match r.kind with
  | .read => (s, ls.map fun l => s.byteAt [] l)
  | .probe => (s, [BitVec.ofNat 8 (s.policyAt world r.va)])
  | .write | .release _ | .part _ => (s.storeAt ls (toBytes r.data), [])
  | .held =>
    let cells := (ls.zip (toBytes r.data)).filterMap fun x => match x.1 with | .phys pa => some (pa, x.2) | .spad .. => none
    ({ s with fabric := { s.fabric with held := s.fabric.held ++ [⟨r.src, r.reqid, world, r.va, cells⟩] } }, [])
  | .atomic _ | .cas =>
    let (s1, old) := s.rmw r.len ls fun old => kindUpdate r.kind r.len old (toBytes r.data)
    (s1, leBytes r.len old)
  | .perform | .mcast _ | .discard => (s, [])

/-- Keeps the answer of an ATOM or CAS under its tag. -/
def State.keepAnswer (s : State) (r : RemoteAccess) (data : List Byte) : State :=
  if kindKept r.kind then { s with fabric := { s.fabric with answered := s.fabric.answered ++ [(r.src, r.reqid, toNats data)] } } else s

/-- The kept answer of an ATOM or CAS that was performed before. -/
def State.keptAnswer (s : State) (r : RemoteAccess) : Option (List Nat) :=
  if kindKept r.kind then (s.fabric.answered.find? fun x => x.1 == r.src && x.2.1 == r.reqid).map (·.2.2) else none

/-- An ATOM or CAS must be aligned, and its size what the instructions have; other lengths run to 65,536. -/
def accessSized (r : RemoteAccess) : Bool :=
  1 ≤ r.len && r.len ≤ 65536 && (!kindKept r.kind || r.va % r.len == 0)

/-! ### The order of performance (05 R95, R102, R109) -/

/-- Whether two runs of bytes touch a common sector. -/
def runsMeet (a b : PhysRun) : Bool :=
  a.2 != 0 && b.2 != 0 && a.1 / 32 ≤ (b.1 + b.2 - 1) / 32 && b.1 / 32 ≤ (a.1 + a.2 - 1) / 32

/-- The physical runs of an access here; none where its world has no translation for all of it. -/
def State.accessRuns (s : State) (r : RemoteAccess) : List PhysRun :=
  ((s.localWorld r.podWorld).bind fun p => worldRuns s p.world (fun _ => true) (r.len / 65536 + 2) r.va r.len).getD []

/-- Whether two accesses touch a common sector: of their addresses, or of the bytes that those are mapped to (11 R213). -/
def State.sectorsMeet (s : State) (a b : RemoteAccess) : Bool :=
  runsMeet (a.va, a.len) (b.va, b.len) || (s.accessRuns a).any fun x => (s.accessRuns b).any fun y => runsMeet x y

/-- Accesses of one strand. -/
def sameStrand (a b : RemoteAccess) : Bool :=
  a.src == b.src && a.podWorld == b.podWorld && tagStrand a.reqid == tagStrand b.reqid


/-- Whether an access that was delivered earlier must be performed first: one of the same strand to a common sector, and for a
member's part of an MCAST an earlier part from the same root. -/
def State.performsBefore (s : State) (a r : RemoteAccess) : Bool :=
  (sameStrand a r && s.sectorsMeet a r) ||
    (match r.kind, a.kind with
      | .part x, .part y => x == y && a.podWorld == r.podWorld
      | _, _ => false)

/-- The accesses delivered before one. -/
def State.inboxBefore (s : State) (r : RemoteAccess) : List RemoteAccess := s.fabric.inbox.takeWhile fun x => x != r

/-- Whether an access that has been delivered may be performed now: nothing delivered earlier comes first, and a RELEASE has no
counted store left to wait for. -/
def State.mayPerform (s : State) (r : RemoteAccess) : Bool :=
  s.fabric.inbox.contains r && !((s.inboxBefore r).any fun a => s.performsBefore a r) &&
    (match r.kind with | .release c => c == 0 | _ => true)

/-- An access leaves the inbox. -/
def State.takeInbox (s : State) (r : RemoteAccess) : State :=
  { s with fabric := { s.fabric with inbox := s.fabric.inbox.erase r } }

/-- The RELEASE that counts a store has one less to wait for: the first one of its stream with a higher tag. None where it has
not been delivered. -/
def countDown (r : RemoteAccess) : List RemoteAccess → Option (List RemoteAccess)
  | [] => none
  | x :: l =>
    match if sameKey x r && r.reqid < x.reqid then x.kind else .perform with
    | .release c => some ({ x with kind := .release (c - 1) } :: l)
    | _ => (countDown r l).map (x :: ·)

/-- The end of a counted store: the RELEASE that counts it, or the target until that comes, notes it. A store that is refused
counts as done (DEDUCED, log entry 51). -/
def State.storeDone (s : State) (r : RemoteAccess) : State :=
  if !kindCounted r.kind then s
  else
    match countDown r s.fabric.inbox with
    | some l => { s with fabric := { s.fabric with inbox := l } }
    | none =>
      let key := storeKey r.reqid
      s.setDone r.src r.podWorld key ((sortBy id (r.reqid :: s.storesDone r.src r.podWorld key)).reverse.take countLimit)

/-- An access that is over leaves the inbox, and a release that counts it goes on. -/
def State.finishAccess (s : State) (r : RemoteAccess) : State := (s.takeInbox r).storeDone r

/-- The issuer of a posted store that has been performed hears of it (log entry 51). -/
def State.noteDone (s : State) (r : RemoteAccess) : State :=
  if kindPosted r.kind then s.sendNotice r.podWorld r.src r.reqid s.deviceId false else s

/-- The root sends a member its part of an MCAST; one to a member that it cannot reach is lost (19 R358). -/
def State.forwardTo (s : State) (r : RemoteAccess) (d : Nat) : State :=
  if d != s.deviceId && s.unreachableTo d then s.sendNotice r.podWorld r.src r.reqid d true
  else s.send { r with dst := d, kind := .part s.deviceId }

/-- The root of a group sends each member its part of an MCAST, in the order in which it takes them up (05 R109). One that does
not know the group refuses the whole: its reply carries a byte, which tells that from the refusal of its own part (log
entry 51). -/
def State.forward (s : State) (r : RemoteAccess) (group : Nat) : State :=
  match s.fabric.groups.find? fun g => g.num == r.podWorld && g.group == group with
  | none => s.reply r causeRemote [1]
  | some g => g.members.foldl (fun s d => s.forwardTo r d) s

/-- The held writes of a COMMIT. -/
def State.heldOf (s : State) (src reqid : Nat) : List HeldWrite := s.fabric.held.filter fun h => h.src == src && h.reqid == reqid

/-- Held writes end. -/
def State.dropHeld (s : State) (src reqid : Nat) : State :=
  { s with fabric := { s.fabric with held := s.fabric.held.filter fun h => !(h.src == src && h.reqid == reqid) } }

/-- An access for which this device has a local world is checked, and performed or refused. -/
def State.serveAccess (s : State) (w : Nat) (r : RemoteAccess) : State :=
  match s.keptAnswer r with
  | some old => (s.finishAccess r).reply r 0 (toBytes old)
  | none =>
    match s.targetCheck w (kindCheck r.kind) r.va r.len with
    | (s1, .error x) => (s1.finishAccess r).reply r x.cause []
    | (s1, .ok ls) =>
      let (s2, bs) := s1.performAt w r ls
      let s3 := s2.finishAccess r
      if kindAnswered r.kind then (s3.keepAnswer r bs).reply r 0 bs else s3.noteDone r

/-- REMOTE_ACCESS_ARRIVAL: an access that has been delivered here is checked and performed, held or refused. The root of an
MCAST forwards it, and the end of a refused COMMIT drops what was held. -/
def execRemoteAccessArrival (r : RemoteAccess) (s : State) : Out :=
  if !s.mayPerform r then .next s
  else
    match r.kind with
    | .perform => .next s
    | .discard => .next ((s.takeInbox r).dropHeld r.src r.reqid)
    | .mcast group => .next ((s.takeInbox r).forward r group)
    | _ =>
      if !accessSized r then .next (s.finishAccess r)
      else
        match s.targetWorld r with
        | none => .next ((s.finishAccess r).reply r causeRemote [])
        | some w => .next (s.serveAccess w r)

/-- Performs a held write at the places it was checked for. -/
def State.performHeld (s : State) (h : HeldWrite) : State :=
  let ls := h.cells.map fun c => Loc.phys c.1
  s.storeAt ls (h.cells.map (·.2))

/-- The PERFORM of a COMMIT that has been delivered here. -/
def State.performFor (s : State) (src reqid : Nat) : Option RemoteAccess :=
  s.fabric.inbox.find? fun r => r.kind == .perform && r.src == src && r.reqid == reqid

/-- PERFORM_ARRIVAL: the held part of a COMMIT is performed as one step, and answered. -/
def execPerformArrival (src reqid : Nat) (s : State) : Out :=
  match s.performFor src reqid with
  | none => .next s
  | some r => .next ((((s.heldOf src reqid).foldl State.performHeld (s.takeInbox r)).dropHeld src reqid).reply r 0 [])

/-! ## At the issuer -/

/-- Replies by their tags, the access of the lowest address place first. -/
abbrev Replies := List (Nat × Nat × List Nat)

/-- The first access of a wait that was refused: its address and the status. -/
def firstRefused (reqid : Nat) (vas : List Nat) (got : Replies) : Option (Nat × Nat) :=
  ((List.range vas.length).filterMap fun i =>
    (got.find? fun g => g.1 == reqid + i && g.2.1 != 0).map fun g => (nth vas i 0, g.2.1)).head?

/-- The bytes of one reply. -/
def replyBytes (reqid i : Nat) (got : Replies) : List Byte := toBytes (((got.find? fun g => g.1 == reqid + i).map (·.2.2)).getD [])

/-- The strand's own logged bytes in space D over the bytes of a reply (05 R100). -/
def overlayPod (w : PodWrite) (dev va : Nat) (bs : List Byte) : List Byte :=
  if w.dev != dev then bs
  else
    (List.range bs.length).map fun i =>
      if w.va ≤ va + i && va + i < w.va + w.data.length then nth w.data (va + i - w.va) 0 else nth bs i 0

/-- The bytes that a strand has logged by their places here over the bytes of a reply (05 R100; 11 R213). -/
def State.overlayOwn (s : State) (t : Strand) (va : Nat) (bs : List Byte) : List Byte :=
  (List.range bs.length).map fun i =>
    match (s.physAt t.world (va + i)).bind fun pa => t.logMem.find? fun b => b.1 == pa with
    | some b => b.2
    | none => nth bs i 0

/-- What a load of a strand reads where the target answered `bs`. -/
def State.readLogged (s : State) (t : Strand) (dev va : Nat) (bs : List Byte) : List Byte :=
  match t.held with
  | none => bs
  | some h =>
    let bs1 := h.log.pod.foldl (fun bs w => overlayPod w dev va bs) bs
    if s.fabric.member == some dev then s.overlayOwn t va bs1 else bs1

/-- What a completed access does: the registers it writes, or the pin it takes, or the trap of an element that was not sent. -/
def State.deliver (s : State) (t : Strand) (reqid dev : Nat) (vas : List Nat) (dest : ReplyDest) (got : Replies) : State :=
  match dest with
  | .scalar d _ sx own =>
    let bs := replyBytes reqid 0 got
    s.finishWait (t.setRun d (loadedRegs (if own then s.readLogged t dev (nth vas 0 0) bs else bs) sx))
  | .vector d _ elems broadcast =>
    let value := fun (k : Nat) =>
      let i := if broadcast then 0 else k
      leValue (s.readLogged t dev (nth vas i 0) (replyBytes reqid i got))
    s.finishWait (t.putElems d ((List.range elems.length).map fun k => (nth elems k 0, value k)))
  | .pin d =>
    let uncached := nth (replyBytes reqid 0 got) 0 0 == 1
    let (line, far) := s.lineAt t dev (nth vas 0 0)
    let (s1, ok) := s.takePin t line far uncached
    s1.finishWait (t.writePred d ok .set)
  | .fails cause addr info => s.trap { t with wait := none } ⟨cause, addr, info⟩

/-- A reply to a waiting load, ATOM or CAS: with the last one the wait ends, or REMOTE is raised for the lowest element that
was refused. -/
def State.replyToAccess (s : State) (t : Strand) (reqid dev : Nat) (vas : List Nat) (dest : ReplyDest) (left : List Nat)
    (got : Replies) (tag status : Nat) (data : List Nat) : State :=
  let left' := left.filter (· != tag)
  let got' := got ++ [(tag, status, data)]
  if !left'.isEmpty then s.putStrand { t with wait := some (.remote reqid dev vas dest left' got') }
  else
    match firstRefused reqid vas got' with
    | some (va, cause) => s.trap { t with wait := none } (remoteTrap va cause)
    | none => s.deliver t reqid dev vas dest got'

/-- The state without a reply that has been delivered here. -/
def State.takeReply (s : State) (r : RemoteReply) : Option State :=
  if s.fabric.repliesIn.contains r then some { s with fabric := { s.fabric with repliesIn := s.fabric.repliesIn.erase r } }
  else none

/-- The address of the first write of a held item to a device. -/
def Strand.firstWriteTo (t : Strand) (dev : Nat) : Nat :=
  ((t.held.bind fun h => h.log.pod.find? fun w => w.dev == dev).map PodWrite.va).getD 0

/-- What a reply does to the strand that waits for it. -/
def State.hearReply (s : State) (t : Strand) (src tag status : Nat) (data : List Nat) : State :=
  match t.wait with
  | some (.remote reqid dev vas dest left got) =>
    if dev == src && left.contains tag then s.replyToAccess t reqid dev vas dest left got tag status data else s
  | some (.commit sent refused phase pub since) =>
    if phase != 0 && sent.contains src && tag == t.lastTag then
      let refused' := if phase == 1 && status != 0 then refused.orElse fun _ => some (t.firstWriteTo src, status) else refused
      s.putStrand { t with wait := some (.commit (sent.erase src) refused' phase pub since) }
    else s
  | _ => s

/-- The open posted stores of a strand that a reply refuses: the one to the device that sends it, or every part of an MCAST
that its root refuses. -/
def Strand.refusedBy (t : Strand) (r : RemoteReply) : List PostedStore :=
  t.unacked.filter fun x => x.tag == r.reqid && (if r.data.isEmpty then x.dev == r.src else x.root == some r.src)

/-- Posted stores of a strand are refused with a cause, in order. -/
def Strand.refuse (t : Strand) (l : List PostedStore) (cause : Nat) : Strand :=
  { t with unacked := t.unacked.filter fun x => !l.contains x, refusals := t.refusals ++ l.map fun x => (x.va, cause) }

/-- The strand that gave out a tag. -/
def State.issuerOf (s : State) (reqid : Nat) : Option Strand := s.strands.find? fun t => t.serial == tagStrand reqid

/-- Whether that strand is saved: what comes for it waits until it resumes. -/
def State.issuerSaved (s : State) (reqid : Nat) : Bool :=
  s.stages.any fun g => g.saved.any fun v => v.strands.any fun t => t.serial == tagStrand reqid

/-- REMOTE_REPLY_ARRIVAL: a reply that has been delivered here comes to the strand whose tag it carries; one that nothing
waits for is dropped. The refusal of a posted store comes by POSTED_REFUSAL_ARRIVAL. -/
def execRemoteReplyArrival (slot : SlotId) (src dst reqid status : Nat) (data : List Nat) (s : State) : Out :=
  match s.takeReply ⟨src, dst, reqid, status, data⟩ with
  | none => .next s
  | some s1 =>
    match s.issuerOf reqid with
    | none => .next (if s.issuerSaved reqid then s else s1)
    | some t =>
      let r : RemoteReply := ⟨src, dst, reqid, status, data⟩
      .next (if t.at_ == slot && (t.refusedBy r).isEmpty then s1.hearReply t src reqid status data else s)

/-- The first reply under a tag that has been delivered here and refuses posted stores of a strand. -/
def State.refusalFor (s : State) (t : Strand) (reqid status : Nat) : Option RemoteReply :=
  s.fabric.repliesIn.find? fun r => r.reqid == reqid && r.status == status && !(t.refusedBy r).isEmpty

/-- POSTED_REFUSAL_ARRIVAL: the refusal of a posted store is held pending, in order of arrival. -/
def execPostedRefusalArrival (slot : SlotId) (reqid status : Nat) (s : State) : Out :=
  match s.strand? slot with
  | none => .next s
  | some t =>
    match s.refusalFor t reqid status with
    | none => .next s
    | some r =>
      let s1 := { s with fabric := { s.fabric with repliesIn := s.fabric.repliesIn.erase r } }
      .next (s1.putStrand (t.refuse (t.refusedBy r) status))

end Sys2Proof.Machine
end

