-- ==== Sys2Proof/Machine/Links.lean ====
section
/-! DEFINITION. Links of the Passage fabric: bring-up and keys, flits with their acknowledgement and replay, wavelengths,
laser modules and unreachable destinations (19 R347 to R358). -/

namespace Sys2Proof.Machine

/-! ## Wavelengths (R351, R352) -/

/-- A wavelength of a port in a direction; OFF until it is trained. -/
def Port.wave (p : Port) (w : Nat) (d : LinkDir) : Wave := (p.waves.find? fun x => x.w == w && x.dir == d).getD ⟨w, d, .off, 0, 0, 0, 0⟩

/-- Stores a wavelength. -/
def Port.putWave (p : Port) (x : Wave) : Port := { p with waves := upsert (fun y => (y.w, y.dir)) x p.waves }

/-- A saturating count. -/
def saturate (n limit : Nat) : Nat := min n limit

/-- The laser slot that lights a wavelength (R336). -/
def laserOf (w : Nat) : Nat := w % 64 / 4

/-- The first hops toward a destination: its minimal route and its alternates. -/
def State.hopPorts (s : State) (r : Route) : List Nat := r.port :: (List.range 3).map fun i => s.portTo (nth r.alts i noDevice)

/-- A receiver drops its old key once every UP wavelength has carried the new phase (R357). -/
def Port.settleOld (p : Port) : Port :=
  let l := p.link .rx
  if l.oldKey.isSome && p.waves.all fun x => x.dir != .rx || x.state != .up || l.newWaves.contains x.w then
    p.putLink { l with oldKey := none, oldCounts := [], newWaves := [] }
  else p

/-- How long all first hops are DOWN before a destination is unreachable. -/
def unreachableAfter : Nat := 2 ^ 24

/-- Whether a destination is unreachable now (R358). -/
def State.cutOff (s : State) (dst : Nat) : Bool :=
  match s.routeTo dst with
  | none => false
  | some r => (s.hopPorts r).all fun p =>
      p == noPort || match (s.port p).downSince with | some t => decide (unreachableAfter ≤ s.pkgCycle - t) | none => false

/-- Stores a port whose wavelengths have changed: loans are settled, its DOWN time is kept, destinations that it reaches again
are no longer unreachable, and flits find their ways again (R334, R352). -/
def State.wavesChanged (s : State) (p : Port) : State :=
  let s1 := s.settlePort { p.settleOld with downSince := if p.down then some (p.downSince.getD s.pkgCycle) else none }
  { s1 with fabric := { s1.fabric with unreachable := s1.fabric.unreachable.filter s1.cutOff } }.flow

/-- A port has lost light or retrains: VOID for the launches that use a path through it, now or later (16 R299). -/
def State.voidPort (s : State) (port : Nat) : State :=
  { s with launches := s.launches.map (fun (l : Launch) =>
      { l with void := l.void || l.hops.contains port, lost := if l.lost.contains port then l.lost else l.lost ++ [port] }) }

/-! ## Bring-up (R355) -/

/-- Bytes of an event's data. -/
def byteList (l : List Nat) : List Byte := l.map (BitVec.ofNat 8)

/-- A trained wavelength: DARK where its laser slot gives no light. -/
def State.trained (s : State) (x : Wave) : Wave :=
  if x.state != .off then x
  else
    let dark := x.dir == .tx && s.fabric.lasers.any fun l => l.slot == laserOf x.w && !l.lit
    { x with state := if dark then .dark else .up }

/-- Every wavelength of a port, transmit and then receive. -/
def Port.allWaves (p : Port) : List Wave := ((List.range 128).map fun w => p.wave w .tx) ++ (List.range 128).map fun w => p.wave w .rx

/-- A direction with a fresh key and its fixed part. -/
def freshLink (d : LinkDir) (key fixed : Nat) : LinkState :=
  { LinkState.reset d with up := true, key := key, fixed := fixed % 2 ^ 32 }

/-- LINK_BRINGUP: with the peer authenticated, each direction has a key and a fixed part and the wavelengths train; otherwise
the link stays OFF and the host hears of it. -/
def execLinkBringup (port : Nat) (ok : Bool) (s : State) : Out :=
  let p := s.port port
  if p.peer.isNone || (p.link .tx).up then .next s
  else if !ok then .next (s.postEvent 0x0303 noDie (byteList [port]))
  else
    let free := fun (i : Nat) => Config.freeValue (s.freeCount + i)
    let p1 := { p with
      waves := p.allWaves.map s.trained
      links := [freshLink .tx (free 0) (free 2), freshLink .rx (free 1) (free 3)] }
    .next (s.drawFree.drawFree.drawFree.drawFree.wavesChanged p1)

/-! ## Flits that arrive (R347, R349, R350, R356, R357) -/

/-- A discarded flit or codeword counts as uncorrectable. -/
def Port.countBad (p : Port) (w : Nat) : Port :=
  let x := p.wave w .rx
  p.putWave { x with uncorr := saturate (x.uncorr + 1) (2 ^ 24 - 1) }

/-- The pending key of a receiver comes into force, with the counts of what was lost under it. -/
def LinkState.install (l : LinkState) (k : Nat) : LinkState :=
  { l with
    key := k, pending := none, phase := !l.phase, warned := false, stopped := false
    invoc := (l.nextCounts.map (·.2)).foldl (· + ·) 0, counts := l.nextCounts
    oldKey := some l.key, oldCounts := l.counts, newWaves := [], nextCounts := [] }

/-- The key phase of a flit at its receiver: the direction after it when its CHECK holds, and the key and count that the flit was
sent under. The first flit under the new phase installs the pending key, and the old one serves until every UP wavelength has
carried the new phase. None where the flit's key is not known. -/
def Port.phaseOf (p : Port) (w : Nat) (phase : Bool) : Option (LinkState × Nat × Nat) :=
  let l := p.link .rx
  let carries := fun (l : LinkState) => if l.oldKey.isSome then { l with newWaves := w :: l.newWaves } else l
  if phase == l.phase then some (carries (l.count w), l.key, assocD l.counts w 0)
  else
    match l.oldKey with
    | some k => some ({ l with oldCounts := countOne l.oldCounts w }, k, assocD l.oldCounts w 0)
    | none => l.pending.map fun k => (carries ((l.install k).count w), k, assocD l.nextCounts w 0)

/-- The direction after a flit that is discarded: it counts under the key of its phase, and installs none. -/
def LinkState.discard (l : LinkState) (w : Nat) (phase : Bool) : LinkState :=
  if phase == l.phase then l.count w
  else if l.oldKey.isSome then { l with oldCounts := countOne l.oldCounts w }
  else { l with nextCounts := countOne l.nextCounts w }

/-- Discards a flit that arrives on a wavelength. -/
def Port.discard (p : Port) (w : Nat) (phase : Bool) : Port := (p.putLink ((p.link .rx).discard w phase)).countBad w

/-- How far a SEQ lies ahead of another, modulo 2^24. -/
def seqAhead (seq base : Nat) : Nat := wrap24 (seq + 2 ^ 24 - wrap24 base)

/-- Whether a SEQ lies behind another or at it. -/
def seqBehind (seq base : Nat) : Bool := seqAhead seq base == 0 || 2 ^ 23 ≤ seqAhead seq base

/-- A stream as the receiver of a link keeps it. Another stream under the number starts a new record; SEQs up to `start` do not
come on this link (log entry 51). -/
def Port.rxStream (p : Port) (stream name start : Nat) : RxStream :=
  let fresh : RxStream := ⟨stream, name, wrap24 start, [], 0, 0, none⟩
  match p.rx.find? fun x => x.stream == stream with
  | none => fresh
  | some x =>
    if x.name != name then fresh
    else if seqBehind start x.delivered then x
    else { x with delivered := wrap24 start, early := x.early.filter fun n => !seqBehind n start }

/-- Takes the SEQs that follow without a gap. -/
def RxStream.drain : Nat → RxStream → RxStream
  | 0, x => x
  | n + 1, x =>
    let next := wrap24 (x.delivered + 1)
    if x.early.contains next then RxStream.drain n { x with delivered := next, early := x.early.filter (· != next) } else x

/-- Whether a receiver has a SEQ already. -/
def RxStream.has (x : RxStream) (seq : Nat) : Bool := seqBehind seq x.delivered || x.early.contains seq

/-- A flit of a stream has arrived. -/
def RxStream.receive (x : RxStream) (seq now : Nat) : RxStream :=
  let y := { x with sinceAck := x.sinceAck + 1, unackedSince := if x.sinceAck == 0 then now else x.unackedSince }
  if x.has seq then y
  else
    let z := RxStream.drain (x.early.length + 1) { y with early := x.early ++ [seq] }
    { z with gapSince := if z.early.isEmpty then none else some (z.gapSince.getD now) }

/-- A flow at its destination. -/
def State.orderOf (s : State) (flow : Nat) : RxOrder := (s.fabric.orders.find? fun x => x.name == flow).getD ⟨flow, 0, [], []⟩

/-- Stores a flow. -/
def State.putOrder (s : State) (x : RxOrder) : State :=
  { s with fabric := { s.fabric with orders := upsert RxOrder.name x s.fabric.orders } }

/-- A whole message reaches the memory side: an access the inbox, a reply those that wait for their strands or copies, a notice
the posted store that it names. -/
def State.deliverMessage (s : State) (podWorld : Nat) (l : List Flit) : State :=
  match l with
  | [] => s
  | f :: rest =>
    match f.type with
    | .reply =>
      let r := replyOf f rest
      if s.replyWanted r.reqid then { s with fabric := { s.fabric with repliesIn := s.fabric.repliesIn ++ [r] } } else s
    | .read | .write | .atomic | .release | .perform => s.deliverAccess (accessOf podWorld f rest)
    | .control => s.hearNotice (payloadNat f.payload 0 8) (payloadNat f.payload 8 2) (nth f.payload 10 0 != 0)
    | .idle | .data | .ack | .nack | .reserved => s

/-- The next flit of a flow in SEQ order joins its message; the last one makes it whole. -/
def State.deliverFlit (s : State) (flow : Nat) (f : Flit) : State :=
  let x := s.orderOf flow
  let part := x.part ++ [f]
  let s1 := s.putOrder { x with
    delivered := wrap24 (x.delivered + 1), waiting := x.waiting.filter fun g => g.seq != f.seq, part := if f.last then [] else part }
  if f.last then s1.deliverMessage (nameWorld flow) part else s1

/-- Delivers the flits of a flow that follow without a gap. -/
def State.deliverAll (flow : Nat) : Nat → State → State
  | 0, s => s
  | n + 1, s =>
    let x := s.orderOf flow
    match x.waiting.find? fun f => seqAhead f.seq x.delivered == 1 with
    | none => s
    | some f => State.deliverAll flow n (s.deliverFlit flow f)

/-- A flit at its destination: each SEQ is delivered once, in ascending order, whatever the path (R349). -/
def State.accept (s : State) (flow : Nat) (f : Flit) : State :=
  let x := s.orderOf flow
  if seqBehind f.seq x.delivered || x.waiting.any (fun g => g.seq == f.seq) then s
  else State.deliverAll flow (x.waiting.length + 1) (s.putOrder { x with waiting := x.waiting ++ [f] })

/-- The way on from a relay: toward the alternate that the path names, else toward the destination. -/
def State.relayPath (s : State) (name : Nat) : Option (Nat × Nat) :=
  let path := namePath name
  if path != 0 && path != s.deviceId + 1 && s.hopOk (s.portTo (path - 1)) then some (s.portTo (path - 1), path)
  else s.pathTo (nameDst name)

/-- A relay sends a flit on, with its SRC, DST and SEQ and a stream number of the next hop (R349). -/
def State.relay (s : State) (name : Nat) (f : Flit) : State :=
  match s.relayPath name with
  | none => s
  | some (port, path) => (s.addBacklog port ⟨onPath path name, some f.seq, 256, globalTag (nameSrc name) 0, f⟩).drainPort port

/-- A flit that carries traffic arrives on a link: once, at its destination or at a relay. -/
def State.traffic (s : State) (port name start : Nat) (f : Flit) : State :=
  let p := s.port port
  let x := p.rxStream f.stream name start
  let s1 := s.putPort { p with rx := upsert RxStream.stream (x.receive f.seq s.pkgCycle) p.rx }
  if x.has f.seq then s1
  else if s.fabric.member == some f.dst then s1.accept (flowOf name) f
  else s1.relay name f

/-- The name of a stream that a port sends, by its number. -/
def Port.streamAt (p : Port) (n : Nat) : Option Nat := p.streams[n]?

/-- The payload of an ACK or a NACK: the stream and some SEQ values (log entry 51). -/
def ackPayload (stream : Nat) (seqs : List Nat) : List Nat :=
  padTo 64 (natBytes 2 stream ++ natBytes 1 seqs.length ++ seqs.flatMap (natBytes 3))

/-- The stream and the SEQ values of an ACK or a NACK. -/
def ackOf (p : List Nat) : Nat × List Nat :=
  (payloadNat p 0 2, (List.range (min (payloadNat p 2 1) 15)).map fun i => payloadNat p (3 + 3 * i) 3)

/-- An ACK: every flit up to the named SEQ leaves the retry buffer. -/
def Port.acked (p : Port) (x : Nat × List Nat) : Port :=
  match p.streamAt x.1 with
  | none => p
  | some n => { p with retry := p.retry.filter fun f => !(f.name == n && x.2.any fun q => seqBehind f.seq q) }

/-- A NACK: the named flits are to be replayed. -/
def Port.nacked (p : Port) (x : Nat × List Nat) : Port :=
  match p.streamAt x.1 with
  | none => p
  | some n => { p with retry := p.retry.map fun f => if f.name == n && x.2.contains f.seq then { f with replay := true } else f }

/-- A flit whose CHECK holds. -/
def State.flitIn (s : State) (port name start : Nat) (f : Flit) : State :=
  match f.type with
  | .ack => (s.putPort ((s.port port).acked (ackOf f.payload))).drainPort port
  | .nack => s.putPort ((s.port port).nacked (ackOf f.payload))
  | .idle | .reserved => s
  | .read | .write | .data | .atomic | .reply | .release | .perform | .control => s.traffic port name start f

/-- Eight flits of a codeword are lost: UNCORR counts it. Of them `n` were no IDLE flits and had the receiver's phase, and `m`
were none and had the other one (log entry 51). -/
def Port.loseCodeword (p : Port) (w n m : Nat) : Port :=
  let lose := fun (k : Nat) (phase : Bool) (l : LinkState) => (List.range (min k 8)).foldl (fun l _ => l.discard w phase) l
  let l := p.link .rx
  (p.countBad w).putLink (lose m (!l.phase) (lose n l.phase l))

/-- FLIT_RECEIVE: a flit that arrives on a wavelength, or a codeword that FEC could not correct (R351). -/
def execFlitReceive (port : Nat) (x : LineFlit) (s : State) : Out :=
  let p := s.port port
  let f := flitOf (payloadNat x.bytes 0 8) []
  if !(p.link .rx).up then .next s
  else if x.bytes.length != 80 then .next (s.putPort (p.loseCodeword x.wave x.start x.via))
  else if f.type == .idle then .next s
  else
    match p.phaseOf x.wave f.phase with
    | none => .next (s.putPort (p.discard x.wave f.phase))
    | some (l, key, n) =>
      match if f.type == .reserved then none else openFlit key (l.iv x.wave n) x.bytes with
      | none => .next (s.putPort (p.discard x.wave f.phase))
      | some payload =>
        .next ((s.putPort (p.putLink l).settleOld).flitIn port (streamName x.via x.podWorld f.src f.dst) x.start
          { f with payload := payload })

/-! ## Acknowledgement and replay (R350) -/

/-- The wavelengths on which a port acknowledges: those that are UP. -/
def Port.upWaves (p : Port) : List Nat := (List.range 128).filter p.txUp

/-- Whether a port can send an ACK or a NACK now. -/
def Port.mayAck (p : Port) : Bool := (p.link .tx).up && (p.link .tx).invoc < invocEnd && !p.upWaves.isEmpty

/-- Sends an ACK or a NACK to the far end of a port; it is not kept for replay (DESIGN CHOICE, log entry 51). -/
def State.sendAck (s : State) (p : Port) (type : FlitType) (stream : Nat) (seqs : List Nat) : State :=
  let dst := (p.peer.map (·.1)).getD 0
  s.putPort (p.transmit (p.upWaves.headD 0) (bareFlit type s.deviceId dst true (ackPayload stream seqs)))


/-- ACK_SEND: after 64 arrivals, or 1,024 cycles after the first one that is not acknowledged. -/
def execAckSend (port stream : Nat) (s : State) : Out :=
  let p := s.port port
  match p.rx.find? fun x => x.stream == stream with
  | none => .next s
  | some x =>
    if p.mayAck && (64 ≤ x.sinceAck || (x.sinceAck != 0 && 1024 ≤ s.pkgCycle - x.unackedSince)) then
      .next (s.sendAck { p with rx := upsert RxStream.stream { x with sinceAck := 0 } p.rx } .ack stream [x.delivered])
    else .next s

/-- The SEQs that a gap misses, up to 15. -/
def RxStream.missing (x : RxStream) : List Nat :=
  let top := (x.early.map fun n => seqAhead n x.delivered).foldl max 0
  (((List.range top).map fun i => wrap24 (x.delivered + 1 + i)).filter fun n => !x.early.contains n).take 15

/-- NACK_SEND: a gap has persisted for 2,048 cycles. -/
def execNackSend (port stream : Nat) (s : State) : Out :=
  let p := s.port port
  match p.rx.find? fun x => x.stream == stream with
  | none => .next s
  | some x =>
    let due := match x.gapSince with | some t => decide (2048 ≤ s.pkgCycle - t) | none => false
    if due && p.mayAck then
      .next (s.sendAck { p with rx := upsert RxStream.stream { x with gapSince := some s.pkgCycle } p.rx } .nack stream x.missing)
    else .next s


/-- FLIT_REPLAY: the oldest flit of a stream that is NACKed, lost or long unacknowledged goes again, with its SEQ, on a
wavelength of its stream. -/
def execFlitReplay (port stream seq wave : Nat) (s : State) : Out :=
  let p := s.port port
  match (p.streamAt stream).bind fun n => p.retry.find? fun f => f.name == n && s.replayDue f with
  | none => .next s
  | some f =>
    let l := p.link .tx
    if f.seq == seq && l.up && !l.isStopped && l.invoc < invocEnd && (s.wavesFor port f.world (nameDst f.name)).contains wave then
      let p1 := { p with retry := p.retry.map fun g =>
        if g == f then { f with wave := wave, replay := false, sentAt := s.pkgCycle } else g }
      .next (((s.putPort (p1.transmit wave f.flit)).voidStream port f.name).drainPort port)
    else .next s

/-! ## Retraining (R351, R352) -/

/-- Corrected bits in a window beyond which a wavelength retrains. -/
def fecLimit : Nat := 3068

/-- FEC_WINDOW_END. -/
def execFecWindowEnd (port wave corrected : Nat) (dir : LinkDir) (s : State) : Out :=
  let p := s.port port
  let x := { p.wave wave dir with corrwin := saturate corrected (2 ^ 24 - 1) }
  if x.state == .up && fecLimit < corrected then
    .next ((s.wavesChanged (p.putWave { x with state := .retrain, fails := 0 })).voidPort port)
  else .next (s.putPort (p.putWave x))

/-- A loss-of-light or restore record (R354). -/
def lightRecord (kind slot modl spare detect restore replayed streams : Nat) : List Byte :=
  leBytes 2 kind ++ leBytes 1 slot ++ leBytes 1 modl ++ leBytes 1 spare ++ leBytes 3 0 ++ leBytes 8 detect ++ leBytes 8 restore ++
    leBytes 4 replayed ++ leBytes 4 streams

/-- Stores a laser slot. -/
def State.putLaser (s : State) (l : LaserSlot) : State :=
  { s with fabric := { s.fabric with lasers := upsert LaserSlot.slot l s.fabric.lasers } }

/-- Whether a transmit wavelength of a laser slot is DARK or training on some port. -/
def State.slotTraining (s : State) (slot : Nat) : Bool :=
  s.fabric.ports.any fun p => p.waves.any fun x => x.dir == .tx && laserOf x.w == slot && (x.state == .dark || x.state == .retrain)

/-- Once the last wavelength of a slot has returned to UP, the restore is reported (R353 step 5). -/
def State.reportRestore (s : State) (slot : Nat) : State :=
  match s.fabric.lasers.find? fun l => l.slot == slot with
  | none => s
  | some l =>
    match l.restoring with
    | none => s
    | some (failed, spare, replayed, streams) =>
      if !l.lit || s.slotTraining slot then s
      else (s.putLaser { l with restoring := none }).postRecord 0x0302
        (lightRecord 0x0302 slot failed spare l.detect s.pkgCycle replayed streams)

/-- A wavelength that has trained is UP. -/
def Port.upAgain (p : Port) (wave : Nat) (dir : LinkDir) : Port := p.putWave { p.wave wave dir with state := .up, fails := 0 }

/-- TRAINING_DONE. The training exchange brings the receiver the sender's phase and its count of the wavelength (R356). -/
def execTrainingDone (port wave : Nat) (side : TrainedSide) (s : State) : Out :=
  let p := s.port port
  match side with
  | .tx =>
    if (p.wave wave .tx).state == .retrain then .next ((s.wavesChanged (p.upAgain wave .tx)).reportRestore (laserOf wave)) else .next s
  | .rx count phase =>
    let l := p.link .rx
    let l1 := if phase == l.phase then { l with counts := assocSet l.counts wave count }
      else { l with nextCounts := assocSet l.nextCounts wave count }
    if (p.wave wave .rx).state == .retrain then .next (s.wavesChanged ((p.putLink l1).upAgain wave .rx)) else .next s

/-- TRAINING_FAIL: retried, after the third consecutive failure not. -/
def execTrainingFail (port wave : Nat) (dir : LinkDir) (s : State) : Out :=
  let p := s.port port
  let x := p.wave wave dir
  if x.state == .retrain then
    let fails := x.fails + 1
    .next (s.wavesChanged (p.putWave { x with
      retrains := saturate (x.retrains + 1) 255, fails := fails, state := if 3 ≤ fails then .failed else .retrain }))
  else .next s

/-- A value written to RETRAINW: `v` − 1 names a transmit wavelength that leaves FAILED. -/
def State.retrain (s : State) (port v : Nat) : State :=
  let p := s.port port
  let x := p.wave (v - 1) .tx
  if port < 33 && 1 ≤ v && v ≤ 128 && x.state == .failed then
    s.wavesChanged (p.putWave { x with state := .retrain, fails := 0 })
  else s

/-- RETRAINW_WRITE. -/
def execRetrainwWrite (port v : Nat) (s : State) : Out := s.byHost <| .next (s.retrain port v)

/-! ## Loss of light (R353, R354) -/

/-- SPARE and SLOT fields that name nothing. -/
def noModule : Nat := 0xFF

/-- A wavelength of a slot goes DARK in a direction: one that was UP or training. -/
def Wave.darken (x : Wave) (dir : LinkDir) (slot : Nat) : Wave :=
  if x.dir == dir && laserOf x.w == slot && (x.state == .up || x.state == .retrain) then { x with state := .dark } else x

/-- Unacknowledged flits last sent on the wavelengths of a slot. -/
def Port.lostFlits (p : Port) (slot : Nat) : List SentFlit := p.retry.filter fun f => laserOf f.wave == slot

/-- A slot goes dark on one port: its wavelengths, and its flits are queued for replay. -/
def Port.slotDark (p : Port) (slot : Nat) : Port :=
  { p with
    waves := p.waves.map fun x => x.darken .tx slot
    retry := p.retry.map fun f => if laserOf f.wave == slot then { f with replay := true } else f }

/-- Whether a stream belongs to a confidential world of this device. -/
def State.secretStream (s : State) (name : Nat) : Bool := (s.localWorld (nameWorld name)).any fun p => p.world != 0

/-- The next spare for a slot: the first of the reserve that no other slot has been promised. -/
def State.nextSpare (s : State) : Nat :=
  let promised := s.fabric.lasers.filterMap fun l => if l.lit then none else l.restoring.map fun x => x.2.1
  (s.fabric.spares.find? fun m => !promised.contains m).getD noModule

/-- A slot of the laser bank loses its light: steps 1 to 4 of R353, with the next spare chosen. -/
def State.slotLost (s : State) (l : LaserSlot) : State :=
  let lost := s.fabric.ports.flatMap fun p => (p.lostFlits l.slot).map fun f => (p.port, f.name)
  let secret := lost.any fun x => s.secretStream x.2
  let (sa, replayed) := if secret then s.showCount (.replayed l.slot) lost.length else (s, lost.length)
  let (sb, streams) := if secret then sa.showCount (.streams l.slot) (uniq lost).length else (sa, (uniq lost).length)
  let spare := s.nextSpare
  let s1 := s.fabric.ports.foldl (fun s p => (s.wavesChanged ((s.port p.port).slotDark l.slot)).voidPort p.port) sb
  let s2 := s1.putLaser { l with lit := false, restoring := some (l.modl, spare, replayed, streams), detect := s.pkgCycle }
  let s3 := { s2 with fabric := { s2.fabric with failedModules := s2.fabric.failedModules ++ [l.modl] } }
  s3.postRecord 0x0301 (lightRecord 0x0301 l.slot l.modl spare s.pkgCycle 0 replayed streams)

/-- A spare in reserve loses its light: it leaves the reserve. -/
def State.spareLost (s : State) (modl : Nat) : State :=
  let s1 := { s with fabric := { s.fabric with
    spares := s.fabric.spares.filter (· != modl), failedModules := s.fabric.failedModules ++ [modl] } }
  s1.postRecord 0x0301 (lightRecord 0x0301 noModule modl noModule s.pkgCycle 0 0 0)

/-- A slot of the laser bank at the far end of a port goes dark: the receive wavelengths of this end (R353, step 1). -/
def State.farSlotLost (s : State) (port slot : Nat) : State :=
  let p := s.port port
  if p.peer.isNone then s else (s.wavesChanged { p with waves := p.waves.map fun x => x.darken .rx slot }).voidPort port

/-- LOSS_OF_LIGHT: a module of this device, and one that has failed already is ignored; or, with a port, the slot of that
number at the port's far end. -/
def execLossOfLight (far : Option Nat) (modl : Nat) (s : State) : Out :=
  match far with
  | some port => .next (s.farSlotLost port modl)
  | none =>
    if s.fabric.failedModules.contains modl then .next s
    else if s.fabric.spares.contains modl then .next (s.spareLost modl)
    else
      match s.fabric.lasers.find? fun l => l.modl == modl && l.lit with
      | some l => .next (s.slotLost l)
      | none => .next s

/-- SPARE_SWITCH_IN: the spare that the slot was promised takes it; where that one has failed in the reserve, the next one. -/
def execSpareSwitchIn (slot : Nat) (s : State) : Out :=
  match s.fabric.lasers.find? fun l => l.slot == slot && !l.lit with
  | none => .next s
  | some l =>
    match l.restoring with
    | none => .next s
    | some (failed, spare, replayed, streams) =>
      let m := if s.fabric.spares.contains spare then spare else s.nextSpare
      if m == noModule then .next s
      else
        let s1 := s.putLaser { l with modl := m, lit := true, restoring := some (failed, m, replayed, streams) }
        .next { s1 with fabric := { s1.fabric with spares := s.fabric.spares.filter (· != m) } }

/-- Light returns to a wavelength, which starts training. -/
def Wave.relight (x : Wave) (dir : LinkDir) (slot : Nat) : Wave :=
  if x.dir == dir && laserOf x.w == slot && x.state == .dark then { x with state := .retrain, fails := 0 } else x

/-- Light returns to a slot on one port. -/
def State.relightPort (s : State) (dir : LinkDir) (slot port : Nat) : State :=
  let p := s.port port
  s.wavesChanged { p with waves := p.waves.map fun x => x.relight dir slot }

/-- LIGHT_RESTORED: the DARK wavelengths of a lit slot train; with a port, the receive wavelengths of its far end's slot. -/
def execLightRestored (far : Option Nat) (slot : Nat) (s : State) : Out :=
  match far with
  | some port => .next (if (s.port port).peer.isNone then s else s.relightPort .rx slot port)
  | none =>
    if s.fabric.lasers.any fun l => l.slot == slot && l.lit then
      .next ((s.fabric.ports.foldl (fun s p => s.relightPort .tx slot p.port) s).reportRestore slot)
    else .next s

/-! ## Keys of a direction (R357) -/

/-- The number of a direction in an event record: 0 transmit, 1 receive. -/
def dirCode (d : LinkDir) : Nat := if d == .tx then 0 else 1

/-- LINK_KEY_WARNING: the host is warned, once for a key, and KEY_UPDATE programs a pending key where it succeeds. -/
def execLinkKeyWarning (port : Nat) (k : KeyUpdate) (s : State) : Out :=
  let p := s.port port
  let l := p.link k.dir
  if l.up && linkWarnAt ≤ l.invoc && l.pending.isNone then
    let s1 := if l.warned then s else s.postEvent 0x0304 noDie (byteList [port, dirCode k.dir])
    let key := if k.programmed then some (Config.freeValue s.freeCount) else none
    .next (s1.drawFree.putPort (p.putLink { l with warned := true, pending := key }))
  else .next s

/-- LINK_KEY_SWITCH: the sender takes the pending key, toggles PHASE and starts its counts again; a stopped direction resumes. -/
def execLinkKeySwitch (port : Nat) (dir : LinkDir) (s : State) : Out :=
  let p := s.port port
  let l := p.link dir
  if dir == .tx && l.up && l.pending.isSome then .next ((s.putPort (p.putLink l.switch)).drainPort port) else .next s

/-- LINK_DATA_STOP: INVOC has reached its limit without a pending key, and the host hears of it. -/
def execLinkDataStop (port : Nat) (dir : LinkDir) (s : State) : Out :=
  let p := s.port port
  let l := p.link dir
  if l.up && linkStopAt ≤ l.invoc && l.pending.isNone && !l.stopped then
    .next ((s.putPort (p.putLink { l with stopped := true })).postEvent 0x0305 noDie (byteList [port, dirCode dir]))
  else .next s

/-! ## Unreachable destinations (R358) -/

/-- The lowest access of a wait that fails when its device is unreachable: its address, and the status of its refusal or 0 where
it has no reply (06 R119). -/
def firstLost (reqid : Nat) (vas left : List Nat) (got : Replies) : Nat × Nat :=
  let fails := fun i => left.contains (reqid + i) || got.any fun g => g.1 == reqid + i && g.2.1 != 0
  (((List.range vas.length).find? fails).map fun i =>
    (nth vas i 0, if left.contains (reqid + i) then 0 else ((got.find? fun g => g.1 == reqid + i).map (·.2.1)).getD 0)).getD (0, 0)

/-- What a strand that waits for an unreachable destination does: REMOTE for a load, ATOM or CAS; a COMMIT's part counts as
refused with cause 0. -/
def State.giveUpOn (s : State) (dst : Nat) (t : Strand) : State :=
  match t.wait with
  | some (.remote reqid dev vas _ left got) =>
    let (va, cause) := firstLost reqid vas left got
    if dev == dst then s.trap { t with wait := none } (remoteTrap va cause) else s
  | some (.commit sent refused 1 pub since) =>
    if sent.contains dst then
      s.putStrand { t with wait := some (.commit (sent.filter (· != dst)) (refused.orElse fun _ => some (t.firstWriteTo dst, 0)) 1 pub since) }
    else s
  | _ => s

/-- Whether a posted store of device `self` goes to a destination by its own paths: to it directly, by way of it as a root, or
from this device as the root. -/
def PostedStore.goesTo (x : PostedStore) (self dst : Nat) : Bool :=
  x.root == some dst || (x.dev == dst && (x.root.isNone || x.root == some self))

/-- The open posted stores of a strand that go to an unreachable destination become refusals with cause 0. -/
def Strand.refuseOpen (self dst : Nat) (t : Strand) : Strand := t.refuse (t.unacked.filter fun x => x.goesTo self dst) 0

/-- The parts of other devices' MCASTs toward a destination that this root has not seen acknowledged: the pod world and the
tag of each. -/
def Port.openParts (p : Port) (self dst : Nat) : List (Nat × Nat) :=
  let of := fun (name tag : Nat) =>
    if nameDst name == dst && nameSrc name == self && tag / 2 ^ 64 != self then some (nameWorld name, tag) else none
  uniq ((p.retry.filterMap fun f => of f.name f.tag) ++ p.backlog.filterMap fun f => of f.name f.tag)

/-- A root tells the issuers that parts of their MCASTs to an unreachable member are lost. -/
def State.loseParts (s : State) (dst : Nat) : State :=
  (s.fabric.ports.flatMap fun p => p.openParts s.deviceId dst).foldl
    (fun s x => s.sendNotice x.1 (x.2 / 2 ^ 64) (x.2 % 2 ^ 64) dst true) s

/-- What waits to be sent of messages to a destination goes, but for messages of which a flit has left. -/
def Port.dropUnsent (p : Port) (dst : Nat) : Port :=
  { p with backlog := p.backlog.filter fun f =>
      nameDst f.name != dst || f.seq.isSome || p.retry.any fun g => g.tag == f.tag && g.name == f.name }

/-- UNREACHABLE_DETECT: waiting accesses end, posted stores are refused, and what has not been sent is dropped. -/
def execUnreachableDetect (dst : Nat) (s : State) : Out :=
  if s.cutOff dst && !s.fabric.unreachable.contains dst then
    let s1 := (s.mapStrands (Strand.refuseOpen s.deviceId dst)).loseParts dst
    let s2 := { s1 with fabric := { s1.fabric with
      unreachable := s1.fabric.unreachable ++ [dst], ports := s1.fabric.ports.map fun (p : Port) => p.dropUnsent dst } }
    .next ((s2.strands.map Strand.at_).foldl (fun s i => s.onStrand i fun t => s.giveUpOn dst t) s2)
  else .next s

end Sys2Proof.Machine
end

