-- ==== Sys2Proof/Machine/Stipple.lean ====
section
/-! DEFINITION. The Stipple unit: estimators, the seven instructions of chapter 12, and the arrivals of their operations at the
home (12 R225 to R241). -/

namespace Sys2Proof.Machine

/-! ## Estimators (12 R225, R226) -/

/-- The FP64 number 2. -/
def fpTwo : Nat := 0x4000000000000000

/-- An estimator at admission. -/
def Est.atAdmission (home : Nat) : Est where
  home := home
  count := 0
  mean := 0
  m2 := 0
  stop := false
  init := false
  fin := false
  nonfin := false
  cause := 0
  pos := 0
  disc := 0
  issued := 0
  tol := 0
  z := fpTwo
  nmin := 2
  seed := 0
  dom := 0
  epoch := 0
  casts := []

/-- STATUS. -/
def Est.status (e : Est) : Nat :=
  boolNat e.stop * 2 ^ 63 + boolNat e.init * 2 ^ 62 + boolNat e.fin * 2 ^ 61 + boolNat e.nonfin * 2 ^ 60 +
    e.cause * 2 ^ 58 + e.home * 2 ^ 32 + e.epoch

/-- A register by SEL. -/
def Est.get (e : Est) : EstReg → Nat
  | .n => e.count | .mean => e.mean | .m2 => e.m2 | .status => e.status | .pos => e.pos | .disc => e.disc
  | .issued => e.issued | .tol => e.tol | .z => e.z | .nmin => e.nmin | .seed => e.seed | .dom => e.dom

/-- An estimator that a launch reserves. -/
def State.est? (s : State) (launch e : Nat) : Option Est := (s.launch? launch).bind fun l => (l.ests[e]?).getD none

/-- Stores an estimator. -/
def State.putEst (s : State) (launch e : Nat) (x : Est) : State :=
  match s.launch? launch with
  | none => s
  | some l => s.putLaunch { l with ests := l.ests.setIfInBounds e (some x) }

/-! ## The visit order (12 R227) -/

/-- One Feistel round with the halves of `h` bits. -/
def feistelRound (h k : Nat) (x : Nat × Nat) : Nat × Nat :=
  (x.2, x.1 ^^^ (((x.2 * 5 + k) ^^^ (x.2 / 2)) % 2 ^ h))

/-- `enc`. -/
def feistel (seed h x : Nat) : Nat :=
  let r := (List.range 4).foldl (fun p i => feistelRound h (field seed (16 * i) 16) p) (x / 2 ^ h, x % 2 ^ h)
  r.1 * 2 ^ h + r.2

/-- Half the width of the network for N items. -/
def feistelHalf (n : Nat) : Nat := (max 2 (ceilLog2 n) + 1) / 2

/-- Cycle-walking, at most `fuel` steps more; 2^b values bound the walk. -/
def walkBelow (seed h n : Nat) : Nat → Nat → Nat
  | 0, x => x
  | fuel + 1, x => if x < n then x else walkBelow seed h n fuel (feistel seed h x)

/-- `perm`. -/
def permAt (n seed p : Nat) : Nat :=
  let h := feistelHalf n
  walkBelow seed h n (2 ^ (2 * h)) (feistel seed h p)

/-! ## The running estimate (12 R228, R229) -/

/-- Whether the interval of the mean is within the tolerance: Z² × M2 ≤ TOL² × n × (n − 1), exactly. -/
def Est.narrow (e : Est) : Bool :=
  let sq := fun v => (exactMul (fp64.read v) (fp64.read v)).1
  let l := (exactMul (sq e.z) (fp64.read e.m2)).1
  let r := (exactMul (sq e.tol) (.fin false (e.count * (e.count - 1)) 0)).1
  !l.isNan && !r.isNan && decide (compareVal l r ≤ 0)

/-- `stop`: the broadcast leaves for every die that holds strands of the launch (R238). -/
def Est.stopWith (e : Est) (dies : List Nat) (cause : Nat) : Est :=
  { e with stop := true, cause := cause, casts := e.casts ++ dies.map fun d => (d, e.epoch, e.fin) }

/-- `test_stop`. -/
def Est.testStop (e : Est) (dies : List Nat) : Est :=
  if decide (e.nmin ≤ e.count) && e.narrow then e.stopWith dies 1
  else if e.pos == e.dom && decide (e.issued ≤ e.count) then e.stopWith dies 3
  else e

/-- Whether FP64 bits are a number. -/
def finite64 (x : Nat) : Bool := (fp64.read x).isFin

/-- The Welford update of one value. -/
def Est.welford (e : Est) (x : Nat) : Est :=
  let n := e.count + 1
  let d := (fp64.sub .rne x e.mean).1
  let mean := (fp64.add .rne e.mean (fp64.div .rne d (fp64.roundFin .rne false false n 0).1).1).1
  let d2 := (fp64.sub .rne x mean).1
  { e with count := n, mean := mean, m2 := (fp64.fma .rne .none d d2 e.m2).1, nonfin := e.nonfin || !finite64 x }

/-- `apply`, and whether the value was accepted. -/
def Est.apply (e : Est) (dies : List Nat) (x : Nat) : Est × Bool :=
  if e.stop then ({ e with disc := (e.disc + 1) % 2 ^ 64 }, false) else ((e.welford x).testStop dies, true)

/-- SPNEXT at the home: the result and the predicate (12 R233). -/
def Est.next (e : Est) (dies : List Nat) : Est × Nat × Bool :=
  if e.stop then (e, 2 ^ 64 - 1, false)
  else if e.pos == e.dom then (e.testStop dies, 2 ^ 64 - 2, false)
  else ({ e with pos := e.pos + 1, issued := (e.issued + 1) % 2 ^ 64 }, permAt e.dom e.seed e.pos, true)

/-- SPINIT at the home. -/
def Est.begin (e : Est) (n seed : Nat) (fin : Bool) : Est :=
  { e with
    count := 0, mean := 0, m2 := 0, pos := 0, disc := 0, issued := 0, seed := seed, dom := n
    stop := false, cause := 0, nonfin := false, init := true, fin := fin, epoch := (e.epoch + 1) % 2 ^ 32 }

/-- SPTOL at the home (12 R232). -/
def Est.setParam (e : Est) (p : EstParam) (v : Nat) : Est :=
  match p with
  | .tol => { e with tol := v }
  | .z => { e with z := v }
  | .nmin => { e with nmin := max 2 (min v (2 ^ 40)) }

/-! ## Waiters on a run -/

/-- The dies that hold strands of a launch. -/
def State.diesOf (s : State) (launch : Nat) : List Nat :=
  uniq ((s.strands.filter fun t => t.launch == launch && !t.super).map fun t => t.at_.die)

/-- The predicate of an SPWAIT on a run, if the strand waits in one. -/
def Strand.spwaits (t : Strand) (launch est epoch : Nat) : Option Nat :=
  match t.wait with
  | some (.spwait e d ep _ _) => if t.launch == launch && e == est && ep == epoch then some d else none
  | _ => none

/-- Whether the limit of an SPWAIT has not passed: a stop in the cycle in which it elapses still counts (R237). -/
def State.spwaitOpen (s : State) (t : Strand) : Bool :=
  match t.wait with
  | some (.spwait _ _ _ limit since) => limit.all fun l => s.waited t since ≤ l
  | _ => true

/-- Completes the SPWAITs of a run among some strands; a stop that comes after the limit gives false. -/
def State.endSpwaits (s : State) (launch est epoch : Nat) (v : Bool) (l : List Strand) : State :=
  l.foldl (fun s t => match t.spwaits launch est epoch with
    | some d => s.finishWait (t.writePred d (v && s.spwaitOpen t) .set)
    | none => s) s

/-! ## Operations at the home (12 R230, R231, R236, R239) -/

/-- A posted operation arrives. One that finds INIT 0, but SPINIT and SPTOL, is discarded; a run that SPINIT replaces before
it stopped completes its SPWAITs with false. -/
def State.homeOp (s : State) (launch est : Nat) (op : StipOp) : State :=
  match s.est? launch est with
  | none => s
  | some e =>
    match op with
    | .init n seed fin =>
      let s1 := s.putEst launch est (e.begin n seed fin)
      if e.stop then s1 else s1.endSpwaits launch est e.epoch false s.strands
    | .tol p v => s.putEst launch est (e.setParam p v)
    | .acc v => if e.init then s.putEst launch est (e.apply (s.diesOf launch) v).1 else s
    | .next => if e.init then s.putEst launch est (e.next (s.diesOf launch)).1 else s
    | .stop => if e.init && !e.stop then s.putEst launch est (e.stopWith (s.diesOf launch) 2) else s

/-- The next posted operation of a strand to an estimator, if it may arrive: operations of one strand on one estimator arrive
in program order, and an SPACC is a release, behind every earlier one of the strand. -/
def State.nextPosted (s : State) (slot : SlotId) (est : Nat) : Option Posted :=
  let own := s.posted.filter fun p => p.owner == slot
  match own.find? fun p => p.est == est with
  | none => none
  | some p =>
    match p.op with
    | .acc _ => if own.head? == some p then some p else none
    | _ => some p

/-- The kinds of arrival events. -/
inductive ArrivalKind
  | init | tol | acc | stop | next
  deriving DecidableEq, Repr

/-- The kind of a posted operation. -/
def StipOp.kind : StipOp → ArrivalKind
  | .init .. => .init | .tol .. => .tol | .acc _ => .acc | .stop => .stop | .next => .next

/-- The arrival of the next posted operation of a strand to an estimator, when it is of the kind. -/
def State.arrivePosted (s : State) (slot : SlotId) (est : Nat) (k : ArrivalKind) : State :=
  match s.nextPosted slot est with
  | some p =>
    if p.op.kind == k then ({ s with posted := s.posted.erase p } : State).homeOp p.launch p.est p.op else s
  | none => s

/-- Whether a strand has an operation of its own on its way to an estimator. -/
def State.ownOnWay (s : State) (t : Strand) (est : Nat) : Bool := s.posted.any fun p => p.owner == t.at_ && p.est == est

/-! ## The instructions (12 R230 to R237) -/

/-- Posts an operation; the strand goes on. -/
def State.postOp (s : State) (t : Strand) (est : Nat) (op : StipOp) : State :=
  ({ s with posted := s.posted ++ [Posted.mk t.at_ t.launch est op] } : State).complete t

/-- Runs an instruction on an estimator of the strand's launch: BOUNDS(19) when none is reserved. -/
def State.withEst (s : State) (t : Strand) (est : Nat) (f : Est → State) : State :=
  match s.est? t.launch est with
  | none => s.trap t (bounds 19)
  | some e => f e

def execSpinit (g : Guard) (a b c : Nat) (fin : Bool) (s : State) : Out :=
  gated (.spinit g a b c fin) s fun s t =>
    let n := t.rn a
    if n == 0 || 2 ^ 40 < n then s.trap t (bounds 18)
    else s.withEst t c fun _ => s.postOp t c (.init n (t.rn b) fin)

def execSpnext (g : Guard) (d b c : Nat) (s : State) : Out :=
  gated (.spnext g d b c) s fun s t => s.withEst t c fun _ => s.waitIn t (.spnext c d b)

/-- The FP64 bits that SPACC contributes, and the flags of the widening (02 R39). -/
def spaccValue (t : Strand) (a : Nat) (f32 : Bool) : Nat × Nat :=
  if f32 then convert .f32 .f64 .rne false (t.rn a % 2 ^ 32) else (t.rn a, 0)

def execSpacc (g : Guard) (d a c : Nat) (f32 : Bool) (s : State) : Out :=
  released (.spacc g d a c f32) s fun s t =>
    s.withEst t c fun _ =>
      let (v, fl) := spaccValue t a f32
      if d != 0 && t.held.isSome then s.trap t (bounds 20)
      else
        let t1 := t.orFlags fl
        if d != 0 then s.waitIn t1 (.spacc c d v)
        else if t.held.isSome then s.complete (t1.mapLog fun l => { l with spaccs := l.spaccs ++ [(c, v)] })
        else s.postOp t1 c (.acc v)

def execSpstat (g : Guard) (d c : Nat) (sel : EstReg) (s : State) : Out :=
  gated (.spstat g d c sel) s fun s t => s.withEst t c fun _ => s.waitIn t (.spstat c d sel)

def execSptol (g : Guard) (a c : Nat) (par : EstParam) (s : State) : Out :=
  gated (.sptol g a c par) s fun s t => s.withEst t c fun _ => s.postOp t c (.tol par (t.rn a))

def execSpstop (g : Guard) (c : Nat) (s : State) : Out :=
  gated (.spstop g c) s fun s t => s.withEst t c fun _ => s.postOp t c .stop

/-- The longest SPWAIT with a limit. -/
def spwaitMax : Nat := 2 ^ 32

/-- The limit that SPWAIT's operand gives: zero is none. -/
def spwaitLimit (n : Nat) : Option Nat := if n == 0 then none else some (min n spwaitMax)

/-- SPWAIT issues once the strand's own posted operations on the estimator have arrived; it arrives as it issues. -/
def execSpwait (g : Guard) (d a c : Nat) (s : State) : Out :=
  gated (.spwait g d a c) s fun s t =>
    s.withEst t c fun e =>
      if s.ownOnWay t c then s.stall t .other
      else if !e.init then s.trap t (bounds 19)
      else if e.stop then s.complete (t.writePred d true .set)
      else s.waitIn t (.spwait c d e.epoch (spwaitLimit (t.rn a)) (s.now t.at_))

/-! ## Arrivals and replies -/

def execSpinitArrive (slot : SlotId) (est : Nat) (s : State) : Out := .next (s.arrivePosted slot est .init)

def execSptolArrive (slot : SlotId) (est : Nat) (s : State) : Out := .next (s.arrivePosted slot est .tol)

def execSpstopArrive (slot : SlotId) (est : Nat) (s : State) : Out := .next (s.arrivePosted slot est .stop)

/-- BOUNDS(19) when its reply returns: a waiting operation that found INIT 0. -/
def State.notInit (s : State) (t : Strand) : State := s.trap { t with wait := none } (bounds 19)

/-- SPNEXT_ARRIVE: the home answers a waiting SPNEXT, or performs one whose strand was killed. -/
def execSpnextArrive (slot : SlotId) (s : State) : Out :=
  .next (s.onStrand slot fun t =>
    match t.wait with
    | some (.spnext est d b) =>
      if s.ownOnWay t est then s
      else
        match s.est? t.launch est with
        | none => s
        | some e =>
          if !e.init then s.notInit t
          else
            let (e', v, ok) := e.next (s.diesOf t.launch)
            (s.putEst t.launch est e').finishWait ((t.setN d v).writePred b ok .set)
    | _ => ((s.posted.find? fun p => p.owner == slot && p.op == .next).map fun p => s.arrivePosted slot p.est .next).getD s)

/-- SPACC_ARRIVE: a waiting SPACC, behind every earlier operation of its strand, or the next posted one. -/
def execSpaccArrive (slot : SlotId) (est : Nat) (s : State) : Out :=
  .next (s.onStrand slot fun t =>
    match t.wait with
    | some (.spacc e0 d v) =>
      if e0 != est || s.postedBy t then s.arrivePosted slot est .acc
      else
        match s.est? t.launch est with
        | none => s
        | some e =>
          if !e.init then s.notInit t
          else
            let (e', ok) := e.apply (s.diesOf t.launch) v
            (s.putEst t.launch est e').finishWait (t.writePred d ok .set)
    | _ => s.arrivePosted slot est .acc)

/-- SPSTAT_ARRIVE. -/
def execSpstatArrive (slot : SlotId) (s : State) : Out :=
  .next (s.onStrand slot fun t =>
    match t.wait with
    | some (.spstat est d sel) =>
      if s.ownOnWay t est then s
      else
        match s.est? t.launch est with
        | none => s
        | some e => s.finishWait (t.setN d (e.get sel))
    | _ => s)

/-- STOP_BROADCAST_RECEIVE: a die receives the oldest stop broadcast on its way to it. The SPWAITs of that run there
complete, and with END every stage of the launch on the die drains (12 R238). -/
def execStopBroadcastReceive (launch est die : Nat) (s : State) : Out :=
  match s.est? launch est with
  | none => .next s
  | some e =>
    match e.casts.find? fun c => c.1 == die with
    | none => .next s
    | some c =>
      let s1 := s.putEst launch est { e with casts := e.casts.erase c }
      let s2 := s1.endSpwaits launch est c.2.1 true (s.strands.filter fun t => t.at_.die == die)
      let stages := s2.stages.filter fun (g : Stage) => g.launch == launch && g.die == die && g.isRunning
      .next (if c.2.2 then stages.foldl State.startDrain s2 else s2)

/-- SPWAIT_TIMEOUT: the limit elapsed in an earlier cycle; in that cycle a stop could still come. -/
def execSpwaitTimeout (slot : SlotId) (s : State) : Out :=
  .next (s.onStrand slot fun t =>
    match t.wait with
    | some (.spwait _ d _ (some l) since) =>
      if s.waitMoves t && decide (l < s.waited t since) then s.finishWait (t.writePred d false .set) else s
    | _ => s)

end Sys2Proof.Machine
end

