-- ==== Sys2Proof/Machine/Stages.lean ====
section
/-! DEFINITION. Stage instances on cores: placement, binding, and the ends of a checkpoint, a kill, a drain and a resume (16
R303, R304; 17 R320 to R322, R327; 10 R209, R210; 09 R171, R174, R175). -/

namespace Sys2Proof.Machine

/-! ## Placement (16 R294, R304) -/

/-- The slots that are taken, with their launches. -/
abbrev Occupancy := List (SlotId × Nat)

/-- The slots that strands of stages hold now. -/
def State.occupancy (s : State) : Occupancy := (s.strands.filter fun t => !t.super).map fun t => (t.at_, t.launch)

/-- Whether a core holds no strand of another launch. -/
def coreOpen (occ : Occupancy) (launch : Nat) (c : CoreId) : Bool := occ.all fun x => coreOf x.1 != c || x.2 == launch

/-- Slot 15 of core 0 is the runtime strand's. -/
def reservedSlot (i : SlotId) : Bool := i.core == 0 && i.slot == 15

/-- The free slots of a core for a launch. -/
def freeSlots (occ : Occupancy) (launch : Nat) (c : CoreId) : List SlotId :=
  if coreOpen occ launch c then
    ((List.range 16).map fun k => (⟨c.die, c.core, k⟩ : SlotId)).filter fun i => !reservedSlot i && !occ.any fun x => x.1 == i
  else []

/-- The slots that R294 gives the strands of a mode 2 stage. -/
def exactSlots (die core0 spc n : Nat) : List SlotId := (List.range n).map fun i => ⟨die, core0 + i / spc, i % spc⟩

/-- Where a stage's strands go, if all of them fit. -/
def placeStage (occ : Occupancy) (g : Stage) : Option (List SlotId) :=
  if g.mode == 2 then
    let l := exactSlots g.die g.core0 g.spc g.nstrands
    if l.all fun i => (freeSlots occ g.launch (coreOf i)).contains i then some l else none
  else
    let l := ((List.range 32).flatMap fun c => freeSlots occ g.launch ⟨g.die, c⟩).take g.nstrands
    if l.length == g.nstrands then some l else none

/-- The occupancy once a stage is placed. -/
def occupy (occ : Occupancy) (launch : Nat) (l : List SlotId) : Occupancy := occ ++ l.map fun i => (i, launch)

/-- Places stages one after another; whether all fit. -/
def placeAll (occ : Occupancy) : List Stage → Option Occupancy
  | [] => some occ
  | g :: r => match placeStage occ g with
    | none => none
    | some l => placeAll (occupy occ g.launch l) r

/-! ## Banks (01 R23) -/

/-- The banks that a stage needs. -/
def Decls.banks (d : Decls) : Nat :=
  max (max (max ((d.s + 7) / 8) ((d.v + 3) / 4)) (max ((d.p + 1) / 2) ((d.k + 1) / 2))) (max ((d.td + 1) / 2) ((d.acc + 1) / 2))

/-- The stage instances that are resident on a core. -/
def State.residents (s : State) (c : CoreId) : List Stage := s.stages.filter fun g => g.cores.contains c

/-- A register file whose registers in some banks hold zeros: `per` registers of a file stand in one bank. -/
def zeroFile {α : Type} {n : Nat} (per : Nat) (woken : Nat → Bool) (zero : α) (f : Vector α n) : Vector α n :=
  Vector.ofFn fun i => if woken (i.val / per) then zero else f[i]

/-- The registers of a strand after some banks have been powered up again. -/
def Regs.zeroBanks (r : Regs) (woken : Nat → Bool) : Regs :=
  { r with
    s := zeroFile 8 woken 0 r.s
    v := zeroFile 4 woken 0 r.v
    p := zeroFile 2 woken 0 r.p
    k := zeroFile 2 woken 0 r.k
    td := zeroFile 2 woken Td.reset r.td
    acc := zeroFile 2 woken 0 r.acc }

/-- Powers banks 0 to B − 1 of a core and gates the others, B being the largest need of its resident stages and of its strands,
the runtime strand among them. A bank that is powered up again holds zeros, whatever was left in it. -/
def State.powerBanks (s : State) (c : CoreId) : State :=
  let need := (((s.residents c).map fun g => g.decls.banks) ++ (s.strandsOn c).map fun t => t.decls.banks).foldl max 0
  let core := s.core c
  let set := fun (i : Nat) (b : Bank) =>
    if need ≤ i then { b with state := .gated }
    else match b.state with
      | .gated => ⟨.powered, core.cycle.toNat⟩
      | _ => b
  let woken := fun (i : Nat) => decide (i < need) && ((core.banks[i]?).map Bank.state) == some .gated
  let s1 := s.putCore { core with banks := Vector.ofFn fun i => set i.val core.banks[i] }
  if (List.range 8).any woken then
    s1.mapStrands fun t => if coreOf t.at_ == c then { t with regs := t.regs.zeroBanks woken } else t
  else s1

/-! ## Cores as stages come and go -/

/-- The stage instances on a core: resident, or with a strand there. -/
def State.instsOn (s : State) (c : CoreId) : List Nat :=
  uniq ((s.residents c).map Stage.id ++ ((s.strandsOn c).filter fun t => !t.super).map Strand.inst)

/-- The landing maps of a core read zero. -/
def Core.clearMaps (c : Core) : Core := { c with maps := Vector.replicate 64 0 }

/-- A core that takes a stage instance of a launch while no other of it stands there: its scratchpad and landing maps read zero
(09 R171, R179). `keep` are the serial numbers of the runtime strand, whose joins stay. -/
def Core.freshFor (c : Core) (launch : Nat) (keep : List Nat) : Core :=
  { c.clearMaps with
    launch := launch
    spad := [], spadPoison := [], grotto := [], grottoLog := [], joins := c.joins.filter fun j => keep.contains j.owner }

/-- The serial number of the runtime strand of a core. -/
def State.superOn (s : State) (c : CoreId) : List Nat := ((s.strandsOn c).filter Strand.super).map Strand.serial

/-- Prepares the cores of a placement of a launch's stage. Where strands of another instance stand, all is kept. Where another
instance is resident whose strands on the core have all exited, the landing maps read zero (09 R179) and the scratchpad keeps its
contents (DESIGN CHOICE, log entry 54). -/
def State.takeCores (s : State) (launch : Nat) (l : List CoreId) : State :=
  l.foldl (fun s c =>
    if (s.strandsOn c).any fun t => !t.super && t.launch == launch then s
    else s.putCore (if (s.residents c).any fun g => g.launch == launch then (s.core c).clearMaps
      else (s.core c).freshFor launch (s.superOn c))) s

/-- A launch has ended: the kernel-class state of the cores that are still its own is destroyed, and its regions and marks
go everywhere (00 R2). The cells of regions that belong to others stay. -/
def Core.endLaunch (c : Core) (launch : Nat) (insts keep : List Nat) : Core :=
  let regions := c.regions.filter fun r => match r.owner with
    | .tagged i _ _ => !insts.contains i
    | .handle .. => true
  if c.launch == launch then
    { (c.freshFor 0 keep) with
      regions := regions, codebook := [], codeOwner := none
      cells := c.cells.filter fun x => regions.any fun r => decide (r.base ≤ x.1) && decide (x.1 < r.base + r.size) }
  else { c with regions := regions }

/-- Zeroes the stripes of a core that only an ended instance had marked, and clears their bits (09 R175). A kill that sends the
instance back to READY ends nothing: its stripes stay (09 R190; 17 R321). -/
def Core.endGrotto (c : Core) (inst : Nat) : Core :=
  let rest := c.grotto.map fun g => { g with insts := g.insts.filter (· != inst) }
  let gone := (rest.filter fun g => g.insts.isEmpty).map GrottoStripe.stripe
  { c with
    grotto := rest.filter fun g => !g.insts.isEmpty
    spad := c.spad.filter fun b => !gone.contains (b.1 / 2048)
    spadPoison := c.spadPoison.filter fun x => !gone.contains (x / 64) }

/-- The regions of a core that carry the tag of a stage. -/
def Core.taggedOf (c : Core) (inst : Nat) : List Region :=
  c.regions.filter fun r => match r.owner with | .tagged n _ _ => n == inst | .handle .. => false

/-- The cores on which a stage instance stands, whose stripes it has marked or where it has tagged regions. -/
def State.coresOf (s : State) (inst : Nat) : List CoreId :=
  uniq (((s.stage? inst).map Stage.cores).getD [] ++ (s.strandsOf inst).map (fun t => coreOf t.at_) ++
    (s.cores.filter fun c => (c.grotto.any fun g => g.insts.contains inst) || !(c.taggedOf inst).isEmpty).map Core.id)

/-- Applies a change to cores. -/
def State.mapCores (s : State) (l : List CoreId) (f : Core → Core) : State :=
  l.foldl (fun s c => s.putCore (f (s.core c))) s

/-- The copies and regions of a stage instance leave a core, and the record of its grotto copies. Its joins stay, for copies of
other strands that wait for them. -/
def Core.dropStage (c : Core) (inst : Nat) (slots : List SlotId) : Core :=
  { c with
    copies := c.copies.filter fun o => o.inst != inst
    grottoLog := c.grottoLog.filter fun o => o.inst != inst
    regions := c.regions.filter fun r => match r.owner with
      | .handle i _ => !slots.contains i
      | .tagged n _ _ => n != inst }

/-! ## The dependence table (16 R303) -/

/-- Whether a launch is still in the dependence table. -/
def State.launchLives (s : State) (n : Nat) : Bool := (s.launch? n).isSome

/-- The cores that a saved stage stood on. -/
def Stage.savedOn (g : Stage) : List CoreId := (g.saved.map fun v => v.cores.map SavedCore.id).getD []

/-- The cores of a mode 2 stage. -/
def Stage.exactCores (g : Stage) : List CoreId := uniq ((exactSlots g.die g.core0 g.spc g.nstrands).map coreOf)

/-- Whether two lists of cores share none. -/
def coresApart (l m : List CoreId) : Bool := l.all fun c => !m.contains c

/-- Whether a stage of the pre-empting launch has left the cores that its victim `v` gave up. One that runs elsewhere has, and
so has one whose place lies elsewhere; one that has yet to bind has not. One that is SAVED has left if it bound no earlier than
the victim, and one that is READY if it bound later, for a kill or a save has then taken it off; otherwise it still waits for
those cores (R299; log entry 49). -/
def Stage.leftCoresOf (g v : Stage) : Bool :=
  g.die != v.die || (g.mode == 2 && coresApart g.exactCores v.savedOn) ||
    match g.state with
    | .done => true
    | .saved _ => decide (v.since ≤ g.since)
    | .running | .stoppingSave _ | .stoppingKill | .stoppingDrain => coresApart g.cores v.savedOn
    | .ready => decide (v.since < g.since)
    | .pending => false

/-- Whether the stages of a pre-empting launch have left the cores of its victim. -/
def State.leftCores (s : State) (launch : Nat) (v : Stage) : Bool :=
  s.stages.all fun (g : Stage) => g.launch != launch || g.leftCoresOf v

/-- PENDING entries whose AFTER launch has completed become READY, or, where they have none, those whose planned cores are free,
which are the cores that R304 gives them now (DEDUCED, log entry 49); so do SAVED ones whose pre-empting launch has left their
cores. -/
def State.promote (s : State) : State :=
  { s with stages := s.stages.map (fun (g : Stage) =>
      match g.state with
      | .pending =>
        if match (s.launch? g.launch).bind Launch.after with
          | some n => !s.launchLives n
          | none => (placeStage s.occupancy g).isSome
        then { g with state := .ready } else g
      | .saved (some n) => if s.leftCores n g then { g with state := .ready } else g
      | _ => g) }

/-- The order in which a die binds READY entries: class, TOKENS, arrival, stage. -/
def bindsBefore (s : State) (a b : Stage) : Bool :=
  match s.launch? a.launch, s.launch? b.launch with
  | some x, some y =>
    if x.cls != y.cls then y.cls < x.cls
    else if x.tokens != y.tokens then y.tokens < x.tokens
    else if x.serial != y.serial then x.serial < y.serial
    else a.index < b.index
  | _, _ => false

/-- Whether a READY entry is the next that its die binds: READY entries bind strictly in their order (log entry 45). -/
def State.nextToBind (s : State) (g : Stage) : Bool :=
  g.state == .ready && !s.stages.any fun (h : Stage) =>
    h.state == .ready && h.die == g.die && h.id != g.id && bindsBefore s h g

/-! ## Binding (16 R304; 01 R19) -/

/-- A strand that starts, with the next serial number of the device. -/
def State.enroll (s : State) (t : Strand) : State :=
  let n := s.fabric.started + 1
  { s.putStrand { t with serial := n, fenceMark := s.nextCopy } with fabric := { s.fabric with started := n } }

/-- Starts one strand. -/
def State.startStrand (s : State) (g : Stage) (cls : Nat) (i : SlotId) : State :=
  s.enroll (Strand.start i false g.id g.launch g.world cls (BitVec.ofNat 64 g.entry) g.decls g.widths (s.now i))

/-- A channel moves to another home, and its clock goes on as it was (10 R203; 16 R289). -/
def Chan.moveTo (x : Chan) (s : State) (c : CoreId) : Chan :=
  { x with home := c, skew := x.skew + (s.core x.home).cycle.toNat - (s.core c).cycle.toNat }

/-- The home of the channels that a stage produces: the core of its lowest-numbered strand (14 R253). -/
def State.homeChannels (s : State) (g : Stage) (c : CoreId) : State :=
  { s with chans := s.chans.map (fun (x : Chan) => if x.producer == g.id then x.moveTo s c else x) }

/-- A stage that runs from now on, on some cores. -/
def Stage.begin (g : Stage) (now : Nat) (cores : List CoreId) : Stage :=
  { g with state := .running, since := now, saved := none, waiters := [], cores := cores }

/-- The cores of slots, each once. -/
def coresOfSlots (l : List SlotId) : List CoreId := uniq (l.map coreOf)

/-- STAGE_BIND: a READY stage that has not run, or that a kill sent back, starts all its strands. -/
def execStageBind (inst : Nat) (s0 : State) : Out :=
  let s := s0.promote
  match s.stage? inst with
  | none => .next s0
  | some g =>
    match if s.nextToBind g && g.saved.isNone && (s.die g.die).released then placeStage s.occupancy g else none with
    | none => .next s0
    | some l =>
      let cores := coresOfSlots l
      let cls := ((s.launch? g.launch).map Launch.cls).getD 0
      let s1 := s.takeCores g.launch cores
      let s2 := s1.putStage (g.begin s.pkgCycle cores)
      let s3 := l.foldl (fun s i => s.startStrand g cls i) s2
      let s4 := match l.head? with | some i => s3.homeChannels g (coreOf i) | none => s3
      .next (cores.foldl State.powerBanks s4)

/-! ## The end of a checkpoint (17 R320) -/

/-- Whether a stripe lies in a retained range. -/
def retained (m : List (Nat × Nat)) (stripe : Nat) : Bool := m.any fun r => r.1 ≤ stripe && stripe < r.1 + r.2

/-- Whether a checkpoint keeps the bytes of a stripe: it is retained and not grotto. -/
def Core.keeps (c : Core) (g : Stage) (stripe : Nat) : Bool := retained g.spmap stripe && !c.grotto.any fun x => x.stripe == stripe

/-- What a checkpoint keeps of a core; `owners` are the serial numbers of the stage's strands. -/
def Core.save (c : Core) (g : Stage) (owners : List Nat) : SavedCore where
  id := c.id
  spad := c.spad.filter fun b => c.keeps g (b.1 / 2048)
  poison := c.spadPoison.filter fun x => c.keeps g (x / 64)
  grottoLog := c.grottoLog.filter fun o => o.inst == g.id
  maps := c.maps
  copies := c.copies.filter fun o => o.inst == g.id
  joins := c.joins.filter fun j => owners.contains j.owner

/-- What leaves a core with a saved stage instance: its copies and the record of its grotto copies. Its joins stay, for copies
of other strands that wait for them, and its grotto stripes until the instance ends (09 R175). -/
def Core.leaveSaved (c : Core) (inst : Nat) : Core :=
  { c with copies := c.copies.filter fun o => o.inst != inst, grottoLog := c.grottoLog.filter fun o => o.inst != inst }

/-- The regions of strands stay in place under the tag of their stage. -/
def Core.tagRegions (c : Core) (inst : Nat) (slots : List SlotId) : Core :=
  { c with regions := c.regions.map fun r => match r.owner with
      | .handle i h => if slots.contains i then { r with owner := .tagged inst i h } else r
      | .tagged .. => r }

/-- Whether a stopped strand still has an answer to come, or stores or operations on their way (11 R223). -/
def State.unsettled (s : State) (t : Strand) : Bool := t.wait.any Wait.mustFinish || s.owesAt t .pod allStreams

/-- A save touches the banks of a core: those in retention start to wake (01 R24). -/
def Core.touchBanks (c : Core) : Core := c.mapBanks (List.range 8) fun b => b.startWake c.cycle.toNat

/-- Strands leave their slots. -/
def State.vacate (s : State) (l : List Strand) : State :=
  l.foldl (fun s t => (s.unpark t.at_).dropStrand t.at_) s

/-- The CHKPT of the runtime strand that waits for a stage completes. -/
def State.chkptDone (s : State) (inst : Nat) : State :=
  s.strands.foldl (fun s t => if t.wait == some (.chkpt inst) then s.finishWait t else s) s

/-- The cycles that a stage has run. -/
def Stage.ranAt (g : Stage) (now : Nat) : Nat :=
  match g.state with
  | .running | .stoppingSave _ | .stoppingKill | .stoppingDrain => g.ran + (now - g.since)
  | .pending | .ready | .saved _ | .done => g.ran

/-- CHECKPOINT_COMPLETE: the state is saved, regions are tagged, the cores freed; the entry is SAVED, and READY at once when
CHKPT asked. -/
def execCheckpointComplete (inst : Nat) (s : State) : Out :=
  match s.stage? inst with
  | none => .next s
  | some g =>
    match g.state with
    | .stoppingSave for_ =>
      let ts := s.strandsOf inst
      if ts.isEmpty || ts.any s.unsettled then .next s
      else
        let slots := ts.map Strand.at_
        let cores := coresOfSlots slots
        let saved : Saved := ⟨ts, cores.map fun c => (s.core c).save g (ts.map Strand.serial)⟩
        let s1 := s.mapCores cores fun c => ((c.tagRegions inst slots).leaveSaved inst).touchBanks
        let s2 := ((cores.foldl State.queuesFreed s1).vacate ts).writeSaveArea g.world
        let s3 := s2.putStage { g with
          state := if for_.isSome then .saved for_ else .ready
          saved := some saved, ran := g.ranAt s.pkgCycle, cores := [] }
        .next ((cores.foldl State.powerBanks s3).chkptDone inst).promote
    | _ => .next s

/-! ## The ends of a kill and a drain (10 R209, R210; 17 R321) -/

/-- The items of strands go back to the head of the queue. -/
def Stage.requeueAll (g : Stage) (ts : List Strand) : Stage :=
  ts.foldr (fun t g => match t.held with | some h => g.requeue h.item | none => g) g

/-- Channel bytes that a stage's closed inputs hold short of a whole firing (10 R194). -/
def State.shortBytes (s : State) (g : Stage) : Nat :=
  ((s.inputs g).map fun x =>
    if x.2.detached || x.2.bytes == 0 then 0 else x.1.total % x.2.bytes).foldl (· + ·) 0

/-- A stage that is DONE: its items are discarded and counted, those that saved strands hold among them. One that ran longer than
its REMAIN sets VOID (16 R299). -/
def State.finishStage (s : State) (g0 : Stage) : State :=
  let g := g0.requeueAll ((g0.saved.map Saved.strands).getD [])
  (if g.remain < g.ranAt s.pkgCycle then s.setVoid g.launch else s).putStage { g with
    state := .done, saved := none, queue := [], waiters := [], cores := []
    ran := g.ranAt s.pkgCycle
    discardedItems := g.discardedItems + g.queue.length
    discardedBytes := if g.channelFed && s.inputClosedNow g then s.shortBytes g else 0 }

/-- The codebook RAM that a stage instance filled is empty, on every core but some (02 R45). -/
def State.dropCodebook (s : State) (inst : Nat) (keep : List CoreId) : State :=
  { s with cores := s.cores.map fun (c : Core) =>
      if c.codeOwner == some inst && !keep.contains c.id then { c with codebook := [], codeOwner := none } else c }

/-- What is left on the cores of a stage instance when it is killed or has `ended`; the stage is no longer resident there. -/
def State.leaveCores (s : State) (g : Stage) (ended : Bool) (cores : List CoreId) (slots : List SlotId) : State :=
  let s1 := (s.mapCores cores fun c =>
    let c' := c.dropStage g.id slots
    if ended then c'.endGrotto g.id else c').dropCodebook g.id []
  (cores.foldl (fun s c =>
    let s' := if (s.instsOn c).isEmpty then s.putCore (s.core c).clearMaps else s
    (s'.queuesFreed c).powerBanks c) s1).sweepReplies

/-- The writes that a killed COMMIT holds at its targets are discarded there (10 R200, R210). -/
def State.discardHeld (s : State) (t : Strand) : State :=
  match t.held with
  | some h => if t.wait.any Wait.heldAtKill then s.sendTargets t .discard h.log else s
  | none => s

/-- KILL_COMPLETE: logs are discarded, items requeued, regions freed and cores freed; the entry is READY, or DONE when its
launch was killed. -/
def execKillComplete (inst : Nat) (s : State) : Out :=
  match s.stage? inst with
  | none => .next s
  | some g =>
    if g.state != .stoppingKill then .next s
    else
      let ts := s.strandsOf inst
      let launch := s.launch? g.launch
      let killed := launch.any Launch.killed
      if (ts.any s.postedBy && !killed) || ts.any fun t => t.wait.any Wait.isSession then .next s
      else
        let s0 := if killed then { s with posted := s.posted.filter fun p => p.launch != g.launch } else s
        let cores := s0.coresOf inst
        let g1 := g.requeueAll ts
        let s1 := (ts.foldl State.discardHeld s0).vacate ts
        let ended := killed || ts.isEmpty
        let s2 := if ended then s1.finishStage g1
          else s1.putStage { g1 with state := .ready, saved := none, mcode := none, ran := g.ranAt s.pkgCycle, cores := [] }
        .next ((s2.leaveCores g ended cores (ts.map Strand.at_)).chkptDone inst).promote

/-- A stage whose last strand has exited is DONE, its pre-emption void (16 R303); its cores are those it stood on before. -/
def State.stageEnds (s : State) (g : Stage) : State :=
  (((s.finishStage g).leaveCores g true (s.coresOf g.id) []).chkptDone g.id).promote

/-- DRAIN_COMPLETE. -/
def execDrainComplete (inst : Nat) (s : State) : Out :=
  match s.stage? inst with
  | none => .next s
  | some g => if g.state == .stoppingDrain && (s.strandsOf inst).isEmpty then .next (s.stageEnds g) else .next s

/-- STAGE_COMPLETE. -/
def execStageComplete (inst : Nat) (s : State) : Out :=
  match s.stage? inst with
  | none => .next s
  | some g =>
    let stopping := match g.state with | .running | .stoppingSave _ | .stoppingKill => true | _ => false
    if stopping && (s.strandsOf inst).isEmpty then .next (s.stageEnds g) else .next s

/-! ## Resuming (17 R321, R322, R327; 09 R174) -/

/-- The new slot of a saved slot. -/
def newSlot (m : List (SlotId × SlotId)) (i : SlotId) : SlotId := ((m.find? fun p => p.1 == i).map (·.2)).getD i


/-- The saved cells of a stage's regions that must lie on a core. -/
def savedCells (v : Saved) (old : CoreId) (tagged : List Region) : Nat :=
  let spilled := ((v.strands.filter fun t => coreOf t.at_ == old).flatMap fun t => t.spilled.map fun p => p.2.length).foldl (· + ·) 0
  spilled + (tagged.map Region.size).foldl (· + ·) 0

/-- Whether a core's store can hold the saved regions of an old core: free cells and cells of tagged regions count. -/
def State.storeHolds (s : State) (v : Saved) (inst : Nat) (old new_ : CoreId) : Bool :=
  let used := (((s.core new_).regions.filter Region.resident).map Region.size).foldl (· + ·) 0
  savedCells v old ((s.core old).taggedOf inst) + used ≤ accCells

/-- Whether the queues of a core have room for the copies saved on an old one (09 R177). -/
def State.queuesHold (s : State) (v : Saved) (old new_ : CoreId) : Bool :=
  let saved := (v.cores.filter fun c => c.id == old).flatMap SavedCore.copies
  (List.range 4).all fun q => (saved.filter fun o => o.q == q).length + ((s.core new_).queueOps q).length ≤ queueLimit

/-- Whether the strands of an old core may resume on a new one: another core than its own holds no stage, its store holds their
regions and its queues their copies (log entry 21). -/
def State.mayResume (s : State) (v : Saved) (inst : Nat) (old new_ : CoreId) : Bool :=
  (old == new_ || (s.instsOn new_).isEmpty) && s.storeHolds v inst old new_ && s.queuesHold v old new_

/-- The slots on a new core for the strands of an old one, as pairs: the lowest free ones, or the same where `exact` holds. -/
def State.resumeCore (s : State) (g : Stage) (v : Saved) (exact : Bool) (old new_ : CoreId) : Option (List (SlotId × SlotId)) :=
  let l := sortBy SlotId.slot ((v.strands.map Strand.at_).filter fun i => coreOf i == old)
  let free := freeSlots s.occupancy g.launch new_
  let want := if exact then l.map fun i => ⟨new_.die, new_.core, i.slot⟩ else free.take l.length
  if want.length == l.length && want.all free.contains && s.mayResume v g.id old new_ then some (l.zip want) else none

/-- Whether the slots of a saved stage must stay: its placement is exact, or strands of it have issued MMAQs, whose teams are
strands of one slot (07 R156, R167). -/
def keepsSlots (g : Stage) (v : Saved) : Bool := g.mode == 2 || v.strands.any fun t => !t.mmaqCounts.isEmpty

/-- The places in quad `new_` of a die for the strands of a saved stage in quad `old`: every core keeps its number in the
quad. -/
def State.resumeQuad (s : State) (g : Stage) (v : Saved) (old new_ : Nat) : Option (List (SlotId × SlotId)) :=
  let cores := uniq ((v.strands.map fun t => coreOf t.at_).filter fun c => c.core / 4 == old)
  cores.foldl (fun acc c => acc.bind fun l =>
    (s.resumeCore g v (keepsSlots g v) c ⟨g.die, 4 * new_ + c.core % 4⟩).map fun m => l ++ m) (some [])

/-- Where a saved stage resumes, as pairs of old and new slots: quad after quad of it in the lowest quad that can take it, in place
where its placement is exact (16 R294, R304; 17 R322). Strands that shared a core share one again, and a core keeps its number in
its quad, so that space Q and the teams of MMAQs stay as they were (07 R155, R167; log entry 21). -/
def State.resumePlace (s : State) (g : Stage) (v : Saved) : Option (List (SlotId × SlotId)) :=
  let quads := uniq (v.strands.map fun t => t.at_.core / 4)
  (quads.foldl (fun (acc : Option (List Nat × List (SlotId × SlotId))) q => acc.bind fun x =>
    let cand := if g.mode == 2 then [q] else (List.range 8).filter fun k => !x.1.contains k
    (cand.findSome? fun k => (s.resumeQuad g v q k).map fun m => (k, m)).map fun y => (y.1 :: x.1, x.2 ++ y.2))
    (some ([], []))).map (·.2)

/-- The regions that are still tagged on their own core are used in place; any other goes to the save area. -/
def State.claimRegions (s : State) (inst : Nat) (m : List (SlotId × SlotId)) : State :=
  s.cores.foldl (fun s c0 =>
    ((s.core c0.id).taggedOf inst).foldl (fun s r =>
      match r.owner with
      | .tagged _ i h =>
        if coreOf (newSlot m i) == c0.id then
          s.putCore { s.core c0.id with regions := (s.core c0.id).regions.map fun x =>
            if x == r then { r with owner := .handle (newSlot m i) h } else x }
        else s.spillRegion c0.id r
      | .handle .. => s) s) s

/-- Whether a resume sets a stripe anew: a retained one, and one that only this instance had marked grotto; a stripe that
another instance has marked stays (log entry 52). -/
def Core.renews (c : Core) (g : Stage) (stripe : Nat) : Bool :=
  match c.grotto.find? fun x => x.stripe == stripe with
  | some x => x.insts.all (· == g.id)
  | none => retained g.spmap stripe

/-- Restores the retained stripes and the landing maps of a core, and its copies and joins. Where another instance of the
launch stands on the core, its discardable stripes keep their contents (R171), and the landing maps, which the instances
share, take the saved values (log entry 52). -/
def Core.restore (c : Core) (v : SavedCore) (g : Stage) (m : List (SlotId × SlotId)) : Core :=
  { c with
    spad := (v.spad.filter fun b => c.renews g (b.1 / 2048)).foldl (fun sp b => memSet sp b.1 b.2)
      (c.spad.filter fun b => !c.renews g (b.1 / 2048))
    spadPoison := (c.spadPoison.filter fun x => !c.renews g (x / 64)) ++ v.poison.filter fun x => c.renews g (x / 64)
    grotto := c.grotto.filter fun x => !x.insts.all (· == g.id)
    maps := v.maps
    grottoLog := c.grottoLog ++ v.grottoLog.map fun o => { o with owner := newSlot m o.owner }
    copies := sortBy CopyOp.num (c.copies ++ v.copies.map fun o =>
      { o with owner := newSlot m o.owner, homes := uniq (o.homes ++ [c.id]) })
    joins := (c.joins.filter fun j => !v.joins.any fun x => x.id == j.id) ++ v.joins }

/-- Performs some chunks of a grotto copy again (09 R174). A chunk that fails a check is left out, and its bytes read zero (DESIGN
CHOICE, log entry 55). -/
def State.refetch (s : State) (o : CopyOp) (chunks : List Nat) : State :=
  chunks.foldl (fun s k => match prepareChunk s o k [] with
    | (s1, .error _) => s1
    | (s1, .ok d) => s1.writeChunk o d) s

/-- Performs again the grotto copies of a resumed stage, in their original order over all its cores: the completed ones whole, the
others as far as they had landed. -/
def State.refetchAll (s : State) (inst : Nat) (cores : List CoreId) : State :=
  let l := cores.map s.core
  let whole := (l.flatMap Core.grottoLog).filter (fun o => o.inst == inst) |>.map fun o => (o, List.range o.chunks)
  let part := (l.flatMap Core.copies).filter (fun o => o.inst == inst && o.grotto) |>.map fun o => (o, o.landed)
  (sortBy (fun x => x.1.num) (whole ++ part)).foldl (fun s x => s.refetch x.1 x.2) s

/-- Performs the stage's last MCODE again where the codebook RAM is foreign or empty; a repeat that fails leaves it empty (17
R321). -/
def State.reloadCodebook (s : State) (g : Stage) (i : SlotId) : State :=
  let core := s.core (coreOf i)
  match g.mcode with
  | none => s
  | some (addr, sp) =>
    if core.codeOwner == some g.id && !core.codebook.isEmpty then s
    else
      let p : Party := ⟨coreOf i, g.world, g.id⟩
      let empty := fun (s : State) => s.putCore { s.core (coreOf i) with codebook := [], codeOwner := none }
      match readRun s p 0 [] .policy ⟨sp, addr, imageBytes⟩ with
      | (s1, .error _) => empty s1
      | (s1, .ok d) =>
        if d.poisoned || !imageOk d.bytes then empty s1
        else s1.putCore { s1.core (coreOf i) with codebook := toBytes d.bytes, codeOwner := some g.id }

/-- A strand as it resumes in its new slot: its counts of local cycles begin again. -/
def Strand.resumeAt (t : Strand) (i : SlotId) (now : Nat) : Strand :=
  { t with at_ := i, phase := .live, readyAt := now, lastIssue := now, urgent := false, bankStall := false, stall := none }

/-- Puts a resumed strand in its slot; a parked one enters the park list again. -/
def State.resumeStrand (s : State) (i : SlotId) (t : Strand) : State :=
  let t' := t.resumeAt i (s.now i)
  let s1 := s.putStrand t'
  match t'.frame with
  | none =>
    match t'.pending with
    | [] => s1
    | x :: r => if t'.wait.any Wait.mustFinish then s1 else s1.suspendStrand { t' with pending := r } x
  | some _ =>
    let d := s1.die i.die
    (s1.putDie { d with park := d.park ++ [i] }).mapStrands (wakeRuntime s1 i.die)

/-- The spilled regions of a strand's outstanding operations are reloaded: their continuation is the first use of the handle
(17 R322, R327). -/
def State.reloadOps (s : State) (i : SlotId) : State :=
  match s.strand? i with
  | none => s
  | some t => (t.ops.filterMap MatOp.handle).foldl (fun s h => match s.strand? i with
      | none => s
      | some u => match s.ensureLoaded u h with
        | .ok (s1, u1) => s1.putStrand u1
        | .error _ => s) s

/-- STAGE_RESUME: a READY stage that was saved binds again, with its stripes, maps, regions, copies and strands. -/
def execStageResume (inst : Nat) (s0 : State) : Out :=
  let s := s0.promote
  match s.stage? inst with
  | none => .next s0
  | some g =>
    match g.saved.bind fun v => if s.nextToBind g && (s.die g.die).released then (s.resumePlace g v).map fun m => (v, m) else none with
    | none => .next s0
    | some (v0, m) =>
      let l := m.map (·.2)
      let cores := coresOfSlots l
      let s1 := (s.takeCores g.launch cores).claimRegions inst m
      let v := ((s1.stage? inst).bind Stage.saved).getD v0
      let s2 := v.cores.foldl (fun s x =>
        let new_ := ((m.find? fun p => coreOf p.1 == x.id).map fun p => coreOf p.2).getD x.id
        s.putCore ((s.core new_).restore x g m)) s1
      let s3 := (s2.putStage ({ g with saved := none }.begin s.pkgCycle cores)).dropCodebook inst cores
      let s4 := s3.refetchAll inst cores
      let s5 := cores.foldl (fun s c => match l.find? fun i => coreOf i == c with
        | some i => s.reloadCodebook g i
        | none => s) s4
      let s6 := cores.foldl State.powerBanks s5
      let s7 := l.foldl State.reloadOps (v.strands.foldl (fun s t => s.resumeStrand (newSlot m t.at_) t) s6)
      .next (match l.head? with | some i => s7.homeChannels g (coreOf i) | none => s7).settleTeams

end Sys2Proof.Machine
end

