-- ==== Sys2Proof/Machine/Queues.lean ====
section
/-! DEFINITION. Submission and completion queues: rings, contexts and switching (16 R290 to R292). -/

namespace Sys2Proof.Machine

/-! ## Rings (R290)

Ring indices run freely: entry `i` of a ring stands at place `i mod SIZE`, and a ring is full when its two indices differ by
SIZE (log entry 22). -/

/-- Indices are 32 bits wide. -/
def wrap32 (n : Nat) : Nat := n % 2 ^ 32

/-- Whether a queue is fetched from: ENABLE with a size that does not disable it. -/
def SubQueue.enabled (x : SubQueue) : Bool := bitAt x.qctl 0 && ringSizeOk 16 4096 x.size

/-- The switch-in priority. -/
def SubQueue.qprio (x : SubQueue) : Nat := field x.qctl 4 2

/-- The tail as the host last wrote it. -/
def SubQueue.lastTail (x : SubQueue) : Nat := x.shadow.getD x.tail

/-- Whether a queue is pending. -/
def SubQueue.pending (x : SubQueue) : Bool := x.enabled && x.head != x.lastTail

/-- SQ_HEAD as it reads (R290, R292): HEAD, and SWOUT of a queue that is switched out. -/
def SubQueue.headWord (x : SubQueue) : Nat := x.head + boolNat x.swout * 2 ^ 63

/-- Whether the completion ring has room. -/
def SubQueue.cplRoom (x : SubQueue) : Bool := wrap32 (x.cqTail + 2 ^ 32 - x.cqHead) < x.size

/-- The 16 bytes of a completion entry. -/
def CplEntry.bytes (e : CplEntry) : List Byte :=
  leBytes 8 e.serial ++ leBytes 4 e.tag ++ leBytes 1 e.status ++ leBytes 1 (boolNat e.void) ++ leBytes 2 0

/-- Writes a completion entry at CQ_TAIL, which advances; an entry whose place does not translate is lost (log entry 22). -/
def State.writeCpl (s : State) (x : SubQueue) (e : CplEntry) : State :=
  let s1 := (s.write0 (x.cqBase + 16 * (x.cqTail % max x.size 1)) e.bytes).getD s
  s1.putQueue { x with cqTail := wrap32 (x.cqTail + 1) }

/-- Whether an entry must wait for the completion ring. -/
def SubQueue.cplWaits (x : SubQueue) : Bool := !x.waiting.isEmpty || !x.cplRoom

/-- Writes a completion entry, or lets it wait for room with VOID set (R299). -/
def State.postCpl (s : State) (q : Nat) (e : CplEntry) : State :=
  let x := s.queue q
  if x.cplWaits then s.putQueue { x with waiting := x.waiting ++ [{ e with void := true }] } else s.writeCpl x e

/-- COMPLETION_ENTRY_WRITE: the oldest waiting entry is written once the ring has room. -/
def execCompletionEntryWrite (q : Nat) (s : State) : Out :=
  let x := s.queue q
  match x.waiting with
  | [] => .next s
  | e :: r => if x.cplRoom then .next (s.writeCpl { x with waiting := r } e) else .next s

/-! ## The clocks of a queue (R291) -/

/-- Since when a queue is pending, and since when it is empty. -/
def SubQueue.stamp (x : SubQueue) (now : Nat) : SubQueue :=
  { x with
    pendingSince := if x.pending then some (x.pendingSince.getD now) else none
    emptySince := if x.head == x.tail then some (x.emptySince.getD now) else none }

/-- Stores a queue with its clocks. -/
def State.setQueue (s : State) (x : SubQueue) : State := s.putQueue (x.stamp s.pkgCycle)

/-- SQ_TAIL_WRITE: a queue in a context takes it; a switched-out queue takes it into its shadow tail. -/
def execSqTailWrite (q v : Nat) (s : State) : Out :=
  s.byTdi <| if 64 ≤ q then .next s
  else
    let x := s.queue q
    .next (s.setQueue (if x.inContext.isSome then { x with tail := wrap32 v } else { x with shadow := some (wrap32 v) }))

/-- CQ_HEAD_WRITE. -/
def execCqHeadWrite (q v : Nat) (s : State) : Out :=
  s.byTdi <| if 64 ≤ q then .next s else .next (s.putQueue { s.queue q with cqHead := wrap32 v })

/-! ## Contexts (R291, R292) -/

/-- The launch scheduler's contexts. -/
def contexts : Nat := 16

/-- The queues that are in a context. -/
def State.inContexts (s : State) : List SubQueue := s.queues.filter fun x => x.inContext.isSome

/-- The pending queues that are switched out. -/
def State.pendingOut (s : State) : List SubQueue := s.queues.filter fun x => x.inContext.isNone && x.pending

/-- Cycles that a queue has been pending. -/
def SubQueue.pendingFor (x : SubQueue) (now : Nat) : Nat := now - x.pendingSince.getD now

/-- Whether a free context takes `a` no later than `b`: higher QPRIO, or as high and at least as long pending. -/
def takesFirst (now : Nat) (a b : SubQueue) : Bool :=
  b.qprio < a.qprio || (a.qprio == b.qprio && b.pendingFor now ≤ a.pendingFor now)

/-- Whether another queue than `x` is pending, in a context or not (R291). -/
def State.othersPending (s : State) (x : SubQueue) : List SubQueue := s.queues.filter fun y => y.q != x.q && y.pending

/-- A queue in a context: the shadow tail is taken, and SQ_HEAD.SWOUT reads 0. -/
def SubQueue.switchIn (x : SubQueue) (now : Nat) : SubQueue :=
  { x with tail := x.lastTail, shadow := none, inContext := some now, emptySince := none, swout := false }

/-- A queue out of its context: SQ_HEAD.SWOUT reads 1. -/
def SubQueue.switchOut (x : SubQueue) : SubQueue :=
  { x with inContext := none, emptySince := none, pendingSince := none, swout := true }

/-- QUEUE_SWITCH_IN. -/
def execQueueSwitchIn (q : Nat) (s : State) : Out :=
  let x := s.queue q
  if s.inContexts.length < contexts && x.inContext.isNone && x.pending && s.pendingOut.all (takesFirst s.pkgCycle x) then
    .next (s.setQueue (x.switchIn s.pkgCycle))
  else .next s

/-- The cycles after which an empty queue goes, and after which a pending one forces another out. -/
def idleBound : Nat := 2 ^ 16
def fairBound : Nat := 2 ^ 20

/-- QUEUE_IDLE_SWITCH_OUT. -/
def execQueueIdleSwitchOut (q : Nat) (s : State) : Out :=
  let x := s.queue q
  let idle := match x.emptySince with | some t => decide (idleBound ≤ s.pkgCycle - t) | none => false
  if x.inContext.isSome && idle && !(s.othersPending x).isEmpty then .next (s.setQueue x.switchOut) else .next s

/-- Whether the context of `a` goes no later than that of `b`: lower QPRIO, or as low and in at least as long. -/
def leavesFirst (a b : SubQueue) : Bool := a.qprio < b.qprio || (a.qprio == b.qprio && a.inContext.getD 0 ≤ b.inContext.getD 0)

/-- QUEUE_FAIR_SWITCH_OUT. -/
def execQueueFairSwitchOut (q : Nat) (s : State) : Out :=
  let x := s.queue q
  if x.inContext.isSome && s.inContexts.all (leavesFirst x) &&
      (s.othersPending x).any (fun y => x.qprio ≤ y.qprio && decide (fairBound ≤ y.pendingFor s.pkgCycle)) then
    .next (s.setQueue x.switchOut)
  else .next s

/-! ## Fetching an entry (R290) -/

/-- A submission entry. -/
structure SubEntry where
  lrec : Nat
  len : Nat
  tag : Nat
  deriving DecidableEq, Repr

/-- Whether the scheduler may fetch the next entry of a queue. -/
def SubQueue.mayFetch (x : SubQueue) : Bool := x.inContext.isSome && x.enabled && x.head != x.tail && !x.cplWaits

/-- The entry at HEAD, if it can be read. -/
def State.entryAt (s : State) (x : SubQueue) : Option SubEntry :=
  (s.read0 (x.base + 16 * (x.head % max x.size 1)) 16).map fun b => ⟨leAt b 0 8, leAt b 8 4, leAt b 12 4⟩

/-- HEAD advances past a fetched entry. -/
def SubQueue.fetched (x : SubQueue) : SubQueue := { x with head := wrap32 (x.head + 1) }

end Sys2Proof.Machine
end

