-- ==== Sys2Proof/Machine/HostRegs.lean ====
section
/-! DEFINITION. What the host does: writes and reads of BAR registers, and CXL.mem reads and writes (15 R265; 16 R290, R292,
R300; 17 R318, R324; 19 R339, R351; 20 R372, R376). -/

namespace Sys2Proof.Machine

/-! ## Registers -/

/-- TLBCMD_WRITE: an invalidation by page for world 0, complete within the step, so bit 63 reads 0 after it. -/
def execTlbcmdWrite (va : Nat) (s : State) : Out := s.byHost <| .next { s.tlbInvalidate 0 0 (va % 2 ^ 56) with tlbcmd := false }

/-- HOSTCAP_WRITE: 0 and 9 to 15 are ignored. -/
def execHostcapWrite (v : Nat) (s : State) : Out :=
  let c := field v 0 4
  s.byHost <| if 1 ≤ c && c ≤ 8 then .next { s with hallmark := { s.hallmark with hostcap := c } } else .next s

/-- A ring address is a multiple of 64. -/
def ringBase (v : Nat) : Nat := v % 2 ^ 64 / 64 * 64

/-- A write to a queue's registers but for SQ_TAIL and CQ_HEAD. -/
def State.writeQueueReg (s : State) (q reg v : Nat) : State :=
  let x := s.queue q
  if reg == 0x00 then s.putQueue { x with base := ringBase v }
  else if reg == 0x08 then s.setQueue { x with size := v % 2 ^ 64 }
  else if reg == 0x20 then s.putQueue { x with cqBase := ringBase v }
  else if reg == 0x38 then s.setQueue { x with qctl := field v 4 2 * 16 + field v 0 1 }
  else s

/-- A write to the event ring's BASE or SIZE. -/
def State.writeEventReg (s : State) (off v : Nat) : State :=
  let r := s.hallmark.events
  if off == 0x0900 then s.setRing { r with base := ringBase v }
  else if off == 0x0908 then s.setRing { r with size := v % 2 ^ 64 }
  else s

/-- DBGADDR as a write leaves it: a reserved KIND leaves that field (00 R6; log entry 25). -/
def Debug.writeAddr (d : Debug) (v : Nat) : Word :=
  BitVec.ofNat 64 ((if field v 60 4 ≤ 6 then field v 60 4 else d.kind) * 2 ^ 60 + field v 0 60)

/-- A write to STEPSLOT and DRAIN, or to DBGADDR, of a debug window. HALT has instructions of its own. -/
def State.writeDebugReg (s : State) (n reg v : Nat) : State :=
  let c : CoreId := ⟨n / 32, n % 32⟩
  if reg == 0x00 then s.setDebug c fun d => { d with stepslot := field v 2 4, drain := bitAt v 1 }
  else if reg == 0x18 then s.setDebug c fun d => { d with addr := d.writeAddr v }
  else s

/-- A write to a port's configuration register: QUOTA above 128 and TERMLOG outside 20 to 30 are ignored, and RETRAINW acts. -/
def State.writePortReg (s : State) (port v : Nat) : State :=
  let p := s.port port
  let quota := field v 8 8
  let termlog := field v 0 5
  (s.putPort { p with
    quota := if quota ≤ 128 then quota else p.quota
    termlog := if 20 ≤ termlog && termlog ≤ 30 then termlog else p.termlog }).retrain port (field v 16 8)

/-- REGISTER_WRITE: a register without a behaviour of its own keeps the fields that may be written; other offsets ignore it. -/
def execRegisterWrite (off v : Nat) (s : State) : Out :=
  s.byHost <| if 0x1000 ≤ off && off < 0x2000 then s.byTdi (.next (s.writeQueueReg ((off - 0x1000) / 64) (off % 64) v))
  else if 0x0900 ≤ off && off < 0x0928 then s.byTdi (.next (s.writeEventReg off v))
  else if 0x4000 ≤ off && off < 0x8000 then .next (s.writeDebugReg ((off - 0x4000) / 64) (off % 64) v)
  else if 0x30000 ≤ off && off < 0x30000 + 64 * 33 && off % 64 == 0 then .next (s.writePortReg ((off - 0x30000) / 64) v)
  else .next s

/-! ## Reads of registers -/

/-- A queue's registers as they read: SQ_TAIL as last written, SQ_HEAD with SWOUT (R290, R292). -/
def SubQueue.readReg (x : SubQueue) (reg : Nat) : Nat :=
  match reg with
  | 0x00 => x.base
  | 0x08 => x.size
  | 0x10 => x.lastTail
  | 0x18 => x.headWord
  | 0x20 => x.cqBase
  | 0x28 => x.cqHead
  | 0x30 => x.cqTail
  | 0x38 => x.qctl
  | _ => 0

/-- The event ring's registers as they read. -/
def EventRing.readReg (r : EventRing) (off : Nat) : Nat :=
  match off with
  | 0x0900 => r.base
  | 0x0908 => r.size
  | 0x0910 => r.head
  | 0x0918 => r.tail
  | 0x0920 => boolNat r.overflow * 2 ^ 63 + r.lost
  | _ => 0

/-- The registers of a debug window as they read; DBGDATA is what the last access left (DBG_DATA_READ performs the read). -/
def Debug.readReg (d : Debug) (reg : Nat) : Nat :=
  match reg with
  | 0x00 => d.stepslot * 4 + boolNat d.drain * 2 + boolNat d.halt
  | 0x10 => boolNat (!d.brkpend.isEmpty) * 4 + boolNat d.quiet * 2 + boolNat d.halted
  | 0x18 => d.addr.toNat
  | 0x20 => d.data.toNat
  | 0x28 => d.rstat
  | _ => 0

/-- The code of a wavelength's state. -/
def WaveState.code : WaveState → Nat
  | .up => 0 | .retrain => 1 | .dark => 2 | .failed => 3 | .off => 4

/-- The status word of a wavelength (R351). -/
def Wave.statusWord (x : Wave) : Nat := x.state.code * 2 ^ 61 + x.retrains * 2 ^ 48 + x.uncorr * 2 ^ 24 + x.corrwin

/-- A port's configuration register as it reads. -/
def Port.configWord (p : Port) : Nat := p.quota * 2 ^ 8 + p.termlog

/-- The wavelengths that some worlds hold on a port. -/
def Port.holdings (p : Port) (of : Nat → Bool) : Nat := ((p.leases.filter fun l => of l.world).map fun l => l.waves.length).foldl (· + ·) 0

/-- LEASED0 and LEASEDC of a port: the confidential worlds' holdings are coarsened (R339; 15 R266). -/
def State.leasedWord (s : State) (port : Nat) : State × Nat :=
  let p := s.port port
  let (s1, c) := s.showCount (.leased port) (p.holdings (· != 0))
  (s1, p.holdings (· == 0) % 256 * 2 ^ 8 + c % 256)

/-- Whether an offset is that of a submission, completion or event register. -/
def inTdi (off : Nat) : Bool := (0x0900 ≤ off && off < 0x0928) || (0x1000 ≤ off && off < 0x2000)

/-- What a host read of the BAR gives. What one of a register gives that its TDI keeps from the host is a free value (log entry
59). -/
def State.readReg (s : State) (off : Nat) : State × Nat :=
  if inTdi off && !s.tdiOpen then (s.drawFree, Config.freeValue s.freeCount % 2 ^ 64)
  else if off == 0x0800 then (s, s.hallmark.thermcap * 2 ^ 8 + s.hallmark.hostcap)
  else if off == 0x0810 then (s, boolNat s.tlbcmd * 2 ^ 63)
  else if 0x0900 ≤ off && off < 0x0928 then (s, s.hallmark.events.readReg off)
  else if 0x1000 ≤ off && off < 0x2000 then (s, (s.queue ((off - 0x1000) / 64)).readReg (off % 64))
  else if 0x4000 ≤ off && off < 0x8000 then
    (s, (s.core ⟨(off - 0x4000) / 64 / 32, (off - 0x4000) / 64 % 32⟩).dbg.readReg (off % 64))
  else if 0x10000 ≤ off && off < 0x10000 + 0x800 * 33 && off % 8 == 0 then
    let p := s.port ((off - 0x10000) / 0x800)
    let i := (off - 0x10000) % 0x800 / 8
    (s, (p.wave (i % 128) (if i < 128 then .tx else .rx)).statusWord)
  else if 0x30000 ≤ off && off < 0x30000 + 64 * 33 then
    let port := (off - 0x30000) / 64
    if off % 64 == 0 then (s, (s.port port).configWord) else if off % 64 == 8 then s.leasedWord port else (s, 0)
  else (s, 0)

/-- The host reads a register of the BAR; nothing answers before the CXL link has trained. -/
def State.barRead (s : State) (off : Nat) : State :=
  if s.hallmark.linkUp then let (s1, v) := s.readReg off; { s1 with answer := some ⟨toNats (leBytes 8 v), false⟩ } else s

/-! ## CXL.mem (15 R265) -/

/-- Whether every byte lies in the map, and whether every frame belongs to world 0. -/
def State.hostMapped (s : State) (pa n : Nat) : Bool := (List.range n).all fun i => s.inMap (pa + i)
def State.hostOpen (s : State) (pa n : Nat) : Bool := (List.range n).all fun i => s.frameOwner (pa + i) == 0

/-- A refused host access posts KIND 0x0201 with the physical address. -/
def State.hostRefused (s : State) (pa : Nat) : State := s.postEvent 0x0201 noDie (leBytes 8 0 ++ leBytes 8 pa)

/-- HOST_MEM_READ: frames of a confidential world or of the Hallmark read as zeros with the poison indication. -/
def execHostMemRead (pa len : Nat) (s : State) : Out :=
  s.byHost <| if !s.hostMapped pa len then .next s
  else if s.hostOpen pa len then
    .next { s with answer := some ⟨toNats (memBytes s.mem pa len), s.runPoisoned [(pa, len)]⟩ }
  else .next ({ s with answer := some ⟨List.replicate len 0, true⟩ }.hostRefused pa)

/-- HOST_MEM_WRITE: performed in world 0 frames, dropped elsewhere. -/
def execHostMemWrite (pa : Nat) (data : List Nat) (s : State) : Out :=
  let n := data.length
  s.byHost <| if !s.hostMapped pa n then .next s
  else if s.hostOpen pa n then
    let ls := (List.range n).map fun i => Loc.phys (pa + i)
    .next (((s.setBytesAt (ls.zip (toBytes data))).clearPoison ls).frameWritten pa n)
  else .next (s.hostRefused pa)

end Sys2Proof.Machine
end

