-- ==== Sys2Proof/Machine/Sessions.lean ====
section
/-! DEFINITION. Sessions and grotto checks: CDEC, CENC, USAGE, SESSINFO, GRCHK, their service by the session engine, and what
the Hallmark does to a slot (15 R275 to R286; 20 R367). -/

namespace Sys2Proof.Machine

/-! ## Slots (15 R275 to R278) -/

/-- A slot that serves: OPEN or STOPPED. -/
def Session.serves (x : Session) (world : Nat) : Bool := (x.state == .opened || x.state == .stopped) && x.world == world

/-- The slot that an operand names, if it exists and serves the world. -/
def State.slotFor (s : State) (world v : Nat) : Option Session :=
  if v < 1024 then (let x := s.session v; if x.serves world then some x else none) else none

/-- A pending key takes effect; F stays what ECDHE gave the session. -/
def Session.installKey (x : Session) : Session :=
  match x.pendKey with
  | none => x
  | some k =>
    { x with
      key := k, pendKey := none, invoc := 0, rxhi := 0, txctr := 0, warn := false
      kepoch := (x.kepoch + 1) % 256, state := .opened }

/-- INVOC at which the warning is sent. -/
def warnAt : Nat := 2 ^ 32 - 2 ^ 20
/-- INVOC at which a slot without a pending key stops. -/
def stopAt : Nat := 2 ^ 32

/-- Counts one GCM invocation of a slot, with the warning and the limit (R278). -/
def State.invoke (s : State) (x : Session) : State :=
  let n := x.invoc + 1
  let warns := decide (warnAt ≤ n) && !x.warn
  let stops := decide (stopAt ≤ n) && x.pendKey.isNone
  let s1 := s.putSession { x with invoc := n, warn := x.warn || warns, state := if stops then .stopped else x.state }
  let s2 := if warns then s1.postEvent 0x0401 noDie (leBytes 2 x.slot) else s1
  if stops then s2.postEvent 0x0402 noDie (leBytes 2 x.slot) else s2

/-- KEY_EXHAUSTED for a slot. -/
def keyExhausted (slot : Nat) : Trap := ⟨causeKeyExhausted, 0, slot⟩

/-! ## GCM (15 R277) -/

/-- The IV: F, then the counter. -/
def Session.iv (x : Session) (ctr : Nat) : Nat := x.fixed * 2 ^ 64 + ctr

/-- The 16-byte tag of a ciphertext. -/
def gcmTagBytes (key iv : Nat) (ct : List Byte) : List Byte := beBytes 16 (Config.gcmTag key iv ct)

/-- A record: counter, ciphertext, tag. -/
def Session.record (x : Session) (ctr : Nat) (plain : List Byte) : List Byte :=
  let ct := gcmStream x.key (x.iv ctr) plain
  beBytes 8 ctr ++ ct ++ gcmTagBytes x.key (x.iv ctr) ct

/-! ## CDEC (15 R279) -/

/-- Reads of host windows: the page must be of world 0 (R267). -/
def checkWindowRead : CheckKind := ⟨true, false, true, false, true, some 0, false⟩
/-- Writes of host windows. -/
def checkWindowWrite : CheckKind := ⟨false, true, false, true, false, some 0, true⟩

/-- The counter, ciphertext and tag around n bytes. -/
def recordBytes (n : Nat) : Nat := n + 24

/-- The most plaintext bytes. -/
def textMax : Nat := 65536

/-- The two accesses of a CDEC: its request and its destination. -/
def State.cdecChecks (s : State) (t : Strand) (d a n : Nat) : State × Except Trap (List Loc × List Loc) :=
  match checkAccess s t.party checkWindowRead .g a (recordBytes n) with
  | (s1, .error x) => (s1, .error x)
  | (s1, .ok src) =>
    match checkAccess s1 t.party checkStore .l d n with
    | (s2, .error x) => (s2, .error x)
    | (s2, .ok dst) => (s2, .ok (src, dst))


/-- CDEC. One that names a queue waits for its earlier operations and is no operation of the queue itself: it keeps no later copy back
and counts in no length; so does CENC (DESIGN CHOICE, log entry 61). -/
def execCdec (g : Guard) (d a b c p q : Nat) (s : State) : Out :=
  released (.cdec g d a b c p q) s fun s t =>
    match s.slotFor t.world (t.rn c) with
    | none => s.trap t (bounds 21)
    | some x =>
      let n := t.rn b
      if n == 0 || textMax < n then s.trap t (bounds 22)
      else
        match s.cdecChecks t (t.rn d) (t.rn a) n with
        | (s1, .error e) => s1.trap t e
        | (s1, .ok _) => s1.waitIn t (.cdec (t.rn d) (t.rn a) n x.slot p q s.nextCopy)

/-- A session instruction traps at service; that of a killed strand ends there. -/
def State.sessTrap (s : State) (t : Strand) (x : Trap) : State :=
  let t1 := { t with wait := none }
  if (s.stage? t.inst).any fun g => g.state == .stoppingKill then s.putStrand t1 else s.trap t1 x

/-- What decryption gives: the plaintext, when the counter is fresh and the tag checks. -/
def Session.decrypt (x : Session) (req : List Byte) (n : Nat) : Option (List Byte) :=
  let ctr := beNat (req.take 8)
  let ct := (req.drop 8).take n
  if req.drop (8 + n) == gcmTagBytes x.key (x.iv ctr) ct then some (gcmStream x.key (x.iv ctr) ct) else none

/-- Whether a request counter is fresh. -/
def Session.fresh (x : Session) (ctr : Nat) : Bool := ctr != 0 && ctr < 2 ^ 63 && x.rxhi < ctr

/-- An accepted counter: at once, or in the log of a held item. -/
def State.acceptCtr (s : State) (t : Strand) (slot ctr : Nat) : State × Strand :=
  if t.held.isSome then (s, t.mapLog fun l => { l with sess := l.sess ++ [.rxhi slot t.world ctr] })
  else
    let x := s.session slot
    (s.putSession { x with rxhi := ctr }, t)

/-- The engine's work on a CDEC: the state and the strand, the plaintext or zeros, and whether it was accepted. -/
def State.cdecServe (s : State) (t : Strand) (x : Session) (req : List Byte) (n : Nat) : State × Strand × List Byte × Bool :=
  let ctr := beNat (req.take 8)
  let zeros := List.replicate n (0 : Byte)
  if !x.fresh ctr then (s.putSession x, t, zeros, false)
  else
    let s1 := s.invoke x
    match x.decrypt req n with
    | none => (s1, t, zeros, false)
    | some text => let (s2, t2) := s1.acceptCtr t x.slot ctr; (s2, t2, text, true)

/-- CDEC_SERVICE. The request is read from memory, also under an item, and not through its log (DESIGN CHOICE, log entry 61). -/
def execCdecService (slot : SlotId) (s : State) : Out :=
  .next (s.onStrand slot fun t =>
    match t.wait with
    | some (.cdec d a n sl p q before) =>
      if t.frame.isSome || s.queueBusy t q before then s
      else
        match s.slotFor t.world sl with
        | none => s.sessTrap t (bounds 21)
        | some x0 =>
          let x := x0.installKey
          if x.state == .stopped then (s.putSession x).sessTrap t (keyExhausted sl)
          else
            match s.cdecChecks t d a n with
            | (s1, .error e) => s1.sessTrap t e
            | (s1, .ok (src, dst)) =>
              let (s2, t2, text, ok) := s1.cdecServe t x (src.map fun l => s1.byteAt [] l) n
              (s2.storeAt dst text).finishWait (t2.writePred p ok .set)
    | _ => s)

/-! ## CENC (15 R280) -/

/-- Sectors that a record takes in the log. -/
def recordSectors : Nat := 2

/-- The two accesses of a CENC: its plaintext and its record. -/
def State.cencChecks (s : State) (t : Strand) (d a n : Nat) : State × Except Trap (List Loc × List Loc) :=
  match checkAccess s t.party checkLoad .l a n with
  | (s1, .error x) => (s1, .error x)
  | (s1, .ok src) =>
    match checkAccess s1 t.party checkWindowWrite .g d (recordBytes n) with
    | (s2, .error x) => (s2, .error x)
    | (s2, .ok dst) => (s2, .ok (src, dst))

/-- Whether a record of n bytes fits a reply buffer of the slot that starts at an address. -/
def Session.bufferFits (x : Session) (d n : Nat) : Bool := x.buffers.any fun b => b.1 == d && recordBytes n ≤ b.2

def execCenc (g : Guard) (d a b c q : Nat) (s : State) : Out :=
  released (.cenc g d a b c q) s fun s t =>
    match s.slotFor t.world (t.rn c) with
    | none => s.trap t (bounds 21)
    | some x =>
      let n := t.rn b
      if n == 0 || textMax < n || !x.bufferFits (t.rn d) n then s.trap t (bounds 22)
      else
        match s.cencChecks t (t.rn d) (t.rn a) n with
        | (s1, .error e) => s1.trap t e
        | (s1, .ok _) =>
          if t.held.any fun h => logCapacity < h.log.used + recordSectors then s1.trap t (bounds 14)
          else s1.waitIn t (.cenc (t.rn d) (t.rn a) n x.slot q s.nextCopy)

/-- Names for the sectors of a record in a log, apart from every physical sector. -/
def recordNames (l : WriteLog) : List Nat := (List.range recordSectors).map fun i => 2 ^ 90 + 2 * l.sectors.length + i

/-- A record at `va` enters the log. -/
def WriteLog.putRecord (l : WriteLog) (va : Nat) (dst : List Loc) (bs : List Byte) : WriteLog :=
  { l.put dst bs with sectors := l.sectors ++ recordNames l, ranges := l.ranges ++ [(va, bs.length)] }

/-- CENC_SERVICE. -/
def execCencService (slot : SlotId) (s : State) : Out :=
  .next (s.onStrand slot fun t =>
    match t.wait with
    | some (.cenc d a n sl q before) =>
      if t.frame.isSome || s.queueBusy t q before then s
      else
        match s.slotFor t.world sl with
        | none => s.sessTrap t (bounds 21)
        | some x0 =>
          let x := x0.installKey
          if x.state == .stopped then (s.putSession x).sessTrap t (keyExhausted sl)
          else
            match s.cencChecks t d a n with
            | (s1, .error e) => s1.sessTrap t e
            | (s1, .ok (src, dst)) =>
              let x1 := { x with txctr := x.txctr + 1 }
              let bs := x1.record (2 ^ 63 + x1.txctr) (src.map fun l => s1.byteAt [] l)
              let s2 := s1.invoke x1
              if t.held.isSome then s2.finishWait (t.mapLog fun l => l.putRecord d dst bs)
              else (s2.storeAt dst bs).finishWait t
    | _ => s)

/-! ## USAGE and SESSINFO (15 R281, R282) -/

/-- USAGE under an item is logged; otherwise it waits for the Hallmark. -/
def execUsage (g : Guard) (d a b : Nat) (s : State) : Out :=
  gated (.usage g d a b) s fun s t =>
    match s.slotFor t.world (t.rn a) with
    | none => s.trap t (bounds 21)
    | some x =>
      if t.held.isSome then
        if d != 0 then s.trap t (bounds 23)
        else s.complete (t.mapLog fun l => { l with sess := l.sess ++ [.usage x.slot t.world (t.rn b)] })
      else s.waitIn t (.usage d x.slot (t.rn b))

/-- The counter after an add. -/
def usageAfter (u n : Nat) : Nat := min (u + n) (2 ^ 64 - 1)

/-- USAGE_SERVICE. -/
def execUsageService (slot : SlotId) (s : State) : Out :=
  .next (s.onStrand slot fun t =>
    match t.wait with
    | some (.usage d sl n) =>
      match s.slotFor t.world sl with
      | none => s.sessTrap t (bounds 21)
      | some x =>
        let u := usageAfter x.usage n
        (s.putSession { x with usage := u }).finishWait (t.setN d u)
    | _ => s)

def execSessinfo (g : Guard) (d a sel : Nat) (s : State) : Out :=
  gated (.sessinfo g d a sel) s fun s t =>
    match s.slotFor t.world (t.rn a) with
    | none => s.trap t (bounds 21)
    | some x => s.waitIn t (.sessinfo d x.slot sel)

/-- The code of STATE. -/
def SessState.code : SessState → Nat
  | .free => 0 | .opened => 1 | .stopped => 2 | .closed => 3

/-- The word of SEL 0. -/
def Session.word (x : Session) : Nat :=
  x.state.code * 2 ^ 61 + boolNat x.pendKey.isSome * 2 ^ 60 + boolNat x.warn * 2 ^ 59 + x.world * 2 ^ 48 +
    x.kepoch * 2 ^ 40 + x.invoc

/-- The field that SEL names. -/
def Session.info (x : Session) (sel : Nat) : Nat :=
  if sel == 0 then x.word else if sel == 1 then x.usage else if sel == 2 then x.rxhi else x.txctr

/-- SESSINFO_SERVICE. -/
def execSessinfoService (slot : SlotId) (s : State) : Out :=
  .next (s.onStrand slot fun t =>
    match t.wait with
    | some (.sessinfo d sl sel) =>
      match s.slotFor t.world sl with
      | none => s.sessTrap t (bounds 21)
      | some x => s.finishWait (t.setN d (x.info sel))
    | _ => s)

/-! ## GRCHK (15 R283) -/

/-- Whether a strand's stage may consume the byte at an address as a grotto operand. -/
def State.grottoUsable (s : State) (t : Strand) (sp : Space) (va : Nat) : Bool :=
  let own := sp != .g || (va < 2 ^ 56 &&
    match translate s (coreOf t.at_) t.world va with
    | (_, .leaf e _) => pteWorld e.pte == t.world
    | (_, .fault ..) => false)
  own && match s.grottoOf t.party sp va with
    | some pkgs => s.mayRead t.party pkgs
    | none => false

def execGrchk (g : Guard) (d a : Nat) (sp : Space) (s : State) : Out :=
  gated (.grchk g d a sp) s fun s t => s.complete (t.writePred d (s.grottoUsable t sp (t.rn a)) .set)

/-! ## The Hallmark's side of a slot (15 R276, R278, R286; 20 R367) -/

/-- SESSION_OPEN: ECDHE gives a free slot its key and F. -/
def execSessionOpen (slot world key fixed : Nat) (s : State) : Out :=
  let x := s.session slot
  if slot < 1024 && x.state == .free && (s.world? world).isSome then
    .next (s.putSession { Session.reset slot with
      state := .opened, world := world, key := key % 2 ^ 256, fixed := fixed % 2 ^ 32, kepoch := 1, seq := x.seq })
  else .next s

/-- PENDING_KEY_PROGRAM: the key of a new ECDHE through the relay, if that succeeds; at once when the slot is STOPPED. -/
def execPendingKeyProgram (slot key : Nat) (ok : Bool) (s : State) : Out :=
  let x := s.session slot
  if ok && slot < 1024 && (x.state == .opened || x.state == .stopped) then
    let x' := { x with pendKey := some (key % 2 ^ 256) }
    .next (s.putSession (if x.state == .stopped then x'.installKey else x'))
  else .next s

/-- A host-window page. -/
def windowPage (pte : Nat) : Bool := pteWorld pte == 0

/-- REPLY_BUFFER_REGISTER: at most four, each in host-window pages of the world. -/
def execReplyBufferRegister (slot va cap : Nat) (s : State) : Out :=
  let x := s.session slot
  if slot < 1024 && (x.state == .opened || x.state == .stopped) && x.buffers.length < 4 && 40 ≤ cap && cap ≤ 2 ^ 20 &&
      (worldRuns s x.world windowPage (cap / 65536 + 2) va cap).isSome then
    .next (s.putSession { x with buffers := x.buffers ++ [(va, cap)] })
  else .next s

/-- The first 24 bytes of a usage record. -/
def Session.usageRecord (x : Session) (fin : Bool) : List Byte :=
  leBytes 8 x.usage ++ leBytes 2 x.slot ++ leBytes 1 x.world ++ leBytes 1 (boolNat fin) ++ leBytes 1 x.kepoch ++ leBytes 3 0 ++
    leBytes 8 x.seq

/-- The signature of the identity key: 96 bytes (15 R286; 20 R365). -/
def signature (bs : List Byte) : List Byte := beBytes 96 (Config.identitySign bs)

/-- Signs bytes with the identity key for the host to collect. -/
def State.sign (s : State) (bs : List Byte) : State :=
  { s with hallmark := { s.hallmark with signed := s.hallmark.signed ++ [bs ++ signature bs] } }

/-- Closes a serving slot: the final record is signed, unless none may be any more, and the key zeroed. SEQ counts the records
that are signed. -/
def State.closeSession (s : State) (x : Session) : State :=
  let x1 := { x with seq := if x.final then x.seq else x.seq + 1 }
  let s1 := s.putSession { x1 with key := 0, pendKey := none, state := .closed, final := true }
  if x.final then s1 else s1.sign (x1.usageRecord true)

/-- SESSION_CLOSE. -/
def execSessionClose (slot : Nat) (s : State) : Out :=
  let x := s.session slot
  if slot < 1024 && (x.state == .opened || x.state == .stopped) then .next (s.closeSession x) else .next s

/-- USAGE_RECORD_REQUEST: refused after the final record. -/
def execUsageRecordRequest (slot : Nat) (s : State) : Out :=
  let x := s.session slot
  if slot < 1024 && (x.state == .opened || x.state == .stopped) && !x.final then
    let x1 := { x with seq := x.seq + 1 }
    .next ((s.putSession x1).sign (x1.usageRecord false))
  else .next s

/-- USAGE_RECORD_COLLECT: the host has the final record and the slot is FREE. -/
def execUsageRecordCollect (slot : Nat) (s : State) : Out :=
  let x := s.session slot
  if slot < 1024 && x.state == .closed then .next (s.putSession { Session.reset slot with seq := x.seq }) else .next s

end Sys2Proof.Machine
end

