-- ==== Sys2Proof/Machine/Hallmark.lean ====
section
/-! DEFINITION. The Hallmark: boot, restart of the runtime, quotes, weight packages, worlds, errors, heat and power-off (15 R262,
R268 to R274; 20 R361 to R376). -/

namespace Sys2Proof.Machine

/-! ## Repair record and its events (20 R368, R369) -/

/-- Posts KIND 0x0103: stack, channel and bytes retired. -/
def State.postRepair (s : State) (die chan bytes : Nat) : State :=
  s.postEvent 0x0103 die (byteList [die, chan] ++ leBytes 6 0 ++ leBytes 8 bytes)

/-- Writes a mark to the repair record and posts it. -/
def State.markRepair (s : State) (m : RepairMark) : State :=
  let h := s.hallmark
  let repairs := if h.repairs.contains m then h.repairs else h.repairs ++ [m]
  { s with hallmark := { h with repairs := repairs } }.postRepair m.die m.chan 0

/-- Bytes of a frame. -/
def frameBytes : Nat := 65536

/-- A channel's frames leave the physical map. -/
def State.retire (s : State) (l : LostChannel) : State :=
  { s with retired := uniq (s.retired ++ l.frames) }.postRepair l.die l.chan (l.frames.length * frameBytes)

/-! ## Boot (20 R361, R362) -/

/-- Sets a measurement slot. -/
def State.setSlot (s : State) (i v : Nat) : State :=
  { s with hallmark := { s.hallmark with slots := Vector.ofFn fun j => if j.val == i then v else s.hallmark.slots[j] } }

/-- The measurement that the outside gives for a slot. -/
def bootMs (b : BootInput) (i : Nat) : Nat := (b.measurements[i]?).getD 0 % 2 ^ 384

/-- MS10: SHA-384 of the measurements of the three optical engines, in their order. -/
def enginesMs (b : BootInput) : Nat := Config.sha384 ((List.range 3).flatMap fun i => leBytes 48 (nth b.engines i 0)) % 2 ^ 384

/-- Whether the device stands as power-good leaves it. -/
def State.powerGood (s : State) : Bool :=
  s.dies.isEmpty && s.worlds.isEmpty && s.hallmark.slots.toList.all (· == 0)

/-- The answer of a list of yes and no for a die. -/
def dieSays (l : List Bool) (d : Nat) : Bool := (l[d]?).getD false

/-- Channels of a stack, and spare lanes of a channel. -/
def stackChannels : Nat := 32
def spareLanes : Nat := 4

/-- Whether more lanes of a channel are marked than it has spares: its pseudo-channels are retired. -/
def State.channelLost (s : State) (d c : Nat) : Bool :=
  decide (spareLanes < (s.hallmark.repairs.filter fun m => m.die == d && m.chan == c && !m.row).length)

/-- Whether a marked row of a channel may be without a spare. -/
def State.rowMarked (s : State) (d c : Nat) : Bool := s.hallmark.repairs.any fun m => m.die == d && m.chan == c && m.row

/-- Steps 4 and 5 of the training of a stack: a lost channel leaves the map with its frames, and so do the frames of a marked row
that finds no spare. Every other marked row is repaired, of which nothing shows. -/
def State.retireStack (b : BootInput) (s : State) (d : Nat) : State :=
  let framesOf := fun (c : Nat) => (b.lost.filter fun l => l.die == d && l.chan == c).flatMap LostChannel.frames
  (List.range stackChannels).foldl (fun s c =>
    if s.channelLost d c || (s.rowMarked d c && !(framesOf c).isEmpty) then s.retire ⟨d, c, framesOf c⟩ else s) s

/-- Step 3 and step 4 for one die: its stack trains, with the lanes that fail added to the record, and it is measured and released
with its cores as reset leaves them, CYCLE at zero (01 R25); or it stays in reset with its stack out of the map. -/
def State.bootDie (b : BootInput) (s0 : State) (d : Nat) : State :=
  let trains := dieSays b.dieOk d && dieSays b.trainOk d
  let s := if trains then (b.marks.filter fun m => m.die == d && !m.row).foldl State.markRepair s0 else s0
  if trains && !(List.range stackChannels).all (s.channelLost d) then
    (({ s with cores := s.cores.filter fun (c : Core) => c.id.die != d }.putDie { Die.reset d with released := true }).setSlot
      (2 + d) (bootMs b (2 + d))).retireStack b d
  else
    (s.putDie { Die.reset d with absent := true }).postEvent 0x0502 d
      (byteList [if dieSays b.dieOk d then 4 else 3])

/-- Whether a part of an image covers a line whole. -/
def coversLine (x : Nat × List Nat) (line : Nat) : Bool := decide (x.1 ≤ 64 * line) && decide (64 * line + 64 ≤ x.1 + x.2.length)

/-- Loads the runtime image: its frames belong to the world it runs in, and lines that it covers lose their poison (15 R264). -/
def State.loadImage (s : State) (world : Nat) (image : List (Nat × List Nat)) : State :=
  let frames := uniq (image.flatMap fun x => (List.range (x.2.length / frameBytes + 1)).map fun k => x.1 / frameBytes + k)
  { s with
    mem := image.foldl (fun m x => memSetBytes m x.1 (toBytes x.2)) s.mem
    poison := s.poison.filter fun l => !image.any fun x => coversLine x l
    owners := if world == 0 then s.owners else frames.foldl (fun l f => assocSet l f world) s.owners }

/-- The slot of the runtime strand of a die. -/
def runtimeSlot (d : Nat) : SlotId := ⟨d, 0, 15⟩

/-- Starts the runtime strand of a die. Its entry is a multiple of 8, as every PC is (03 R54). -/
def State.startRuntime (s : State) (d entry world : Nat) : State :=
  let now := s.now (runtimeSlot d)
  (s.enroll (Strand.start (runtimeSlot d) true 0 0 world 3 (BitVec.ofNat 64 (entry / 8 * 8)) fullDecls [] now)).powerBanks ⟨d, 0⟩

/-- A world of the Hallmark with fresh keys, which are free values (15 R262). -/
def State.makeWorld (s : State) (id root : Nat) (signers : List Nat) (pinQuota saveBase saveSize : Nat) : State :=
  let key := fun (i : Nat) => Config.freeValue (s.freeCount + i)
  ({ s with freeCount := s.freeCount + 10 } : State).putWorld
    { id := id, keys := ⟨key 0, key 1, Vector.ofFn fun d => key (2 + d.val)⟩, root := root, signers := signers, pinQuota := pinQuota
      saveBase := saveBase, saveSize := saveSize, modules := [], ranges := [] }

/-- Step 5: the laser modules that the test finds lit. -/
def Fabric.lasersTested (f : Fabric) (failed : List Nat) : Fabric :=
  { f with
    lasers := f.lasers.map fun l => { l with lit := !failed.contains l.modl }
    spares := f.spares.filter fun m => !failed.contains m
    failedModules := f.failedModules ++ failed }

/-- Step 6 after the image has verified: world 0 exists, and the runtime runs on every released die. Then the CXL link trains. -/
def State.bootRuntime (s0 : State) (b : BootInput) : State :=
  let s := { s0 with hallmark := { s0.hallmark with linkUp := true } }
  let s1 := (s.setSlot 11 (Config.imageMeasure b.image % 2 ^ 384)).makeWorld 0 b.root0 [] 65536 b.saveBase b.saveSize
  let s2 := if b.runtimeWorld == 0 then s1 else s1.makeWorld b.runtimeWorld b.runtimeRoot b.runtimeSigners 65536 0 0
  let s3 := { s2 with hallmark := { s2.hallmark with image := b.image } }.loadImage b.runtimeWorld b.image
  ((s3.dies.filter Die.released).map Die.id).foldl (fun s d => s.startRuntime d b.runtimeEntry b.runtimeWorld) s3

/-- The runtime's world is world 0, or a confidential world with its 1 to 16 signers (15 R262). -/
def runtimeWorldOk (b : BootInput) : Bool :=
  b.runtimeWorld == 0 || (b.runtimeWorld ≤ 254 && 1 ≤ b.runtimeSigners.length && b.runtimeSigners.length ≤ 16)

/-- POWER_GOOD_BOOT: the steps in their order; every usable frame is zero after the training (R368). A failure of the firmware, the
I/O die or the runtime leaves the package in reset, and the CXL link down. -/
def execPowerGoodBoot (b : BootInput) (s : State) : Out :=
  if !s.powerGood || !b.firmwareOk || !runtimeWorldOk b then .next s
  else
    let s1 := s.setSlot 0 (bootMs b 0)
    if !b.ioOk then .next s1
    else
      let s2 := s1.setSlot 1 (bootMs b 1)
      let s3 := (List.range 8).foldl (State.bootDie b) s2
      let s4 := { s3 with mem := [], poison := [] }
      let s5 :=
        if b.opticsOk then
          let s := s4.setSlot 10 (enginesMs b)
          { s with fabric := s.fabric.lasersTested b.failedModules }
        else { s4 with fabric := { s4.fabric with off := true } }
      if b.runtimeOk then .next (s5.bootRuntime b)
      else .next { s5 with dies := s5.dies.map (fun (d : Die) => { d with released := false }) }

/-! ## Restart of the runtime (20 R366) -/

/-- The launches with a stage on a die. -/
def State.launchesOn (s : State) (d : Nat) : List Nat :=
  uniq ((s.stages.filter fun (g : Stage) => g.die == d).map fun (g : Stage) => g.launch)

/-- Kills launches, one after another. -/
def State.killAll (s : State) (l : List Nat) : State := l.foldl State.killLaunch s

/-- A core whose on-die memories are zeroed. -/
def Core.zeroed (c : Core) : Core :=
  { c with spad := [], spadPoison := [], grotto := [], cells := [], codebook := [], codeOwner := none }

/-- The slot of a region that a handle holds. -/
def RegionOwner.slot? : RegionOwner → Option SlotId
  | .handle i _ => some i
  | .tagged .. => none

/-- What a strand that ends has on its core goes: its regions, its copies and its joins (01 R10). -/
def Core.withoutStrand (c : Core) (i : SlotId) (serial : Nat) : Core :=
  { c with
    regions := c.regions.filter fun r => r.owner.slot? != some i
    copies := c.copies.filter fun o => o.owner != i
    joins := c.joins.filter fun j => j.owner != serial }

/-- RUNTIME_RESTART. -/
def execRuntimeRestart (die : Nat) (s : State) : Out :=
  let d := s.die die
  match s.strand? (runtimeSlot die) with
  | none => .next s
  | some t =>
    if !d.runtimeFault || !d.released then .next s
    else
      let s1 := s.killAll (s.launchesOn die)
      let clean := fun (c : Core) => if c.id.die == die then c.zeroed.withoutStrand (runtimeSlot die) t.serial else c
      let s2 := ({ s1 with cores := s1.cores.map clean } : State).sweepReplies
      let s3 := (s2.putDie { s2.die die with plate := [], runtimeFault := false }).loadImage t.world s2.hallmark.image
      let s4 := s3.startRuntime die t.entry.toNat t.world
      let s5 := { s4 with hallmark := { s4.hallmark with restarts := s4.hallmark.restarts + 1 } }
      .next (s5.postEvent 0x0501 die [])

/-! ## Quotes (20 R365) -/

/-- Bit d: die d is held in reset. -/
def State.absentMask (s : State) : Nat := bitsOf 8 fun d => !(s.die d).released

/-- A measurement slot as it reads: that of a die held in reset reads zero (R363). -/
def State.slotRead (s : State) (i : Nat) : Nat :=
  if 2 ≤ i && i < 10 && !(s.die (i - 2)).released then 0 else nth s.hallmark.slots.toList i 0

/-- An SPDM measurement block, as the host reads it (R374). -/
def State.readBlock (s : State) (i : Nat) : State :=
  if s.hallmark.linkUp && i < 12 then { s with answer := some ⟨toNats (leBytes 48 (s.slotRead i)), false⟩ } else s

/-- The most modules that a quote lists. -/
def quoteModules : Nat := 64

/-- The modules listed, oldest first. -/
def World.quoted (w : World) : List (Nat × Bool) := w.modules.drop (w.modules.length - quoteModules)

/-- The entry of a module. -/
def moduleEntry (m : Nat × Bool) : List Byte := leBytes 48 m.1 ++ leBytes 1 (boolNat m.2) ++ leBytes 7 0

/-- The signers of a world, 16 entries. -/
def signerEntries (w : World) : List Byte := (List.range 16).flatMap fun i => leBytes 48 ((w.signers[i]?).getD 0)

/-- The record before its signature. -/
def State.quoteBytes (s : State) (w : World) (nonce : Nat) : List Byte :=
  byteList [0x47, 0x58, 0x51, 0x01] ++ leBytes 2 1 ++ leBytes 1 w.id ++ leBytes 1 w.quoted.length ++ leBytes 32 nonce ++
    (List.range 12).flatMap (fun i => leBytes 48 (s.slotRead i)) ++ leBytes 8 s.podWord ++ leBytes 1 s.absentMask ++ leBytes 3 0 ++
    leBytes 4 s.hallmark.restarts ++ signerEntries w ++ w.quoted.flatMap moduleEntry

/-- QUOTE_REQUEST: the signed record, and the certificate of the package key. -/
def execQuoteRequest (world nonce : Nat) (s : State) : Out :=
  match s.world? world with
  | none => .next s
  | some w =>
    let s1 := s.sign (s.quoteBytes w nonce)
    .next { s1 with hallmark := { s1.hallmark with
      signed := s1.hallmark.signed ++ [Config.packageCert s1.hallmark.slots[0]] } }

/-! ## Weight packages (15 R268 to R274) -/

def pkgLoaded : Nat := 0x30
def pkgFormat : Nat := 0x31
def pkgFirmware : Nat := 0x32
def pkgUnwrap : Nat := 0x33
def pkgPod : Nat := 0x34
def pkgRoom : Nat := 0x35
def pkgWorld : Nat := 0x36

/-- Bytes of a package header, and of a policy entry. -/
def pkgHeader : Nat := 256
def polBytes : Nat := 64

/-- A policy entry as KIND and value. -/
def polEntry (e : List Byte) : Nat × Nat :=
  (leAt e 0 1, if leAt e 0 1 == 3 then leAt e 16 4 else leAt e 16 48)

/-- Whether a policy entry has the layout of its KIND. -/
def polOk (e : List Byte) : Bool :=
  let k := leAt e 0 1
  zeroAt e 1 15 && (k == 1 || k == 2 || (k == 3 && zeroAt e 20 44) || (k == 4 && zeroAt e 16 48))

/-- The policy entries of a package. -/
def polsOf (head : List Byte) : List (List Byte) :=
  (List.range (leAt head 6 2)).map fun i => (head.drop (pkgHeader + polBytes * i)).take polBytes

/-- Step 1. -/
def pkgFormatOk (head : List Byte) : Bool :=
  leAt head 0 4 == 0x01575847 && leAt head 4 2 == 1 && 1 ≤ leAt head 6 2 && leAt head 6 2 ≤ 64 &&
    16 ≤ leAt head 8 8 && leAt head 8 8 ≤ 2 ^ 36 && zeroAt head 161 3 && zeroAt head 176 80

/-- The header of a package with its policy entries, if it can be read and step 1 passes. -/
def State.pkgHead (s : State) (addr : Nat) : Option (List Byte) :=
  match s.read0 addr pkgHeader with
  | none => none
  | some h =>
    if !pkgFormatOk h then none
    else
      match s.read0 addr (pkgHeader + polBytes * leAt h 6 2) with
      | none => none
      | some all => if (polsOf all).all polOk then some all else none

/-- One segment of the plaintext: its offset and its bytes. -/
structure WeightSeg where
  off : Nat
  bytes : List Byte
  deriving DecidableEq, Repr

/-- The segments of a plaintext; none when it does not divide into segments. `fuel` bounds them. -/
def weightSegs : Nat → List Byte → Option (List WeightSeg)
  | 0, p => if p.isEmpty then some [] else none
  | fuel + 1, p =>
    if p.isEmpty then some []
    else
      let off := leAt p 0 8
      let len := leAt p 8 8
      let whole := 16 + roundUpTo 8 len
      if p.length < whole || off % 8 != 0 || !zeroAt p (16 + len) (whole - 16 - len) then none
      else (weightSegs fuel (p.drop whole)).map fun r => ⟨off, (p.drop 16).take len⟩ :: r

/-- Whether two segments share no byte. -/
def WeightSeg.apart (a b : WeightSeg) : Bool := a.off + a.bytes.length ≤ b.off || b.off + b.bytes.length ≤ a.off

/-- Whether segments lie within a region and do not overlap. -/
def segsFit (size : Nat) : List WeightSeg → Bool
  | [] => true
  | a :: r => a.off + a.bytes.length ≤ size && r.all a.apart && segsFit size r

/-- The page-table entries of the pages from `va` on, by physical address. -/
def leafAddrs (s : State) (world : Nat) : Nat → Nat → List Nat
  | 0, _ => []
  | n + 1, va =>
    match walkFrom s world va 4 0 (s.root world) with
    | .leaf _ a => a :: leafAddrs s world n (va + 65536)
    | .fault .. => leafAddrs s world n (va + 65536)

/-- Pages of a region. -/
def regionPages (size : Nat) : Nat := (size + 65535) / 65536

/-- Gives the permission bits and G of every entry of a region, and drops the world's cached translations of its pages. -/
def State.setRegion (s : State) (world va size : Nat) (f : Nat → Nat) : State :=
  let s1 := (leafAddrs s world (regionPages size) va).foldl (fun s a => s.setPhysNat a 8 (f (s.physNat a 8))) s
  (List.range (regionPages size)).foldl (fun s i => s.tlbInvalidate 0 world (va + 65536 * i)) s1

/-- G = 1, R = 1, W = 0, X = 0. -/
def grottoPte (e : Nat) : Nat := e - field e 1 4 * 2 + (1 + 8) * 2
/-- G = 0. -/
def plainPte (e : Nat) : Nat := e - field e 4 1 * 16

/-- Writes bytes of a world at a virtual address, as the Hallmark does. -/
def State.writeWorld (s : State) (world va : Nat) (bs : List Byte) : State :=
  match worldRuns s world (fun p => pteWorld p == world) (bs.length / 65536 + 2) va bs.length with
  | none => s
  | some l => (s.setBytesAt ((runLocs l).zip bs)).clearPoison (runLocs l)

/-- The whole of a region in its world's own frames, if it is. -/
def State.regionOwned (s : State) (world va size : Nat) : Bool :=
  1 ≤ world && world ≤ 254 && (s.world? world).isSome &&
    (worldRuns s world (fun p => pteWorld p == world) (regionPages size + 1) va (65536 * regionPages size)).isSome

/-- A handle that no package of a world has. -/
def State.freeHandle (s : State) (world : Nat) : Nat :=
  (((List.range (s.packages.length + 1)).map (· + 1)).find? fun h =>
    !s.packages.any fun p => p.world == world && p.handle == h).getD 0

/-- The payload of a package, decrypted, when its tag checks. -/
def State.pkgPlain (s : State) (addr : Nat) (head : List Byte) : Option (List Byte) :=
  let n := leAt head 8 8
  match s.read0 (addr + head.length) (n + 16) with
  | none => none
  | some body =>
    let key := Config.packageKey s.hallmark.slots[0] ((head.drop 64).take 97) (head.take 64)
    let iv := beNat ((head.drop 164).take 12)
    let ct := body.take n
    if body.drop n == beBytes 16 (Config.packageTag key iv head ct) then some (gcmStream key iv ct) else none

/-- What the Hallmark finds in steps 1 to 6: a failure's status, or the policy and the segments. -/
def State.pkgCheck (s : State) (world addr gb size : Nat) : Except Nat (List (Nat × Nat) × List WeightSeg) :=
  match s.pkgHead addr with
  | none => .error pkgFormat
  | some head =>
    let pol := (polsOf head).map polEntry
    if leAt head 16 48 != s.hallmark.slots[0] then .error pkgFirmware
    else if !s.regionOwned world gb size then .error pkgWorld
    else
      match s.pkgPlain addr head with
      | none => .error pkgUnwrap
      | some text =>
        if !s.admitsDevice ⟨world, 0, gb, size, pol, false, 0⟩ then .error pkgPod
        else
          match weightSegs (text.length / 16 + 1) text with
          | none => .error pkgRoom
          | some segs => if segsFit size segs then .ok (pol, segs) else .error pkgRoom

/-- The status and the handle go to the host. -/
def State.pkgReply (s : State) (status handle : Nat) : State :=
  { s with hallmark := { s.hallmark with pkgAnswer := some (status, handle) } }

/-- PACKAGE_LOAD: a failure leaves no page changed. -/
def execPackageLoad (world addr gb size : Nat) (s : State) : Out :=
  if gb % 65536 != 0 then .next s
  else
    match s.pkgCheck world addr gb size with
    | .error st => .next (s.pkgReply st 0)
    | .ok (pol, segs) =>
      let h := s.freeHandle world
      let s1 := s.writeWorld world gb (List.replicate (65536 * regionPages size) 0)
      let s2 := segs.foldl (fun s g => s.writeWorld world (gb + g.off) g.bytes) s1
      let s3 := s2.setRegion world gb size grottoPte
      let p : Package := ⟨world, h, gb, size, pol, false, Config.freeValue s3.freeCount⟩
      .next (({ s3 with packages := s3.packages ++ [p] } : State).drawFree.pkgReply pkgLoaded h)

/-- Zeroes the region of a package, clears G and frees the handle. -/
def State.unload (s : State) (p : Package) : State :=
  let s1 := s.writeWorld p.world p.gb (List.replicate (65536 * regionPages p.size) 0)
  let s2 := s1.setRegion p.world p.gb p.size plainPte
  { s2 with packages := s2.packages.filter fun x => !(x.world == p.world && x.handle == p.handle) }

/-- Whether an admitted launch binds a package's handle. -/
def State.pkgBound (s : State) (p : Package) : Bool :=
  s.stages.any fun (g : Stage) => g.world == p.world && g.pkg == p.handle && s.launchLives g.launch

/-- PACKAGE_UNLOAD: done at once when no admitted launch binds the handle; otherwise the request waits, the package stays loaded,
and the unloading is done when the event comes again. -/
def execPackageUnload (world handle : Nat) (s : State) : Out :=
  match s.packages.find? fun p => p.world == world && p.handle == handle with
  | none => .next s
  | some p =>
    if s.pkgBound p then
      .next { s with packages := s.packages.map fun x =>
        if x.world == world && x.handle == handle then { x with unloading := true } else x }
    else .next (s.unload p)

/-! ## Worlds (15 R262) -/

/-- Zeroes frames and clears their poison. -/
def State.zeroFrames (s : State) (l : List Nat) : State :=
  { s with
    mem := s.mem.filter fun b => !l.contains (b.1 / frameBytes)
    poison := s.poison.filter fun x => !l.contains (x * 64 / frameBytes) }

/-- Whether a world may be created so. -/
def State.worldOk (s : State) (w : WorldInput) : Bool :=
  1 ≤ w.world && w.world ≤ 254 && (s.world? w.world).isNone && (s.world? 0).isSome &&
    1 ≤ w.signers.length && w.signers.length ≤ 16 && w.pinQuota ≤ 262144 &&
    w.frames.all fun f => s.frameOwner (f * frameBytes) == 0

/-- WORLD_CREATE: the frames pass to the world and are zeroed. -/
def execWorldCreate (w : WorldInput) (s : State) : Out :=
  if s.worldOk w then
    let s1 := s.zeroFrames w.frames
    let s2 := { s1 with owners := w.frames.foldl (fun l f => assocSet l f w.world) s1.owners }
    .next (s2.makeWorld w.world w.root w.signers w.pinQuota w.saveBase w.saveSize)
  else .next s

/-- The frames that a world owns. -/
def State.framesOf (s : State) (world : Nat) : List Nat := (s.owners.map (·.1)).filter fun f => assocD s.owners f 0 == world

/-- Closes every serving slot of a world. -/
def State.closeSessions (s : State) (world : Nat) : State :=
  (s.sessions.filter fun x => x.serves world).foldl (fun s x => s.closeSession (s.session x.slot)) s

/-- Ends every lease record of a world. -/
def State.endLeases (s : State) (world : Nat) : State :=
  let mine := s.fabric.ports.flatMap fun p => (p.leases.filter fun l => l.world == world).map fun l => (p.port, l.dst)
  mine.foldl (fun s x => s.revokeLease x.1 world x.2 true) s

/-- WORLD_TEARDOWN. -/
def execWorldTeardown (world : Nat) (s : State) : Out :=
  if world == 0 || 254 < world || (s.world? world).isNone || (s.launches.any fun (l : Launch) => l.world == world) then .next s
  else
    let s1 := (s.closeSessions world).endLeases world
    let frames := s1.framesOf world
    let s2 := (s1.zeroFrames frames).tlbInvalidate 1 world 0
    let s3 := s2.plateInvalidate 1 world 0
    let gone := (s3.fabric.worlds.filter fun x => x.world == world).map PodWorld.num
    .next { s3 with
      owners := s3.owners.filter fun o => !frames.contains o.1
      packages := s3.packages.filter fun p => p.world != world
      worlds := s3.worlds.filter fun x => x.id != world
      fabric := { s3.fabric with
        worlds := s3.fabric.worlds.filter fun x => x.world != world
        groups := s3.fabric.groups.filter fun x => !gone.contains x.num } }

/-! ## Soft errors (20 R369, R370) -/

/-- The address that a record shows: zero inside a confidential world's frames. -/
def State.shownAddr (s : State) (pa : Nat) : Nat := if 1 ≤ s.frameOwner pa && s.frameOwner pa ≤ 254 then 0 else pa

/-- Posts KIND 0x0102 with the row of the structure. -/
def State.postError (s : State) (die row addr : Nat) : State :=
  s.postEvent 0x0102 die (byteList [row] ++ leBytes 7 0 ++ leBytes 8 addr)

/-- Poisons a line. -/
def State.poisonLine (s : State) (pa : Nat) : State :=
  if s.poison.contains (pa / 64) then s else { s with poison := s.poison ++ [pa / 64] }

/-- Which part of a strand's state an ECC trap names. -/
inductive EccPart
  | bank (file : RegFile) (n : Nat) | cells (handle : Nat) | chan
  deriving DecidableEq, Repr

/-- TINFO of ECC. -/
def EccPart.code : EccPart → Nat
  | .bank .. => 1 | .cells _ => 2 | .chan => 3

/-- Whether an instruction reads the part. One that reads a register reads all its words (DEDUCED, log entry 31). -/
def EccPart.readBy (p : EccPart) (i : Instr) (t : Strand) : Bool :=
  match p with
  | .bank file n => (sourceRefs i t).any (Ref.names file n)
  | .chan => (allRefs i t).any fun r => match r with | .vsrc f _ => decide (32 ≤ f) | _ => false
  | .cells h =>
    match i with
    | .maccv _ _ a .. => a == h
    | .mstat _ _ a status _ => !status && a == h
    | _ => false

/-- The strand's next instruction reads the part and traps; otherwise nothing happens. -/
def State.eccTrap (s : State) (slot : SlotId) (p : EccPart) (row : Nat) : State :=
  match s.strand? slot with
  | none => s
  | some t =>
    if !s.canIssue t then s
    else
      match fetchDecode s t with
      | (s1, .instr i) => if p.readBy i t then (s1.trap t ⟨causeEcc, 0, p.code⟩).postError slot.die row 0 else s
      | (_, _) => s

/-- An error in cells: an operation under way that uses them completes poisoned; otherwise the reading instruction traps. -/
def State.cellError (s : State) (slot : SlotId) (handle : Nat) : State :=
  match s.strand? slot with
  | none => s
  | some t =>
    match t.ops.find? fun o => o.begun && o.handle == some handle && o.poison.isNone with
    | some o => ((s.putStrand (t.putOp { o with poison := some 1 })).setVoid t.launch).postError slot.die 3 0
    | none => s.eccTrap slot (.cells handle) 3

/-- An error in a session record: the slot stops with no further record. -/
def State.sessionError (s : State) (slot : Nat) : State :=
  let x := s.session slot
  if x.state == .opened || x.state == .stopped then
    ((s.putSession { x with state := .stopped, final := true }).postEvent 0x0402 noDie (leBytes 2 slot)).postError noDie 9 0
  else s

/-- UNCORRECTABLE_ERROR. -/
def execUncorrectableError (site : ErrorSite) (s : State) : Out :=
  match site with
  | .regBank slot file n => .next (s.eccTrap slot (.bank file n) 1)
  | .chan slot => .next (s.eccTrap slot .chan 2)
  | .accCell slot h => .next (s.cellError slot h)
  | .scratch c off =>
    let core := s.core c
    let sec := off / 32
    let bad := if core.spadPoison.contains sec then core.spadPoison else core.spadPoison ++ [sec]
    .next ((s.putCore { core with spadPoison := bad }).postError c.die 4 off)
  | .l2 die pa => .next ((s.poisonLine pa).postError die 5 (s.shownAddr pa))
  | .farClean die pa => .next (s.postError die 6 (s.shownAddr pa))
  | .farDirty die pa => .next ((s.poisonLine pa).postError die 6 (s.shownAddr pa))
  | .hbm die chan row pa =>
    .next (((s.poisonLine pa).postError die 7 (s.shownAddr pa)).markRepair ⟨die, chan, true, row⟩)
  | .parity die => .next (s.postError die 8 0)
  | .estimator launch est =>
    match s.launch? launch with
    | none => .next s
    | some l =>
      match (l.ests.toList[est]?).getD none with
      | none => .next s
      | some e => .next (((s.setVoid launch).killLaunch launch).postError e.home 9 0)
  | .lease port world dst =>
    if ((s.port port).lease world dst).isSome then .next ((s.revokeLease port world dst false).postError noDie 9 0) else .next s
  | .session slot => .next (s.sessionError slot)

/-- Corrected errors of a lane in a window above which it is marked. -/
def laneLimit : Nat := 4096


/-- Whether a confidential world exists, whose activity the counts of a stack then include. -/
def State.anyConfidential (s : State) : Bool := s.worlds.any fun w => 1 ≤ w.id && w.id ≤ 254

/-- CORRECTED_ERROR_WINDOW: a lane is (channel, lane, count). -/
def execCorrectedErrorWindow (die : Nat) (lanes : List (Nat × Nat × Nat)) (s : State) : Out :=
  let total := (lanes.map fun l => l.2.2).foldl (· + ·) 0
  let (s0, shown) := if s.anyConfidential then s.showCount (.corrected die) total else (s, total)
  let s1 := s0.postEvent 0x0101 die (leBytes 8 shown)
  .next ((lanes.filter fun l => laneLimit < l.2.2).foldl (fun s l => s.markRepair ⟨die, l.1, false, l.2.1⟩) s1)

/-! ## Heat and power (20 R363, R376) -/

/-- THERMCAP for the hottest die, after one period. -/
def thermNext (cap hottest : Nat) : Nat :=
  if 100 ≤ hottest then max 1 (cap - 1) else if hottest < 95 then min 8 (cap + 1) else cap

/-- THERMAL_STEP. -/
def execThermalStep (hottest : Nat) (s : State) : Out :=
  let cap := thermNext s.hallmark.thermcap hottest
  if cap == s.hallmark.thermcap then .next s
  else .next ({ s with hallmark := { s.hallmark with thermcap := cap } }.postEvent 0x0601 noDie (byteList [cap]))

/-- THERMAL_SHUTDOWN: every launch is killed and every compute die held in reset until the next power cycle. The strands of stages
stand killed until KILL_COMPLETE, which requeues and counts their items, and the Hallmark still performs a USAGE that was sent (10
R210; 15 R285). -/
def execThermalShutdown (hottest : Nat) (s : State) : Out :=
  if hottest < 110 then .next s
  else
    let s1 := s.killAll (s.launches.map Launch.serial)
    let s2 := { s1 with
      strands := s1.strands.filter fun t => !t.super
      cores := []
      dies := s1.dies.map (fun (d : Die) => { Die.reset d.id with absent := d.absent }) }
    .next (s2.postEvent 0x0602 noDie (byteList [s.hallmark.thermcap]))

/-- POWER_OFF: only the repair record survives; what happens next and the free values yet to be drawn are the model's own. -/
def execPowerOff (s : State) : Out :=
  .next { State.reset with
    agenda := s.agenda, freeCount := s.freeCount
    hallmark := { Hallmark.reset with repairs := s.hallmark.repairs } }

end Sys2Proof.Machine
end

