-- ==== Sys2Proof/Machine/Launch.lean ====
section
/-! DEFINITION. Launches: the record, its checks, admission and the plan, arming and pre-emption (16 R293 to R307; 14 R248). -/

namespace Sys2Proof.Machine

/-! ## The launch record (R293, R294) -/

/-- The header of a launch record. -/
structure LaunchRec where
  ngraph : Nat
  nstage : Nat
  nchan : Nat
  world : Nat
  cls : Nat
  policy : Nat
  tokens : Nat
  estmask : Nat
  esthome : List Nat
  bwshare : Nat
  deadline : Nat
  energy : Nat
  afterq : Nat
  aftertag : Nat
  stall : Nat
  cpladdr : Nat
  entries : List StageEntry
  chans : List ChanEntry
  deriving DecidableEq, Repr

/-- Bytes of a header, a stage entry and a channel entry. -/
def headerBytes : Nat := 64
def stageBytes : Nat := 128
def chanBytes : Nat := 8

/-- The retained ranges of a stage entry that are in use. -/
def spmapOf (b : List Byte) : List (Nat × Nat) :=
  ((List.range 8).map fun i => let w := leAt b (48 + 4 * i) 4; (field w 0 10, field w 10 11)).filter fun r => r.2 != 0

/-- A stage entry. -/
def stageEntryOf (b : List Byte) : StageEntry where
  modAddr := leAt b 0 8
  modSize := leAt b 8 4
  graph := leAt b 12 1
  mode := field (leAt b 13 1) 0 2
  die := field (leAt b 13 1) 2 3
  core0 := leAt b 14 1
  spc := leAt b 15 1
  pkg := leAt b 16 2
  nseed := leAt b 18 2
  seedAddr := leAt b 24 8
  remain := leAt b 32 8
  config := leAt b 40 8
  spmap := spmapOf b

/-- The bytes of stage entry `i`. -/
def stageSlice (b : List Byte) (i : Nat) : List Byte := (b.drop (headerBytes + stageBytes * i)).take stageBytes

/-- The bytes of channel entry `i`. -/
def chanSlice (b : List Byte) (nstage i : Nat) : List Byte := (b.drop (headerBytes + stageBytes * nstage + chanBytes * i)).take chanBytes

/-- A channel entry. -/
def chanEntryOf (b : List Byte) : ChanEntry := ⟨leAt b 0 1, leAt b 1 1, leAt b 2 1, leAt b 3 1⟩

/-- The fields of a record. -/
def launchRecOf (b : List Byte) : LaunchRec where
  ngraph := leAt b 6 1
  nstage := leAt b 7 1
  nchan := leAt b 8 2
  world := leAt b 10 1
  cls := field (leAt b 11 1) 0 2
  policy := field (leAt b 11 1) 2 2
  tokens := leAt b 12 2
  estmask := leAt b 14 1
  esthome := (List.range 4).map fun e => leAt b (16 + e) 1
  bwshare := leAt b 20 4
  deadline := leAt b 24 8
  energy := leAt b 32 8
  afterq := leAt b 40 1
  aftertag := leAt b 44 4
  stall := leAt b 48 4
  cpladdr := leAt b 56 8
  entries := (List.range (leAt b 7 1)).map fun i => stageEntryOf (stageSlice b i)
  chans := (List.range (leAt b 8 2)).map fun i => chanEntryOf (chanSlice b (leAt b 7 1) i)

/-- The header's constants, ranges and reserved bytes. -/
def launchHeaderOk (b : List Byte) (r : LaunchRec) : Bool :=
  leAt b 0 4 == 0x014C5847 && leAt b 4 2 == 1 && 1 ≤ r.ngraph && r.ngraph ≤ 8 && 1 ≤ r.nstage && r.nstage ≤ 64 &&
    r.nchan ≤ 512 && b.length == headerBytes + stageBytes * r.nstage + chanBytes * r.nchan && r.world ≤ 254 &&
    field (leAt b 11 1) 4 4 == 0 && r.policy != 3 && field r.estmask 4 4 == 0 && zeroAt b 15 1 &&
    ((List.range 4).all fun e => if bitAt r.estmask e then nth r.esthome e 0 ≤ 7 else nth r.esthome e 0 == 0) &&
    r.bwshare ≤ 256 && 1 ≤ r.deadline && r.deadline ≤ 2 ^ 48 && 1 ≤ r.energy && r.energy ≤ 2 ^ 24 &&
    (r.afterq ≤ 63 || r.afterq == 0xFF) && zeroAt b 41 3 &&
    (r.stall == 0 || (2 ^ 16 ≤ r.stall && r.stall ≤ 2 ^ 30)) && zeroAt b 52 4 && r.cpladdr % 8 == 0

/-- A retained range word: reserved bits zero, and within the 1,024 stripes. -/
def spmapWordOk (w : Nat) : Bool := field w 21 11 == 0 && field w 10 11 ≤ 1024 && (field w 10 11 == 0 || field w 0 10 + field w 10 11 ≤ 1024)

/-- The ranges and reserved bytes of a stage entry. -/
def stageEntryOk (b : List Byte) (ngraph : Nat) : Bool :=
  let e := stageEntryOf b
  e.graph < ngraph && e.mode != 3 && field (leAt b 13 1) 5 3 == 0 &&
    (e.mode != 2 || (e.core0 ≤ 31 && 1 ≤ e.spc && e.spc ≤ 16)) && e.nseed ≤ 4096 && zeroAt b 20 4 && 1 ≤ e.remain &&
    ((List.range 8).all fun i => spmapWordOk (leAt b (48 + 4 * i) 4)) && zeroAt b 80 48

/-- A channel entry names two stages of one graph. -/
def chanEntryOk (b : List Byte) (r : LaunchRec) : Bool :=
  let c := chanEntryOf b
  zeroAt b 4 4 &&
    match r.entries[c.producer]?, r.entries[c.consumer]? with
    | some p, some q => p.graph == q.graph
    | _, _ => false

/-- Check 1 but for CPLADDR's translation. -/
def launchRecOk (b : List Byte) : Bool :=
  let r := launchRecOf b
  launchHeaderOk b r && ((List.range r.nstage).all fun i => stageEntryOk (stageSlice b i) r.ngraph) &&
    (List.range r.nchan).all fun i => chanEntryOk (chanSlice b r.nstage i) r

/-- STALL, with its default. -/
def LaunchRec.stallBound (r : LaunchRec) : Nat := if r.stall == 0 then 2 ^ 20 else r.stall

/-! ## The completion record (R295) -/

/-- Bytes of a completion record. -/
def cplRecordBytes (ngraph nstage : Nat) : Nat := 40 + 8 * ngraph + 8 * nstage

/-- Whether every byte of a completion record translates in world 0 with W. -/
def State.cplWritable (s : State) (addr n : Nat) : Bool :=
  (worldRuns s 0 writable0 (n / 65536 + 2) addr n).isSome

/-- What a completion record says. -/
structure CplRecord where
  serial : Nat
  status : Nat
  void : Bool
  arrive : Nat
  done : Nat
  used : Nat
  graphWords : List Nat
  stageWords : List (Nat × Nat)
  deriving DecidableEq, Repr

/-- A stage word: items discarded, then channel bytes discarded. -/
def stageWord (x : Nat × Nat) : Nat := min x.1 (2 ^ 32 - 1) * 2 ^ 32 + min x.2 (2 ^ 32 - 1)

/-- The bytes of a completion record. -/
def CplRecord.bytes (c : CplRecord) : List Byte :=
  leBytes 8 c.serial ++ leBytes 1 c.status ++ leBytes 1 (boolNat c.void) ++ leBytes 6 0 ++ leBytes 8 c.arrive ++
    leBytes 8 c.done ++ leBytes 8 c.used ++ (c.graphWords.flatMap (leBytes 8)) ++ c.stageWords.flatMap fun x => leBytes 8 (stageWord x)

/-- Writes a completion record; it is dropped if its bytes no longer translate (R296). -/
def State.writeRecord (s : State) (addr : Nat) (c : CplRecord) : State := (s.write0 addr c.bytes).getD s

/-! ## Refusals (R296, R298) -/

def stRecFormat : Nat := 0x41
def stWorld : Nat := 0x42
def stEnergy : Nat := 0x43
def stBandwidth : Nat := 0x44
def stDeadline : Nat := 0x45
def stTableFull : Nat := 0x46
def stNoGraph : Nat := 0x47
def stKilled : Nat := 0x48
def stPlacement : Nat := 0x49
def stAdmitted : Nat := 0x40

/-- An arrival: its queue, its entry and its serial. -/
structure Arrival where
  q : Nat
  entry : SubEntry
  serial : Nat
  deriving DecidableEq, Repr

/-- A refusal whose completion record cannot be trusted or written: the entry alone. -/
def State.refuseEntry (s : State) (a : Arrival) : State := s.postCpl a.q ⟨a.serial, a.entry.tag, stRecFormat, false⟩

/-- A refusal: record, then entry. -/
def State.refuse (s : State) (a : Arrival) (r : LaunchRec) (status : Nat) (words : List Nat) : State :=
  (s.writeRecord r.cpladdr ⟨a.serial, status, false, s.pkgCycle, 0, 0, words, List.replicate r.nstage (0, 0)⟩).postCpl a.q
    ⟨a.serial, a.entry.tag, status, false⟩

/-! ## The accepted part of a launch -/

/-- A stage that the Burin accepted. -/
structure Candidate where
  index : Nat
  entry : StageEntry
  mod : Module
  die : Nat
  deriving DecidableEq, Repr

/-- The checks of every graph. -/
def State.checkGraphs (s : State) (r : LaunchRec) : List GraphCheck := (List.range r.ngraph).map (s.checkGraph r.world r.entries r.chans)

/-- The status words of the graphs. -/
def graphWordsOf (l : List GraphCheck) : List Nat := (List.range l.length).map fun g => (nth l g (.refused 0xFF 0xFF 0xFF)).word g

/-- The accepted stages, in the order of their indices. -/
def candidatesOf (r : LaunchRec) (l : List GraphCheck) : List Candidate :=
  let ms := l.flatMap fun g => match g with | .accepted ms _ _ => ms | .refused .. => []
  (List.range r.nstage).filterMap fun i =>
    match moduleAt ms i, r.entries[i]? with
    | some m, some e => some ⟨i, e, m, e.die⟩
    | _, _ => none

/-- The channels of the accepted graphs. -/
def edgesOf (l : List GraphCheck) : List Edge := l.flatMap fun g => match g with | .accepted _ es _ => es | .refused .. => []

/-- The buffers of the accepted graphs, by output. -/
def capsOf (l : List GraphCheck) : List (Nat × Nat) := l.flatMap fun g => match g with | .accepted _ _ caps => caps | .refused .. => []

/-- A world remembers the modules that passed step 3, oldest first, with their STALE bits until its teardown (14 R260); a quote
lists the most recent 64 of them (20 R365). -/
def World.remember (w : World) (meas : Nat) : World :=
  let stale := (w.modules.find? fun m => m.1 == meas).any (·.2)
  { w with modules := (w.modules.filter fun m => m.1 != meas) ++ [(meas, stale)] }

/-- The modules of a launch that passed step 3 are remembered. -/
def State.rememberModules (s : State) (r : LaunchRec) : State :=
  match s.world? r.world with
  | none => s
  | some w =>
    let l := (List.range r.ngraph).flatMap fun g => s.passedSigners r.world ((graphStages r.entries g).map (·.2))
    s.putWorld (l.foldl World.remember w)

/-! ## Check 4: dies (R298, R304) -/

/-- The bandwidth reserved at each port of a die. -/
def State.reservedBw (s : State) (die : Nat) : Nat :=
  ((s.launches.filter fun l => s.stages.any fun g => g.launch == l.serial && g.die == die).map Launch.bwshare).foldl (· + ·) 0

/-- Bytes of the buffers that a stage produces. -/
def ownBuffers (caps : List (Nat × Nat)) (i : Nat) : Nat := ((caps.filter fun c => c.1 / 16 == i).map (·.2)).foldl (· + ·) 0

/-- The most strands that a die without the runtime's slot holds. -/
def dieStrands : Nat := 511

/-- Whether a placement of mode 1 or 2 fits its die. -/
def State.placeFits (s : State) (c : Candidate) : Bool :=
  (s.die c.die).released && c.mod.nstrands ≤ dieStrands &&
    (c.entry.mode != 2 || (exactSlots c.die c.entry.core0 c.entry.spc c.mod.nstrands).all fun i => i.core < 32 && !reservedSlot i)

/-- The buffers on a die of the stages that have one. -/
def dieLoad (caps : List (Nat × Nat)) (placed : List Candidate) (die : Nat) : Nat :=
  ((placed.filter fun c => c.die == die).map fun c => ownBuffers caps c.index).foldl (· + ·) 0

/-- Whether a die holds a Plate Store entry for a module and a world. -/
def State.warm (s : State) (die meas world : Nat) : Bool := (s.die die).plate.any fun e => e.meas == meas && e.world == world

/-- How a die ranks for a mode 0 stage: lower is preferred. -/
def State.dieRank (s : State) (bw world meas die : Nat) : Nat :=
  (if s.reservedBw die + bw ≤ 256 then 0 else 16) + (if s.warm die meas world then 0 else 8) + die

/-- Gives the mode 0 stages their dies; none when a stage has no qualifying die. -/
def State.giveDies (s : State) (r : LaunchRec) (caps : List (Nat × Nat)) : List Candidate → List Candidate → Option (List Candidate)
  | placed, [] => some placed
  | placed, c :: rest =>
    let ok := (List.range 8).filter fun d => (s.die d).released && decide (c.mod.nstrands ≤ dieStrands) &&
      decide (dieLoad caps placed d + ownBuffers caps c.index ≤ dieBufferMax)
    match sortBy (s.dieRank r.bwshare r.world c.mod.meas) ok with
    | [] => none
    | d :: _ => s.giveDies r caps (placed ++ [{ c with die := d }]) rest

/-- Check 4: every stage with its die. -/
def State.placement (s : State) (r : LaunchRec) (caps : List (Nat × Nat)) (l : List Candidate) : Option (List Candidate) :=
  let fixed := l.filter fun c => c.entry.mode != 0
  if !fixed.all s.placeFits then none
  else if !(List.range 8).all fun d => decide (dieLoad caps fixed d ≤ dieBufferMax) then none
  else (s.giveDies r caps fixed (l.filter fun c => c.entry.mode == 0)).map fun l => sortBy Candidate.index l

/-! ## Check 8: the plan (R297, R306, R307) -/

/-- The stage record of an accepted stage; `id` is its instance number. -/
def Candidate.stage (c : Candidate) (r : LaunchRec) (serial id codebase : Nat) (outs : List (Option Nat × Nat))
    (ins : List (Nat × Nat)) (seeds : List Item) : Stage where
  id := id
  launch := serial
  world := r.world
  index := c.index
  graph := c.entry.graph
  meas := c.mod.meas
  signer := c.mod.signer
  entry := codebase
  codeSize := c.mod.codeSize
  dataDist := c.mod.dataDist
  dataSize := c.mod.dataSize
  decls := c.mod.decls
  nstrands := c.mod.nstrands
  widths := c.mod.widths
  outs := outs
  ins := ins
  queue := seeds
  waiters := []
  config := BitVec.ofNat 64 c.entry.config
  configs := []
  nextFiring := 0
  dispatched := 0
  committed := 0
  inputClosed := false
  mode := c.entry.mode
  die := c.die
  core0 := c.entry.core0
  spc := c.entry.spc
  pkg := c.entry.pkg
  remain := c.entry.remain
  ran := 0
  since := 0
  spmap := c.entry.spmap
  state := .pending
  cores := []
  saved := none
  discardedItems := 0
  discardedBytes := 0
  mcode := none

/-- The remaining estimate of a stage. -/
def Stage.remaining (g : Stage) (now : Nat) : Nat := g.remain - g.ranAt now

/-- Whether a debugger halt is in force on a core of a stage. -/
def State.debugHeld (s : State) (g : Stage) : Bool := (s.strandsOf g.id).any fun t => (s.core (coreOf t.at_)).dbg.halt

/-- Entries that are admitted and hold no cores yet. -/
def Stage.unbound (g : Stage) : Bool :=
  match g.state with
  | .pending | .ready | .saved _ => true
  | _ => false

/-- Puts a stage before the first one that it binds before. -/
def insertBind (s : State) (g : Stage) : List Stage → List Stage
  | [] => [g]
  | h :: r => if bindsBefore s g h then g :: h :: r else h :: insertBind s g r

/-- The launches by their bounds, earliest first. -/
def State.byBound (s : State) : List Launch := sortBy Launch.bound s.launches

/-- Tries an occupancy, then the same as launches end in turn; the bound by which the last needed has ended, 0 for none, with
what the trial found. -/
def whenFits {α : Type} (try_ : Occupancy → Option α) : Nat → List Launch → Occupancy → Option (Nat × α)
  | at_, ls, occ =>
    match try_ occ with
    | some x => some (at_, x)
    | none =>
      match ls with
      | [] => none
      | l :: r => whenFits try_ l.bound r (occ.filter fun x => x.2 != l.serial)

/-- What an unbound entry of an earlier launch is planned to take: its slots, and the bound by which they are free. -/
structure Claim where
  stage : Nat
  launch : Nat
  at_ : Nat
  slots : List SlotId
  deriving DecidableEq, Repr

/-- The claims of unbound entries, in the order in which they bind; each waits for the launches whose bounds come first as far
as it must (R296, R307; log entry 23). -/
def State.claims (s : State) (occ : Occupancy) : List Claim :=
  let l := (s.stages.filter Stage.unbound).foldr (insertBind s) []
  (l.foldl (fun (x : Occupancy × List Claim) g =>
    match whenFits (fun o => placeStage o g) 0 (s.byBound.filter fun l => l.serial != g.launch) x.1 with
    | some (t, slots) => (occupy x.1 g.launch slots, x.2 ++ [⟨g.id, g.launch, t, slots⟩])
    | none => x) (occ, [])).2

/-- The occupancy that an admission plans with: strands, and the claims of earlier launches. -/
def State.planned (s : State) (occ : Occupancy) : Occupancy :=
  (s.claims occ).foldl (fun occ c => occupy occ c.launch c.slots) occ

/-- The slots that strands of some stages hold are free; claims stay. -/
def without (s : State) (occ : Occupancy) (ids : List Nat) : Occupancy :=
  let held := ids.flatMap fun i => (s.strandsOf i).map fun t => (t.at_, t.launch)
  occ.filter fun x => !held.contains x

/-- What is done to a victim. -/
inductive VictimAction
  | drain | save | kill
  deriving DecidableEq, Repr

/-- A victim with its action, its launch's new bound and the newcomer's delay. -/
structure Victim where
  stage : Nat
  launch : Nat
  action : VictimAction
  bound : Nat
  delay : Nat
  deriving DecidableEq, Repr

/-- What the plan knows of the newcomer; `record` is its launch as it would be admitted. -/
structure Newcomer where
  serial : Nat
  record : Launch
  cls : Nat
  tokens : Nat
  after : Option Nat
  start : Nat
  span : Nat
  limit : Nat
  stages : List Stage
  deriving DecidableEq, Repr

/-- The save area that stages need at worst (17 R320): SAVESZ per strand, 2 KiB per retained stripe, 132 KiB per core. -/
def saveNeed (l : List Stage) : Nat :=
  (l.map fun (g : Stage) =>
    let cores := if g.mode == 2 then (g.nstrands + g.spc - 1) / max g.spc 1 else min g.nstrands 32
    let stripes := (g.spmap.map (·.2)).foldl (· + ·) 0
    g.nstrands * Config.saveSize + cores * (2048 * stripes + 132 * 1024)).foldl (· + ·) 0

/-- Whether the save area of a world holds stages. -/
def State.saveHolds (s : State) (world : Nat) (l : List Stage) : Bool := (s.world? world).any fun w => saveNeed l ≤ w.saveSize

/-- The first row of R306 that holds for a stage. -/
def State.victimOf (s : State) (n : Newcomer) (g : Stage) : Option Victim :=
  match s.launch? g.launch with
  | none => none
  | some l =>
    let left := g.remaining s.pkgCycle
    let ran := g.ranAt s.pkgCycle
    let dl := l.arrive + l.deadline
    if 4 * left ≤ n.span && n.start + left + n.span ≤ n.limit then some ⟨g.id, l.serial, .drain, l.bound, left⟩
    else if l.bound + n.span + 32768 ≤ dl && s.saveHolds g.world (s.stages.filter fun h => h.launch == l.serial) then
      some ⟨g.id, l.serial, .save, l.bound + n.span + 32768, 16384⟩
    else if l.policy == 0 && 2 * l.tokens ≤ n.tokens && l.bound + n.span + ran + 4096 ≤ dl then
      some ⟨g.id, l.serial, .kill, l.bound + n.span + ran + 4096, 4096⟩
    else none

/-- Whether a running stage is a candidate victim: lower class or fewer TOKENS, not FIXED, no debugger halt. R306 names no
die, so a stage counts wherever it runs. -/
def State.isCandidate (s : State) (n : Newcomer) (g : Stage) : Bool :=
  g.isRunning && !s.debugHeld g &&
    match s.launch? g.launch with
    | none => false
    | some l => l.policy != 2 && (l.cls < n.cls || (l.cls == n.cls && l.tokens < n.tokens))

/-- The order of candidates: lowest class, fewest TOKENS, latest arrival. -/
def victimBefore (s : State) (a b : Stage) : Bool :=
  match s.launch? a.launch, s.launch? b.launch with
  | some x, some y =>
    if x.cls != y.cls then x.cls < y.cls
    else if x.tokens != y.tokens then x.tokens < y.tokens
    else if x.serial != y.serial then y.serial < x.serial
    else a.index < b.index
  | _, _ => false

/-- Puts a stage before the first candidate that it precedes. -/
def insertVictim (s : State) (g : Stage) : List Stage → List Stage
  | [] => [g]
  | h :: r => if victimBefore s g h then g :: h :: r else h :: insertVictim s g r

/-- Whether the newcomer fits beside an occupancy. -/
def Newcomer.fits (n : Newcomer) (occ : Occupancy) : Bool := (placeAll occ n.stages).isSome

/-- Adds victims until the freed cores hold the newcomer. -/
def State.victims (s : State) (n : Newcomer) : List Stage → List Victim → Option (List Victim)
  | [], _ => none
  | g :: r, acc =>
    match s.victimOf n g with
    | none => s.victims n r acc
    | some v =>
      let acc' := acc ++ [v]
      if n.fits (without s (s.planned s.occupancy) (acc'.map Victim.stage)) then some acc' else s.victims n r acc'

/-- The launches that have ended when a newcomer starts: with an AFTER launch, those whose bounds come no later. -/
def State.goneBy (s : State) (n : Newcomer) : List Launch :=
  if n.after.isSome then s.launches.filter fun l => l.bound ≤ n.start else []

/-- The occupancy that a newcomer finds at its start. -/
def State.atStart (s : State) (n : Newcomer) : Occupancy :=
  let gone := (s.goneBy n).map Launch.serial
  (s.planned s.occupancy).filter fun x => !gone.contains x.2

/-- The wait of R307: the earliest bound by which enough launches have ended. -/
def State.waitFor (s : State) (n : Newcomer) : Option Nat :=
  (whenFits (fun o => placeAll o n.stages) 0 s.byBound (s.planned s.occupancy)).map fun x => x.1 - n.start

/-- A plan: the newcomer's start and delay, and the victims. -/
structure Plan where
  start : Nat
  delay : Nat
  victims : List Victim
  deriving DecidableEq, Repr

/-- Whether a plan meets the newcomer's deadline. -/
def Newcomer.meets (n : Newcomer) (p : Plan) : Bool := p.start + p.delay + n.span ≤ n.limit

/-- A launch's bound moves out to `bound`, and with it the bounds of the launches that start after it (R297). `fuel` bounds the
chain. -/
def State.moveBound : Nat → Nat → Nat → State → State
  | 0, _, _, s => s
  | fuel + 1, serial, bound, s =>
    match s.launch? serial with
    | none => s
    | some l =>
      if bound ≤ l.bound then s
      else
        (s.launches.filter fun d => d.after == some serial).foldl
          (fun s d => State.moveBound fuel d.serial (d.bound + (bound - l.bound)) s) (s.putLaunch { l with bound := bound })

/-- The bounds as a set of victims leaves them. -/
def State.moved (s : State) (l : List Victim) : State :=
  l.foldl (fun s v => s.moveBound s.launches.length v.launch v.bound) s

/-- The plan of a set of victims: the largest delay, from a start that follows the AFTER launch's bound. -/
def State.planOf (s : State) (n : Newcomer) (l : List Victim) : Plan :=
  let start := max n.start (((n.after.bind (s.moved l).launch?).map Launch.bound).getD 0)
  ⟨start, (l.map Victim.delay).foldl max 0, l⟩

/-- The dependence table as a plan would have it: the bounds of its victims moved, and the newcomer's stages PENDING in it. -/
def State.admitted (s : State) (n : Newcomer) (p : Plan) : State :=
  let t := (s.moved p.victims).putLaunch { n.record with bound := p.start + p.delay + n.span, start := p.start }
  { t with stages := t.stages ++ n.stages }

/-- Whether a plan keeps every admitted launch within its own deadline (R298 check 8): no bound passes it, and no claim of an
earlier launch, in the order in which entries bind with the newcomer's among them, comes to be met later than before unless its
launch still meets its deadline. -/
def State.keepsAll (s : State) (n : Newcomer) (p : Plan) : Bool :=
  let t := s.admitted n p
  let before := s.claims s.occupancy
  let after := t.claims (without s t.occupancy (p.victims.map Victim.stage))
  (t.launches.all fun x => x.bound ≤ x.arrive + x.deadline || (s.launch? x.serial).any fun y => x.bound ≤ y.bound) &&
    before.all fun b => match after.find? fun c => c.stage == b.stage with
      | none => false
      | some c => decide (c.at_ ≤ b.at_) ||
        match t.stage? c.stage, t.launch? c.launch with
        | some g, some x => c.at_ + (g.remain - g.ranAt s.pkgCycle) ≤ x.arrive + x.deadline
        | _, _ => false

/-- Free cores, else victims, else a wait; each only where it keeps every admitted launch within its deadline. -/
def State.plan (s : State) (n : Newcomer) : Option Plan :=
  let keeps := fun (p : Plan) => if s.keepsAll n p then some p else none
  let wait := (s.waitFor n).bind fun d => keeps ⟨n.start, d, []⟩
  if n.fits (s.atStart n) then keeps ⟨n.start, 0, []⟩
  else
    match s.victims n ((s.stages.filter (s.isCandidate n)).foldr (insertVictim s) []) [] with
    | some l => if n.meets (s.planOf n l) && s.keepsAll n (s.planOf n l) then some (s.planOf n l) else wait
    | none => wait

/-- Carries out the plan on one victim. -/
def State.preempt (s : State) (newcomer : Nat) (v : Victim) : State :=
  match s.stage? v.stage with
  | some g =>
    let s1 := s.moveBound s.launches.length v.launch v.bound
    match v.action with
    | .drain => s1.startDrain g
    | .save => s1.startCheckpoint g (some newcomer)
    | .kill => s1.startKill g
  | none => s

/-! ## Arming (14 R248) -/

/-- Code pages: R, X, and C in a confidential world. W is the runtime's choice, but a page that data shares has it (log entry
24). -/
def codePageOk (world : Nat) (shared : Bool) (pte : Nat) : Bool :=
  pteR pte && pteX pte && pteWorld pte == world && !pteG pte && pteC pte == (world != 0) && (!shared || pteW pte)

/-- Data pages: R and W, and C = 0. -/
def dataPageOk (world : Nat) (pte : Nat) : Bool := pteR pte && pteW pte && !pteC pte && pteWorld pte == world && !pteG pte

/-- Pages of a run of bytes, by number. -/
def pagesOf (va n : Nat) : List Nat := if n == 0 then [] else (List.range ((va + n - 1) / 65536 - va / 65536 + 1)).map (· + va / 65536)

/-- Whether one page of a world passes a test. -/
def State.pagePasses (s : State) (world page : Nat) (ok : Nat → Bool) : Bool :=
  (worldRuns s world ok 1 (page * 65536) 65536).isSome

/-- Whether the runtime's mapping of a stage is what R248 asks. A 64 KiB page that holds code and data carries R, W and X, and
C in a confidential world; its data bytes take writes all the same (State.inData; log entry 24). -/
def State.armOk (s : State) (world : Nat) (m : Module) (a : ArmChoice) : Bool :=
  let code := pagesOf a.codebase m.codeSize
  let data := pagesOf (a.codebase + m.dataDist) m.dataSize
  a.codebase % 65536 == 0 &&
    (code.all fun p => s.pagePasses world p (codePageOk world (data.contains p))) &&
    data.all fun p => code.contains p || s.pagePasses world p (dataPageOk world)

/-- Fills bytes of a world's memory, whatever the permissions. -/
def State.fillWorld (s : State) (world va : Nat) (bs : List Byte) : State :=
  match worldRuns s world (fun pte => pteWorld pte == world) (bs.length / 65536 + 2) va bs.length with
  | none => s
  | some l => (s.setBytesAt ((runLocs l).zip bs)).clearPoison (runLocs l)

/-- A world knows where a module's code stands. -/
def State.addRange (s : State) (world meas va n : Nat) : State :=
  match s.world? world with
  | none => s
  | some w => s.putWorld { w with ranges := w.ranges ++ [(meas, va, n)] }

/-- Arms one stage, if the runtime's choice is what R248 asks. -/
def State.armStage (s : State) (world : Nat) (c : Candidate) (a : ArmChoice) : Option State :=
  let s1 := a.ptes.foldl (fun s p => s.setPhysNat p.1 8 p.2) s
  if s1.armOk world c.mod a then
    some (((s1.fillWorld world a.codebase c.mod.code).fillWorld world (a.codebase + c.mod.dataDist) c.mod.data).addRange world
      c.mod.meas a.codebase c.mod.codeSize)
  else none

/-- Arms the stages of a launch, each with its choice. -/
def State.armAll (s : State) (world : Nat) : List Candidate → List ArmChoice → Option State
  | [], _ => some s
  | _ :: _, [] => none
  | c :: r, a :: l => (s.armStage world c a).bind fun s1 => s1.armAll world r l

/-! ## Admission -/

/-- The seeds of a stage; seeds that cannot be read are free values (log entry 3). -/
def State.seedsOf (s : State) (c : Candidate) : State × List Item :=
  match s.read0 c.entry.seedAddr (8 * c.entry.nseed) with
  | some b => (s, (List.range c.entry.nseed).map fun i => ⟨BitVec.ofNat 64 (leAt b (8 * i) 8), none, 0⟩)
  | none => ({ s with freeCount := s.freeCount + c.entry.nseed },
      (List.range c.entry.nseed).map fun i => ⟨BitVec.ofNat 64 (Config.freeValue (s.freeCount + i)), none, 0⟩)

/-- The outputs that have a channel, each once, in the order of the channel entries. -/
def outputsOfEdges (es : List Edge) : List Nat := uniq (es.map fun e => outKey e.producer e.out)

/-- The channel number of an output. -/
def chanOf (es : List Edge) (first key : Nat) : Option Nat :=
  ((List.range (outputsOfEdges es).length).find? fun k => nth (outputsOfEdges es) k 0 == key).map (first + ·)

/-- The instance number of a stage of the launch. -/
def instOf (l : List Candidate) (first index : Nat) : Nat := first + (((List.range l.length).find? fun k => (l[k]?).any fun c => c.index == index).getD 0)

/-- The outputs of a stage with their channels and bytes per firing. -/
def outsOf (es : List Edge) (first : Nat) (c : Candidate) : List (Option Nat × Nat) :=
  (List.range c.mod.outputsOf.length).map fun o =>
    (chanOf es first (outKey c.index o), ((c.mod.outputsOf[o]?).map fun d => firingBytes d.fmt d.rate).getD 0)

/-- The inputs of a stage with their channels. -/
def insOf (es : List Edge) (first : Nat) (c : Candidate) : List (Nat × Nat) :=
  (List.range c.mod.inputsOf.length).filterMap fun q =>
    (es.find? fun e => e.consumer == c.index && e.input == q).bind fun e => (chanOf es first (outKey e.producer e.out)).map fun n => (q, n)

/-- The channels of a launch. -/
def channelsOf (l : List Candidate) (es : List Edge) (caps : List (Nat × Nat)) (serial firstStage firstChan : Nat) : List Chan :=
  (outputsOfEdges es).filterMap fun key =>
    let mine := es.filter fun e => outKey e.producer e.out == key
    match mine.head?, chanOf es firstChan key with
    | some e, some id =>
      let prod := instOf l firstStage e.producer
      some {
        id := id, launch := serial, producer := prod, out := e.out, bytes := e.bp, cap := assocD caps key 0, base := 0
        buf := [], ahead := []
        consumers := mine.map fun x => ⟨instOf l firstStage x.consumer, x.input, x.bc, false, 0, [], 0, [], []⟩
        home := ⟨((l.find? fun c => c.index == e.producer).map Candidate.die).getD 0, 0⟩, skew := 0, stall := [] }
    | _, _ => none

/-- The estimators that a launch reserves (12 R225). -/
def estimatorsOf (r : LaunchRec) : Vector (Option Est) 4 :=
  Vector.ofFn fun e => if bitAt r.estmask e.val then some (Est.atAdmission (nth r.esthome e.val 0)) else none

/-- The launch record of the scheduler. -/
def launchOf (a : Arrival) (r : LaunchRec) (now bound start : Nat) (after : Option Nat) (words : List Nat) : Launch where
  serial := a.serial
  queue := a.q
  tag := a.entry.tag
  world := r.world
  cls := r.cls
  policy := r.policy
  tokens := r.tokens
  bwshare := r.bwshare
  deadline := r.deadline
  energy := r.energy
  used := 0
  after := after
  stall := r.stallBound
  cpladdr := r.cpladdr
  arrive := now
  bound := bound
  start := start
  status := stAdmitted
  void := false
  graphWords := words
  nstage := r.nstage
  stageWords := []
  ests := estimatorsOf r
  bars := Vector.replicate 16 ⟨0, 0, 0⟩
  killed := false
  hops := []
  lost := []

/-- Builds the stages of a launch with their seeds. -/
def State.buildStages (s : State) (a : Arrival) (r : LaunchRec) (all : List Candidate) (es : List Edge) (arm : List ArmChoice) :
    State :=
  (List.range all.length).foldl (fun s k =>
    match all[k]?, arm[k]? with
    | some c, some ch =>
      let (s1, seeds) := s.seedsOf c
      s1.putStage (c.stage r a.serial (s.nextStage + k) ch.codebase (outsOf es s.nextChan c) (insOf es s.nextChan c) seeds)
    | _, _ => s) s

/-- ADMISSION: energy is debited, the stages are armed and enter the dependence table, channels and estimators begin, and the
plan is carried out. None where the runtime's mapping is not what R248 asks. -/
def State.admitLaunch (s : State) (a : Arrival) (r : LaunchRec) (l : List Candidate) (checks : List GraphCheck) (after : Option Nat)
    (span : Nat) (p : Plan) (arm : List ArmChoice) : Option State :=
  let es := edgesOf checks
  (s.armAll r.world l arm).map fun s1 =>
    let s2 := s1.putLaunch (launchOf a r s.pkgCycle (p.start + p.delay + span) p.start after (graphWordsOf checks))
    let s3 := s2.buildStages a r l es arm
    let chans := channelsOf l es (capsOf checks) a.serial s.nextStage s.nextChan
    let s4 := { s3 with
      chans := s3.chans ++ chans
      nextStage := s.nextStage + l.length
      nextChan := s.nextChan + chans.length
      level := s3.level - 8 * (r.energy : Int) }
    (p.victims.foldl (fun s v => s.preempt a.serial v) s4).promote

/-- The AFTER launch that is still in the dependence table: the latest of its queue and tag. -/
def State.afterOf (s : State) (r : LaunchRec) : Option Launch :=
  if r.afterq == 0xFF then none
  else (s.launches.filter fun l => l.queue == r.afterq && l.tag == r.aftertag).getLast?

/-- The places of the dependence table. -/
def tableSize : Nat := 1024

/-- Whether the ports of every die of a launch have its BWSHARE. -/
def State.bandwidthFits (s : State) (r : LaunchRec) (l : List Candidate) : Bool :=
  l.all fun c => s.reservedBw c.die + r.bwshare ≤ 256

/-- The newcomer of a launch. -/
def newcomerOf (s : State) (a : Arrival) (r : LaunchRec) (l : List Candidate) (after : Option Launch) : Newcomer where
  serial := a.serial
  record := launchOf a r s.pkgCycle 0 0 (after.map Launch.serial) []
  cls := r.cls
  tokens := r.tokens
  after := after.map Launch.serial
  start := max s.pkgCycle ((after.map Launch.bound).getD 0)
  span := (l.map fun c => c.entry.remain).foldl max 0
  limit := s.pkgCycle + r.deadline
  stages := ((List.range l.length).zip l).map fun p => p.2.stage r a.serial (s.nextStage + p.1) 0 [] [] []

/-- Checks 3 to 8, and admission. `s0` answers where the runtime's mapping is no arming. -/
def State.admission (s s0 : State) (a : Arrival) (r : LaunchRec) (arm : List ArmChoice) : State :=
  let checks := s.checkGraphs r
  let words := graphWordsOf checks
  let s1 := s.rememberModules r
  if checks.all fun g => match g with | .refused .. => true | .accepted .. => false then s1.refuse a r stNoGraph words
  else
    match s1.placement r (capsOf checks) (candidatesOf r checks) with
    | none => s1.refuse a r stPlacement words
    | some l =>
      if tableSize < s1.stages.length + l.length then s1.refuse a r stTableFull words
      else if s1.level < 8 * (r.energy : Int) then s1.refuse a r stEnergy words
      else if !s1.bandwidthFits r l then s1.refuse a r stBandwidth words
      else
        let after := s1.afterOf r
        let n := newcomerOf s1 a r l after
        match s1.plan n with
        | none => s1.refuse a r stDeadline words
        | some p =>
          if n.meets p then (s1.admitLaunch a r l checks (after.map Launch.serial) n.span p arm).getD s0
          else s1.refuse a r stDeadline words

/-- The words of graphs that were never checked. -/
def uncheckedWords (r : LaunchRec) : List Nat := (List.range r.ngraph).map uncheckedWord

/-- The scheduler handles a fetched entry: checks 1 and 2, then the rest. -/
def State.handle (s s0 : State) (a : Arrival) (arm : List ArmChoice) : State :=
  match if a.entry.len < headerBytes then none else s.read0 a.entry.lrec a.entry.len with
  | none => s.refuseEntry a
  | some b =>
    let r := launchRecOf b
    if !s.cplWritable r.cpladdr (cplRecordBytes r.ngraph r.nstage) then s.refuseEntry a
    else if !launchRecOk b then s.refuse a r stRecFormat (uncheckedWords r)
    else if (s.world? r.world).isNone then s.refuse a r stWorld (uncheckedWords r)
    else s.admission s0 a r arm

/-- LAUNCH_ARRIVAL: the scheduler fetches the next entry of a queue in a context. -/
def execLaunchArrival (q : Nat) (arm : List ArmChoice) (s : State) : Out :=
  let x := s.queue q
  match if x.mayFetch then s.entryAt x else none with
  | none => .next s
  | some e =>
    let s1 := { s.setQueue x.fetched with nextSerial := s.nextSerial + 1 }
    .next (s1.handle s ⟨q, e, s.nextSerial⟩ arm)

end Sys2Proof.Machine
end

