-- ==== Sys2Proof/Machine/Scalar.lean ====
section
/-! DEFINITION. Scalar integer instructions (04_scalar_control.md R70 to R75). -/

namespace Sys2Proof.Machine

/-! ## Two sources (04 R70, R71) -/

/-- The operation width of a W flag. -/
def opWidth (w : Bool) : Nat := if w then 32 else 64

/-- The result of a two-source instruction: `op` takes the width, the two patterns and the two values, and gives the exact
result; it is clamped or wrapped and sign-extended. -/
def aluResult (x : AluForm) (t : Strand) (op : Nat → Nat → Nat → Int → Int → Int) : Nat :=
  let w := opWidth x.w
  let a := t.rn x.a % 2 ^ w
  let b := t.rn x.b % 2 ^ w
  let r := op w a b (readInt w x.u a) (readInt w x.u b)
  let r := if x.sat then clampTo w x.u r else r
  sext w (wrapTo w r)

/-- A two-source instruction: it writes sD and nothing else. -/
def aluExec (i : Instr) (x : AluForm) (op : Nat → Nat → Nat → Int → Int → Int) (s : State) : Out :=
  gated i s fun s t => s.complete (t.setN x.d (aluResult x t op))

def opAdd (_ _ _ : Nat) (x y : Int) : Int := x + y
def opSub (_ _ _ : Nat) (x y : Int) : Int := x - y
def opMul (_ _ _ : Nat) (x y : Int) : Int := x * y
def opMulh (w _ _ : Nat) (x y : Int) : Int := x * y / (2 ^ w : Nat)
def opDiv (w _ _ : Nat) (x y : Int) : Int := divInt w x y
def opRem (_ _ _ : Nat) (x y : Int) : Int := remInt x y
def opAnd (_ a b : Nat) (_ _ : Int) : Int := (a &&& b : Nat)
def opOr (_ a b : Nat) (_ _ : Int) : Int := (a ||| b : Nat)
def opXor (_ a b : Nat) (_ _ : Int) : Int := (a ^^^ b : Nat)
def opShl (w a b : Nat) (_ _ : Int) : Int := (a * 2 ^ (b % w) : Nat)
def opShr (w a b : Nat) (_ _ : Int) : Int := (a / 2 ^ (b % w) : Nat)
def opSra (w a b : Nat) (_ _ : Int) : Int := signedOf a w / (2 ^ (b % w) : Nat)
def opMin (_ _ _ : Nat) (x y : Int) : Int := if y < x then y else x
def opMax (_ _ _ : Nat) (x y : Int) : Int := if x < y then y else x

def execAdd (x : AluForm) (s : State) : Out := aluExec (.add x) x opAdd s
def execSub (x : AluForm) (s : State) : Out := aluExec (.sub x) x opSub s
def execMul (x : AluForm) (s : State) : Out := aluExec (.mul x) x opMul s
def execMulh (x : AluForm) (s : State) : Out := aluExec (.mulh x) x opMulh s
def execDiv (x : AluForm) (s : State) : Out := aluExec (.div x) x opDiv s
def execRem (x : AluForm) (s : State) : Out := aluExec (.rem x) x opRem s
def execAnd (x : AluForm) (s : State) : Out := aluExec (.and x) x opAnd s
def execOr (x : AluForm) (s : State) : Out := aluExec (.or x) x opOr s
def execXor (x : AluForm) (s : State) : Out := aluExec (.xor x) x opXor s
def execShl (x : AluForm) (s : State) : Out := aluExec (.shl x) x opShl s
def execShr (x : AluForm) (s : State) : Out := aluExec (.shr x) x opShr s
def execSra (x : AluForm) (s : State) : Out := aluExec (.sra x) x opSra s
def execMin (x : AluForm) (s : State) : Out := aluExec (.min x) x opMin s
def execMax (x : AluForm) (s : State) : Out := aluExec (.max x) x opMax s

/-! ## One source and select (04 R72, R73) -/

/-- An instruction whose whole effect is to write sD with a value of the strand. -/
def writeScalar (i : Instr) (d : Nat) (f : Strand → Nat) (s : State) : Out :=
  gated i s fun s t => s.complete (t.setN d (f t))

/-- Zero bits above the highest set bit of a `w`-bit pattern. -/
def clzOf (w a : Nat) : Nat := if a == 0 then w else w - 1 - Nat.log2 a
/-- Zero bits below the lowest set bit. -/
def ctzOf (w a : Nat) : Nat := ((List.range w).find? fun i => bitAt a i).getD w
/-- Set bits. -/
def popcOf (w a : Nat) : Nat := ((List.range w).filter fun i => bitAt a i).length

def execClz (g : Guard) (d a : Nat) (w : Bool) (s : State) : Out :=
  writeScalar (.clz g d a w) d (fun t => clzOf (opWidth w) (t.rn a % 2 ^ opWidth w)) s
def execPopc (g : Guard) (d a : Nat) (w : Bool) (s : State) : Out :=
  writeScalar (.popc g d a w) d (fun t => popcOf (opWidth w) (t.rn a % 2 ^ opWidth w)) s
def execCtz (g : Guard) (d a : Nat) (w : Bool) (s : State) : Out :=
  writeScalar (.ctz g d a w) d (fun t => ctzOf (opWidth w) (t.rn a % 2 ^ opWidth w)) s

def execSel (g : Guard) (d a b c : Nat) (pn : Bool) (s : State) : Out :=
  writeScalar (.sel g d a b c pn) d (fun t => if t.pbit c 0 != pn then t.rn a else t.rn b) s

/-! ## Immediate forms (04 R74) -/

def execAddi (g : Guard) (d a : Nat) (w : Bool) (imm : Nat) (s : State) : Out :=
  writeScalar (.addi g d a w imm) d
    (fun t => let n := opWidth w; sext n (wrapTo n ((t.rn a : Int) + imm32s imm))) s

/-- The constant of LOGI and MOVI. -/
def immConst (zx : Bool) (imm : Nat) : Nat := if zx then imm % 2 ^ 32 else wrap64 (imm32s imm)

/-- LOGI's operation. -/
def logicOp : LogicOp → Nat → Nat → Nat
  | .and, a, b => a &&& b
  | .or, a, b => a ||| b
  | .xor, a, b => a ^^^ b

def execLogi (g : Guard) (d a : Nat) (op : LogicOp) (zx : Bool) (imm : Nat) (s : State) : Out :=
  writeScalar (.logi g d a op zx imm) d (fun t => logicOp op (t.rn a) (immConst zx imm)) s

/-- SHI's operation on a `w`-bit pattern. -/
def shiftOp (op : ShiftOp) (w a n : Nat) : Nat :=
  match op with
  | .shl => wrapTo w (a * 2 ^ n : Nat)
  | .shr => a / 2 ^ n
  | .sra => wrapTo w (signedOf a w / (2 ^ n : Nat))
  | .ror => (a / 2 ^ n + a * 2 ^ (w - n)) % 2 ^ w

def execShi (g : Guard) (d a : Nat) (op : ShiftOp) (w : Bool) (n : Nat) (s : State) : Out :=
  writeScalar (.shi g d a op w n) d
    (fun t => sext (opWidth w) (shiftOp op (opWidth w) (t.rn a % 2 ^ opWidth w) n)) s

def execMovi (g : Guard) (d : Nat) (zx : Bool) (imm : Nat) (s : State) : Out :=
  writeScalar (.movi g d zx imm) d (fun _ => immConst zx imm) s

def execMovhi (g : Guard) (d a imm : Nat) (s : State) : Out :=
  writeScalar (.movhi g d a imm) d (fun t => imm % 2 ^ 32 * 2 ^ 32 + t.rn a % 2 ^ 32) s

def execExtr (g : Guard) (d a : Nat) (sx : Bool) (lo width : Nat) (s : State) : Out :=
  writeScalar (.extr g d a sx lo width) d
    (fun t => let v := field (t.rn a) lo width; if sx then sext width v else v) s

/-- INSR's result: the field of `old` replaced. -/
def insertField (old lo width v : Nat) : Nat := old - field old lo width * 2 ^ lo + v % 2 ^ width * 2 ^ lo

def execInsr (g : Guard) (d a lo width : Nat) (s : State) : Out :=
  writeScalar (.insr g d a lo width) d (fun t => insertField (t.rn d) lo width (t.rn a)) s

def execAddpc (g : Guard) (d imm : Nat) (s : State) : Out :=
  writeScalar (.addpc g d imm) d (fun t => wrap64 ((t.pc.toNat : Int) + imm32s imm)) s

/-! ## Comparison (04 R75) -/

def execCmp (g : Guard) (d a b : Nat) (cond : IntCond) (w : Bool) (comb : Comb) (s : State) : Out :=
  gated (.cmp g d a b cond w comb) s fun s t =>
    let n := opWidth w
    s.complete (t.writePred d (intCond cond n (t.rn a % 2 ^ n) (t.rn b % 2 ^ n)) comb)

def execCmpi (g : Guard) (d a : Nat) (cond : IntCond) (w : Bool) (imm : Nat) (s : State) : Out :=
  gated (.cmpi g d a cond w imm) s fun s t =>
    let n := opWidth w
    s.complete (t.writePred d (intCond cond n (t.rn a % 2 ^ n) (wrapTo n (imm32s imm))) .set)

end Sys2Proof.Machine
end

