-- ==== Sys2Proof/Machine/ScalarFp.lean ====
section
/-! DEFINITION. Scalar floating-point and predicate instructions (04_scalar_control.md R76 to R82). -/

namespace Sys2Proof.Machine

/-- Writes a floating-point result, zero above its width, and ORs its flags (04 R76). -/
def Strand.putFp (t : Strand) (d : Nat) (r : Nat × Nat) : Strand := (t.setN d r.1).orFlags r.2

/-- A two-source instruction: the operation takes the format, the rounding mode and the two patterns. -/
def fpExec (i : Instr) (x : FpForm) (op : Fmt → RMode → Nat → Nat → Nat × Nat) (s : State) : Out :=
  gated i s fun s t =>
    let f := fpFmt x.fmt
    s.complete (t.putFp x.d (op f (t.mode x.rnd) (t.rf x.a f) (t.rf x.b f)))

def execFadd (x : FpForm) (s : State) : Out := fpExec (.fadd x) x Fmt.add s
def execFsub (x : FpForm) (s : State) : Out := fpExec (.fsub x) x Fmt.sub s
def execFmul (x : FpForm) (s : State) : Out := fpExec (.fmul x) x Fmt.mul s
def execFdiv (x : FpForm) (s : State) : Out := fpExec (.fdiv x) x Fmt.div s

def execFma (x : FpForm) (c : Nat) (kind : FmaKind) (s : State) : Out :=
  gated (.fma x c kind) s fun s t =>
    let f := fpFmt x.fmt
    s.complete (t.putFp x.d (f.fma (t.mode x.rnd) kind (t.rf x.a f) (t.rf x.b f) (t.rf c f)))

def execFsqrt (g : Guard) (d a : Nat) (rnd : Rnd) (fmt : FpFmt) (s : State) : Out :=
  gated (.fsqrt g d a rnd fmt) s fun s t =>
    let f := fpFmt fmt
    s.complete (t.putFp d (f.sqrt (t.mode rnd) (t.rf a f)))

def execFmin (g : Guard) (d a b : Nat) (fmt : FpFmt) (s : State) : Out :=
  gated (.fmin g d a b fmt) s fun s t =>
    let f := fpFmt fmt
    s.complete (t.putFp d (f.minMax true (t.rf a f) (t.rf b f)))

def execFmax (g : Guard) (d a b : Nat) (fmt : FpFmt) (s : State) : Out :=
  gated (.fmax g d a b fmt) s fun s t =>
    let f := fpFmt fmt
    s.complete (t.putFp d (f.minMax false (t.rf a f) (t.rf b f)))

def execFcmp (g : Guard) (d a b : Nat) (fmt : FpFmt) (cond : FpCond) (comb : Comb) (s : State) : Out :=
  gated (.fcmp g d a b fmt cond comb) s fun s t =>
    let f := fpFmt fmt
    let r := f.compare cond (t.rf a f) (t.rf b f)
    s.complete ((t.writePred d r.1 comb).orFlags r.2)

/-- The register value of a conversion's result: integers sign-extended, the rest zero-extended (04 R80). -/
def cvtToReg (dst : CvtType) (bits : Nat) : Nat :=
  match cvtFmt dst with
  | .inl _ => bits
  | .inr n => sext n bits

def execFcvt (g : Guard) (d a : Nat) (src dst : CvtType) (rnd : Rnd) (s : State) : Out :=
  gated (.fcvt g d a src dst rnd) s fun s t =>
    let r := convert src dst (t.mode rnd) t.sat (t.rn a % 2 ^ cvtWidth src)
    s.complete (t.putFp d (cvtToReg dst r.1, r.2))

def execFclass (g : Guard) (d a : Nat) (fmt : FpFmt) (s : State) : Out :=
  writeScalar (.fclass g d a fmt) d (fun t => (fpFmt fmt).classify (t.rf a (fpFmt fmt))) s

def execFsgn (g : Guard) (d a b : Nat) (kind : SgnKind) (fmt : FpFmt) (s : State) : Out :=
  writeScalar (.fsgn g d a b kind fmt) d
    (fun t => (fpFmt fmt).sgn kind (t.rf a (fpFmt fmt)) (t.rf b (fpFmt fmt))) s

/-! ## Predicates (04 R82) -/

/-- An instruction whose whole effect is to write pD with a value of the strand. -/
def writePredicate (i : Instr) (d : Nat) (f : Strand → Nat) (s : State) : Out :=
  gated i s fun s t => s.complete (t.setP d (f t))

/-- PLOG's operation on whole predicates. -/
def predOp (op : PredOp) (a b : Nat) : Nat :=
  let nb := b ^^^ allOnes
  match op with
  | .and => a &&& b
  | .or => a ||| b
  | .xor => a ^^^ b
  | .andn => a &&& nb
  | .orn => a ||| nb
  | .nand => (a &&& b) ^^^ allOnes
  | .nor => (a ||| b) ^^^ allOnes
  | .xnor => (a ^^^ b) ^^^ allOnes

def execPlog (g : Guard) (d a b : Nat) (op : PredOp) (s : State) : Out :=
  writePredicate (.plog g d a b op) d (fun t => predOp op (t.rp a) (t.rp b)) s

/-- The bits of PSET. -/
def psetBits (t : Strand) (a : Nat) (mode : PsetMode) (imm : Nat) : Nat :=
  match mode with
  | .all => allOnes
  | .none => 0
  | .first =>
    let v := signedOf (wrap64 ((t.rn a : Int) + imm32s imm)) 64
    2 ^ (min v.toNat t.vlmax) - 1

def execPset (g : Guard) (d a : Nat) (mode : PsetMode) (imm : Nat) (s : State) : Out :=
  writePredicate (.pset g d a mode imm) d (fun t => psetBits t a mode imm) s

/-- The 64-bit chunk of a predicate below VLMAX. -/
def predChunk (t : Strand) (a c : Nat) : Nat := field (t.rp a % 2 ^ t.vlmax) (64 * c) 64

def execPmov (g : Guard) (d a b : Nat) (kind : PmovKind) (s : State) : Out :=
  gated (.pmov g d a b kind) s fun s t =>
    match kind with
    | .pp => s.complete (t.setP d (t.rp a))
    | .sp => s.complete (t.setN d (predChunk t a (t.rn b % 32)))
    | .ps => s.complete (t.setP d (insertField (t.rp d) (64 * (t.rn b % 32)) 64 (t.rn a)))

/-- The positions that PCOUNT and PFIRST look at. -/
def predRange (t : Strand) (range : Bool) : Nat := if range then t.vlmax else t.vl

def execPcount (g : Guard) (d a : Nat) (range : Bool) (s : State) : Out :=
  writeScalar (.pcount g d a range) d (fun t => popcOf (predRange t range) (t.rp a)) s

/-- The lowest or highest set bit below `n`, or all ones. -/
def firstBit (last : Bool) (n v : Nat) : Nat :=
  let l := if last then (List.range n).reverse else List.range n
  (l.find? fun i => bitAt v i).getD (2 ^ 64 - 1)

def execPfirst (g : Guard) (d a : Nat) (last range : Bool) (s : State) : Out :=
  writeScalar (.pfirst g d a last range) d (fun t => firstBit last (predRange t range) (t.rp a)) s

end Sys2Proof.Machine
end

