-- ==== Sys2Proof/Machine/Schedule.lean ====
section
/-! DEFINITION. The launch scheduler as launches run: completion, overruns, the energy reservoir and bandwidth windows (16
R295, R299, R300, R302, R303). -/

namespace Sys2Proof.Machine

/-! ## Completion (R303, R295, R209) -/

/-- Whether every stage of a launch is DONE and nothing of it is on its way. -/
def State.launchDone (s : State) (n : Nat) : Bool :=
  (s.stages.all fun g => g.launch != n || g.state == .done) && s.posted.all fun p => p.launch != n

/-- A count as the host may read it: coarsened for a confidential world (15 R266). -/
def coarsen (world n : Nat) : Nat := if world == 0 then n else n / 2 ^ 16 * 2 ^ 16

/-- The level after an amount in eighths comes back, capped at 2^24 quanta. -/
def capLevel (x : Int) : Int := min fullLevel x

/-- The words of a launch's stages; a stage of a refused graph has none discarded. -/
def State.stageWordsOf (s : State) (l : Launch) : List (Nat × Nat) :=
  (List.range l.nstage).map fun i =>
    ((s.stages.find? fun g => g.launch == l.serial && g.index == i).map fun g => (g.discardedItems, g.discardedBytes)).getD (0, 0)

/-- What a launch leaves behind when its entries are freed: its pins go, its channels and code ranges are forgotten, and what
cores still hold of it is destroyed (00 R2). -/
def State.freeLaunch (s : State) (n : Nat) : State :=
  let mine := s.stages.filter fun g => g.launch == n
  { s with
    launches := s.launches.filter fun l => l.serial != n
    stages := s.stages.filter fun g => g.launch != n
    chans := s.chans.filter fun c => c.launch != n
    dies := s.dies.map (fun (d : Die) => { d with pins := d.pins.filter fun p => p.launch != n })
    cores := s.cores.map (fun (c : Core) => c.endLaunch n (mine.map Stage.id) (s.superOn c.id))
    worlds := s.worlds.map (fun (w : World) =>
      { w with ranges := w.ranges.filter fun r => !mine.any fun g => g.world == w.id && g.entry == r.2.1 && g.meas == r.1 }) }

/-- LAUNCH_COMPLETE: energy and shares return, the record is written before the entry, and the entries are freed. VOID is
set too where the deadline has passed (22, Outcomes). -/
def execLaunchComplete (n : Nat) (s : State) : Out :=
  match s.launch? n with
  | none => .next s
  | some l0 =>
    if !s.launchDone n then .next s
    else
      let (s1, l) := s.meterUsed l0
      let late := decide (l.arrive + l.deadline < s.pkgCycle)
      let void := l.void || late || decide (l.energy < l.used) || (s1.queue l.queue).cplWaits
      let s2 := { s1 with level := capLevel (s1.level + 8 * ((l.energy : Int) - l.used)) }
      let s3 := s2.writeRecord l.cpladdr
        ⟨l.serial, l.status, void, l.arrive, s.pkgCycle, coarsen l.world l.used, l.graphWords, s.stageWordsOf l⟩
      let s4 := s3.postCpl l.queue ⟨l.serial, l.tag, l.status, void⟩
      .next (s4.freeLaunch n).promote

/-! ## Overruns (R299) -/

/-- Whether a stage has run past its REMAIN. -/
def State.overran (s : State) (g : Stage) : Bool := g.isRunning && g.remain < g.ranAt s.pkgCycle

/-- The launches that are planned on cores of a stage and wait for them: their AFTER launch is gone, and a claim of theirs lies
there that must wait. -/
def State.waitsFor (s : State) (g : Stage) : List Nat :=
  uniq (((s.claims s.occupancy).filter fun c =>
    c.launch != g.launch && !((s.launch? c.launch).bind Launch.after).any s.launchLives &&
      ((s.stage? c.stage).any fun h => (placeStage s.occupancy h).isNone) &&
      c.slots.any fun i => g.cores.contains (coreOf i)).map Claim.launch)

/-- OVERRUN_PREEMPT: the cores are freed whatever the POLICY: by a checkpoint, or by a kill where the save area is too small.
Under a debugger halt the stage keeps them, and the VOID of every launch that waits for them is set too. -/
def execOverrunPreempt (inst : Nat) (s : State) : Out :=
  match s.stage? inst with
  | none => .next s
  | some g =>
    match if s.overran g then s.waitsFor g else [] with
    | [] => .next s
    | n :: r =>
      let s1 := s.setVoid g.launch
      if s.debugHeld g then .next ((n :: r).foldl State.setVoid s1)
      else if s.saveHolds g.world [g] then .next (s1.startCheckpoint g (some n))
      else .next (s1.startKill g)

/-! ## The reservoir (R300) -/

/-- RESERVOIR_REFILL: `n` package-reference cycles pass, each raising the level by CAP / 8 quanta. -/
def execReservoirRefill (n : Nat) (s : State) : Out :=
  .next { s with pkgCycle := s.pkgCycle + n, level := capLevel (s.level + (n * s.cap : Nat)) }

/-! ## Bandwidth windows (R302) -/

/-- The shares of the worlds with admitted launches on a die, by world. -/
def State.sharesOn (s : State) (die : Nat) : List (Nat × Nat) :=
  let ls := s.launches.filter fun l => s.stages.any fun g => g.launch == l.serial && g.die == die
  sortBy (·.1) ((uniq (ls.map Launch.world)).map fun w => (w, ((ls.filter fun l => l.world == w).map Launch.bwshare).foldl (· + ·) 0))

/-- Tokens of a port in a window. -/
def windowTokens : Nat := 256

/-- The sum of the second parts. -/
def sumSnd (l : List (Nat × Nat)) : Nat := (l.map (·.2)).foldl (· + ·) 0

/-- Stores a port of a die. -/
def State.putBw (s : State) (die : Nat) (p : BwPort) : State :=
  let d := s.die die
  s.putDie { d with ports := upsert BwPort.port p d.ports }

/-- The buckets of a port. -/
def State.bwPort (s : State) (die port : Nat) : BwPort := ((s.die die).ports.find? fun p => p.port == port).getD ⟨port, [], 0, []⟩

/-- The 64-byte lines of a request that lie behind a port of a die: byte pa lies behind port (pa >> 8) mod 64 of its home. -/
def linesBehind (die port pa n : Nat) : Nat :=
  ((List.range (if n == 0 then 0 else (pa + n - 1) / 64 - pa / 64 + 1)).filter fun i =>
    Config.homeDie ((pa / 64 + i) * 64) % 8 == die && (pa / 64 + i) / 4 % 64 == port).length

/-- Held requests draw tokens from their worlds' buckets in the order in which they were held, one for each line; what they
still want stays held. -/
def drawHeld : List (Nat × Nat) → List (Nat × Nat) → List (Nat × Nat) × List (Nat × Nat)
  | [], b => (b, [])
  | (w, n) :: r, b =>
    let k := min n (assocD b w 0)
    let (b1, h) := drawHeld r (if k == 0 then b else assocSet b w (assocD b w 0 - k))
    (b1, if k == n then h else (w, n - k) :: h)

/-- The held requests of a port draw. -/
def BwPort.draw (p : BwPort) : BwPort :=
  let x := drawHeld p.held p.buckets
  { p with buckets := x.1, held := x.2 }

/-- Requests of cores reach a port, each with its world, physical address and length: they spend, or are held. -/
def BwPort.arrive (p : BwPort) (die : Nat) (reqs : List (Nat × Nat × Nat)) : BwPort :=
  { p with held := p.held ++ reqs.map fun (r : Nat × Nat × Nat) => (r.1, linesBehind die p.port r.2.1 r.2.2) }.draw

/-- BW_WINDOW_START: each bucket is set to its share and the spare pool to what is left of 256; the held requests draw. The
requests are those of the interval that ends here; which accesses reach a port, and when, is timing (log entry 7). -/
def execBwWindowStart (die : Nat) (r : PortRequests) (s : State) : Out :=
  let shares := s.sharesOn die
  let p := (s.bwPort die r.port).arrive die r.requests
  .next (s.putBw die { p with buckets := shares, pool := windowTokens - sumSnd shares }.draw)

/-- Worlds with nothing held or in flight give their buckets to the pool. -/
def BwPort.giveUp (p : BwPort) (inFlight : List Nat) : BwPort :=
  let idle := fun (b : Nat × Nat) => assocD p.held b.1 0 == 0 && !inFlight.contains b.1
  { p with
    buckets := p.buckets.map fun b => if idle b then (b.1, 0) else b
    pool := p.pool + sumSnd (p.buckets.filter idle) }

/-- Divides the pool among the worlds with requests held, by their shares; the remainder stays. -/
def BwPort.dividePool (p : BwPort) (shares : List (Nat × Nat)) : BwPort :=
  let waiting := shares.filter fun x => assocD p.held x.1 0 != 0
  let total := sumSnd waiting
  let grants := waiting.map fun x => (x.1, p.pool * x.2 / max total 1)
  { p with
    buckets := grants.foldl (fun b g => if g.2 == 0 then b else assocSet b g.1 (assocD b g.1 0 + g.2)) p.buckets
    pool := p.pool - sumSnd grants }

/-- Whether a cycle of a window is a boundary: a multiple of 128 within it. -/
def isBoundary (cycle : Nat) : Bool := cycle % 128 == 0 && decide (0 < cycle) && decide (cycle < 1024)

/-- BW_BOUNDARY: the requests of the interval that ends here spend or are held; then idle buckets move to the pool, the pool is
shared, and the held requests draw on what their worlds were granted. -/
def execBwBoundary (die port cycle : Nat) (requests : List (Nat × Nat × Nat)) (inFlight : List Nat) (s : State) : Out :=
  if isBoundary cycle then
    let p := (((s.bwPort die port).arrive die requests).giveUp inFlight).dividePool (s.sharesOn die)
    .next (s.putBw die p.draw)
  else .next s

end Sys2Proof.Machine
end

