-- ==== Sys2Proof/Machine/VectorFp.lean ====
section
/-! DEFINITION. Floating-point vector instructions (06 R128 to R134). -/

namespace Sys2Proof.Machine

/-- Two sources: `op` gives bits and flags for the format, the mode and the patterns. -/
def vecFp (x : VecForm) (alt : Bool) (rnd : Rnd) (op : Fmt → RMode → Nat → Nat → Nat × Nat) (t : Strand) : Nat → Nat × Nat :=
  let f := elemFmt t.ew alt
  let rm := t.mode rnd
  let a := t.elems x.a t.ew
  let b := t.second x
  fun i => op f rm (a i) (b i)

/-- One source. -/
def vecFpUn (i : Instr) (x : VecUn) (alt : Bool) (rnd : Rnd) (op : Fmt → RMode → Nat → Nat × Nat) (s : State) : Out :=
  gated i s fun s t =>
    let a := t.elems x.a t.ew
    s.complete (t.elementwise x.g x.d t.ew x.tp x.mp fun i => op (elemFmt t.ew alt) (t.mode rnd) (a i))

def execVfadd (x : VecForm) (alt : Bool) (rnd : Rnd) (s : State) : Out :=
  vecExec (.vfadd x alt rnd) x (vecFp x alt rnd Fmt.add) s
def execVfsub (x : VecForm) (alt : Bool) (rnd : Rnd) (s : State) : Out :=
  vecExec (.vfsub x alt rnd) x (vecFp x alt rnd Fmt.sub) s
def execVfmul (x : VecForm) (alt : Bool) (rnd : Rnd) (s : State) : Out :=
  vecExec (.vfmul x alt rnd) x (vecFp x alt rnd Fmt.mul) s
def execVfdiv (x : VecForm) (alt : Bool) (rnd : Rnd) (s : State) : Out :=
  vecExec (.vfdiv x alt rnd) x (vecFp x alt rnd Fmt.div) s
def execVfmin (x : VecForm) (alt : Bool) (s : State) : Out :=
  vecExec (.vfmin x alt) x (vecFp x alt .dyn fun f _ => f.minMax true) s
def execVfmax (x : VecForm) (alt : Bool) (s : State) : Out :=
  vecExec (.vfmax x alt) x (vecFp x alt .dyn fun f _ => f.minMax false) s
def execVfsgn (x : VecForm) (kind : SgnKind) (alt : Bool) (s : State) : Out :=
  vecExec (.vfsgn x kind alt) x (vecFp x alt .dyn fun f _ a b => (f.sgn kind a b, 0)) s

/-- VFMA's operation. -/
def vecFma (x : VecForm) (c : Nat) (kind : FmaKind) (alt : Bool) (rnd : Rnd) (t : Strand) : Nat → Nat × Nat :=
  let f := elemFmt t.ew alt
  let rm := t.mode rnd
  let a := t.elems x.a t.ew
  let b := t.second x
  let c := t.elems c t.ew
  fun i => f.fma rm kind (a i) (b i) (c i)

def execVfma (x : VecForm) (c : Nat) (kind : FmaKind) (alt : Bool) (rnd : Rnd) (s : State) : Out :=
  vecExec (.vfma x c kind alt rnd) x (vecFma x c kind alt rnd) s

def execVfsqrt (x : VecUn) (alt : Bool) (rnd : Rnd) (s : State) : Out :=
  vecFpUn (.vfsqrt x alt rnd) x alt rnd Fmt.sqrt s
def execVfexp2 (x : VecUn) (alt : Bool) (rnd : Rnd) (s : State) : Out :=
  vecFpUn (.vfexp2 x alt rnd) x alt rnd Fmt.exp2 s
def execVflog2 (x : VecUn) (alt : Bool) (rnd : Rnd) (s : State) : Out :=
  vecFpUn (.vflog2 x alt rnd) x alt rnd Fmt.log2 s
def execVfclass (x : VecUn) (alt : Bool) (s : State) : Out :=
  vecFpUn (.vfclass x alt) x alt .dyn (fun f _ a => (f.classify a, 0)) s

def execVfcmp (x : VecForm) (cond : FpCond) (alt : Bool) (s : State) : Out :=
  gated (.vfcmp x cond alt) s fun s t =>
    let f := elemFmt t.ew alt
    let a := t.elems x.a t.ew
    let b := t.second x
    s.complete (t.predwise x.g x.d x.tp x.mp fun i => f.compare cond (a i) (b i))

/-- VFCVT: the narrower type stands at EW (06 R131). -/
def execVfcvt (x : VecUn) (src dst : CvtType) (rnd : Rnd) (s : State) : Out :=
  gated (.vfcvt x src dst rnd) s fun s t =>
    let a := t.elems x.a (cvtWidth src)
    s.complete (t.elementwise x.g x.d (cvtWidth dst) x.tp x.mp fun i => convert src dst (t.mode rnd) t.sat (a i))

/-! ## VMXQ (06 R133) -/

/-- One block of 32 elements: its scale byte, element bytes and flags. -/
def mxqBlock (t : Strand) (g : Guard) (f src : Fmt) (rm : RMode) (a : Nat → Nat) (b : Nat) : Nat × List Nat × Nat :=
  quantiseMx f rm t.sat ((List.range 32).map fun j =>
    let i := 32 * b + j
    if t.active g i then some (src.read (a i)) else none)

/-- The low `n` bits of `old` replaced by `new_`. -/
def replaceLow (n old new_ : Nat) : Nat := old / 2 ^ n * 2 ^ n + new_ % 2 ^ n

/-- The strand after VMXQ: element bytes below VLMAX and scale bytes below the block count are written. -/
def mxq (t : Strand) (g : Guard) (d a c : Nat) (e5 alt : Bool) (rnd : Rnd) : Strand :=
  let src := elemFmt t.ew alt
  let blocks := (List.range (t.vlmax / 32)).map
    (mxqBlock t g (if e5 then fe5m2 else fe4m3) src (t.mode rnd) (t.elems a t.ew))
  let n := mxqGroup t
  let elems := joinElems 8 (blocks.flatMap fun b => b.2.1)
  let t1 := t.setGroup d n (replaceLow (8 * t.vlmax) (t.vgroup d n) elems)
  let t2 := t1.setGroup c 1 (replaceLow (8 * blocks.length) (t1.vgroup c 1) (joinElems 8 (blocks.map (·.1))))
  t2.orFlags (blocks.foldl (fun acc b => acc ||| b.2.2) 0)

def execVmxq (g : Guard) (d a c : Nat) (e5 alt : Bool) (rnd : Rnd) (s : State) : Out :=
  gated (.vmxq g d a c e5 alt rnd) s fun s t => s.complete (mxq t g d a c e5 alt rnd)

/-! ## VFREDSUM (06 R134; 02 R51) -/

/-- A result that is a NaN is the canonical one (02 R33). -/
def Fmt.canonical (f : Fmt) (a : Nat) : Nat := if (f.read a).isNan then f.nan else a

/-- The pairwise sum of the active elements, and the start value added last. A lone element meets no addition; a signalling
NaN raises NV all the same (02 R36). -/
def fredSum (x : RedForm) (alt : Bool) (rnd : Rnd) (t : Strand) : Nat × Nat :=
  let f := elemFmt t.ew alt
  let rm := t.mode rnd
  let e := t.elems x.a t.ew
  let identity := if rm == .rdn then 0 else f.signBit true
  let l := (List.range (min t.vl t.vlmax)).map fun i => if t.guardBit x.g i then e i else identity
  let (r, fl) := treeSum (f.add rm) identity l
  match t.startValue x with
  | none => (f.canonical r, fl ||| snan (f.read r))
  | some b => let (r', fl') := f.add rm r b; (r', fl ||| fl')

def execVfredsum (x : RedForm) (alt : Bool) (rnd : Rnd) (s : State) : Out :=
  gated (.vfredsum x alt rnd) s fun s t =>
    let (r, fl) := fredSum x alt rnd t
    s.complete ((t.setN x.d r).orFlags fl)

end Sys2Proof.Machine
end

