-- ==== Sys2Proof/Machine/Dispatch.lean ====
section
/-! DEFINITION. One arm for every instruction and event: each is one call of its meaning. -/

namespace Sys2Proof.Machine

/-- What one instruction or event does. -/
def exec (i : Instr) (s : State) : Host.Outcome State Fault Refusal :=
  match i with
  | .nop g => Sys2Proof.Machine.execNop g s
  | .br g hint off => Sys2Proof.Machine.execBr g hint off s
  | .brx g a hint => Sys2Proof.Machine.execBrx g a hint s
  | .call g d hint off => Sys2Proof.Machine.execCall g d hint off s
  | .callx g d a hint => Sys2Proof.Machine.execCallx g d a hint s
  | .ret g a hint => Sys2Proof.Machine.execRet g a hint s
  | .loop g a hint off => Sys2Proof.Machine.execLoop g a hint off s
  | .exit g => Sys2Proof.Machine.execExit g s
  | .yield g => Sys2Proof.Machine.execYield g s
  | .waitp g a => Sys2Proof.Machine.execWaitp g a s
  | .trap g imm => Sys2Proof.Machine.execTrap g imm s
  | .svc g imm => Sys2Proof.Machine.execSvc g imm s
  | .brk g imm => Sys2Proof.Machine.execBrk g imm s
  | .getsr g d srn => Sys2Proof.Machine.execGetsr g d srn s
  | .setsr g a srn => Sys2Proof.Machine.execSetsr g a srn s
  | .tret g a => Sys2Proof.Machine.execTret g a s
  | .tlbinv g a sel => Sys2Proof.Machine.execTlbinv g a sel s
  | .plateinv g a sel => Sys2Proof.Machine.execPlateinv g a sel s
  | .chkpt g a act => Sys2Proof.Machine.execChkpt g a act s
  | .energy g d sel => Sys2Proof.Machine.execEnergy g d sel s
  | .add x => Sys2Proof.Machine.execAdd x s
  | .sub x => Sys2Proof.Machine.execSub x s
  | .addi g d a w imm => Sys2Proof.Machine.execAddi g d a w imm s
  | .mul x => Sys2Proof.Machine.execMul x s
  | .mulh x => Sys2Proof.Machine.execMulh x s
  | .div x => Sys2Proof.Machine.execDiv x s
  | .rem x => Sys2Proof.Machine.execRem x s
  | .and x => Sys2Proof.Machine.execAnd x s
  | .or x => Sys2Proof.Machine.execOr x s
  | .xor x => Sys2Proof.Machine.execXor x s
  | .logi g d a op zx imm => Sys2Proof.Machine.execLogi g d a op zx imm s
  | .shl x => Sys2Proof.Machine.execShl x s
  | .shr x => Sys2Proof.Machine.execShr x s
  | .sra x => Sys2Proof.Machine.execSra x s
  | .shi g d a op w n => Sys2Proof.Machine.execShi g d a op w n s
  | .min x => Sys2Proof.Machine.execMin x s
  | .max x => Sys2Proof.Machine.execMax x s
  | .clz g d a w => Sys2Proof.Machine.execClz g d a w s
  | .popc g d a w => Sys2Proof.Machine.execPopc g d a w s
  | .ctz g d a w => Sys2Proof.Machine.execCtz g d a w s
  | .sel g d a b c pn => Sys2Proof.Machine.execSel g d a b c pn s
  | .movi g d zx imm => Sys2Proof.Machine.execMovi g d zx imm s
  | .movhi g d a imm => Sys2Proof.Machine.execMovhi g d a imm s
  | .extr g d a sx lo width => Sys2Proof.Machine.execExtr g d a sx lo width s
  | .insr g d a lo width => Sys2Proof.Machine.execInsr g d a lo width s
  | .cmp g d a b cond w comb => Sys2Proof.Machine.execCmp g d a b cond w comb s
  | .cmpi g d a cond w imm => Sys2Proof.Machine.execCmpi g d a cond w imm s
  | .addpc g d imm => Sys2Proof.Machine.execAddpc g d imm s
  | .fadd x => Sys2Proof.Machine.execFadd x s
  | .fsub x => Sys2Proof.Machine.execFsub x s
  | .fmul x => Sys2Proof.Machine.execFmul x s
  | .fma x c kind => Sys2Proof.Machine.execFma x c kind s
  | .fdiv x => Sys2Proof.Machine.execFdiv x s
  | .fsqrt g d a rnd fmt => Sys2Proof.Machine.execFsqrt g d a rnd fmt s
  | .fmin g d a b fmt => Sys2Proof.Machine.execFmin g d a b fmt s
  | .fmax g d a b fmt => Sys2Proof.Machine.execFmax g d a b fmt s
  | .fcmp g d a b fmt cond comb => Sys2Proof.Machine.execFcmp g d a b fmt cond comb s
  | .fcvt g d a src dst rnd => Sys2Proof.Machine.execFcvt g d a src dst rnd s
  | .fclass g d a fmt => Sys2Proof.Machine.execFclass g d a fmt s
  | .fsgn g d a b kind fmt => Sys2Proof.Machine.execFsgn g d a b kind fmt s
  | .plog g d a b op => Sys2Proof.Machine.execPlog g d a b op s
  | .pset g d a mode imm => Sys2Proof.Machine.execPset g d a mode imm s
  | .pmov g d a b kind => Sys2Proof.Machine.execPmov g d a b kind s
  | .pcount g d a range => Sys2Proof.Machine.execPcount g d a range s
  | .pfirst g d a last range => Sys2Proof.Machine.execPfirst g d a last range s
  | .ld x ord sx => Sys2Proof.Machine.execLd x ord sx s
  | .st x ord => Sys2Proof.Machine.execSt x ord s
  | .lda x scope => Sys2Proof.Machine.execLda x scope s
  | .strel x scope => Sys2Proof.Machine.execStrel x scope s
  | .atom x ord op => Sys2Proof.Machine.execAtom x ord op s
  | .cas x ord => Sys2Proof.Machine.execCas x ord s
  | .fence g kind scope mask => Sys2Proof.Machine.execFence g kind scope mask s
  | .sbar g mask => Sys2Proof.Machine.execSbar g mask s
  | .pref x => Sys2Proof.Machine.execPref x s
  | .pin x => Sys2Proof.Machine.execPin x s
  | .unpin x => Sys2Proof.Machine.execUnpin x s
  | .mcast x rel => Sys2Proof.Machine.execMcast x rel s
  | .vsetl g d a lg lew imm => Sys2Proof.Machine.execVsetl g d a lg lew imm s
  | .vld x => Sys2Proof.Machine.execVld x s
  | .vlds x => Sys2Proof.Machine.execVlds x s
  | .vldx x => Sys2Proof.Machine.execVldx x s
  | .vldff x => Sys2Proof.Machine.execVldff x s
  | .vst x => Sys2Proof.Machine.execVst x s
  | .vsts x => Sys2Proof.Machine.execVsts x s
  | .vstx x => Sys2Proof.Machine.execVstx x s
  | .vldb x => Sys2Proof.Machine.execVldb x s
  | .vadd x => Sys2Proof.Machine.execVadd x s
  | .vsub x => Sys2Proof.Machine.execVsub x s
  | .vmul x => Sys2Proof.Machine.execVmul x s
  | .vmulh x u => Sys2Proof.Machine.execVmulh x u s
  | .vmac x => Sys2Proof.Machine.execVmac x s
  | .vmin x u => Sys2Proof.Machine.execVmin x u s
  | .vmax x u => Sys2Proof.Machine.execVmax x u s
  | .vand x => Sys2Proof.Machine.execVand x s
  | .vor x => Sys2Proof.Machine.execVor x s
  | .vxor x => Sys2Proof.Machine.execVxor x s
  | .vshl x => Sys2Proof.Machine.execVshl x s
  | .vshr x => Sys2Proof.Machine.execVshr x s
  | .vsra x => Sys2Proof.Machine.execVsra x s
  | .vcmp x cond => Sys2Proof.Machine.execVcmp x cond s
  | .vmerge x c => Sys2Proof.Machine.execVmerge x c s
  | .vadds x u => Sys2Proof.Machine.execVadds x u s
  | .vsubs x u => Sys2Proof.Machine.execVsubs x u s
  | .vnarrow x kind => Sys2Proof.Machine.execVnarrow x kind s
  | .vwiden x sx => Sys2Proof.Machine.execVwiden x sx s
  | .vid g d tp mp => Sys2Proof.Machine.execVid g d tp mp s
  | .vdiv x u => Sys2Proof.Machine.execVdiv x u s
  | .vrem x u => Sys2Proof.Machine.execVrem x u s
  | .vfadd x alt rnd => Sys2Proof.Machine.execVfadd x alt rnd s
  | .vfsub x alt rnd => Sys2Proof.Machine.execVfsub x alt rnd s
  | .vfmul x alt rnd => Sys2Proof.Machine.execVfmul x alt rnd s
  | .vfma x c kind alt rnd => Sys2Proof.Machine.execVfma x c kind alt rnd s
  | .vfdiv x alt rnd => Sys2Proof.Machine.execVfdiv x alt rnd s
  | .vfsqrt x alt rnd => Sys2Proof.Machine.execVfsqrt x alt rnd s
  | .vfmin x alt => Sys2Proof.Machine.execVfmin x alt s
  | .vfmax x alt => Sys2Proof.Machine.execVfmax x alt s
  | .vfcmp x cond alt => Sys2Proof.Machine.execVfcmp x cond alt s
  | .vfcvt x src dst rnd => Sys2Proof.Machine.execVfcvt x src dst rnd s
  | .vfexp2 x alt rnd => Sys2Proof.Machine.execVfexp2 x alt rnd s
  | .vflog2 x alt rnd => Sys2Proof.Machine.execVflog2 x alt rnd s
  | .vfsgn x kind alt => Sys2Proof.Machine.execVfsgn x kind alt s
  | .vmxq g d a c e5 alt rnd => Sys2Proof.Machine.execVmxq g d a c e5 alt rnd s
  | .vfclass x alt => Sys2Proof.Machine.execVfclass x alt s
  | .vredsum x u => Sys2Proof.Machine.execVredsum x u s
  | .vfredsum x alt rnd => Sys2Proof.Machine.execVfredsum x alt rnd s
  | .vredmax x kind alt => Sys2Proof.Machine.execVredmax x kind alt s
  | .vredmin x kind alt => Sys2Proof.Machine.execVredmin x kind alt s
  | .vargmax g d a kind alt => Sys2Proof.Machine.execVargmax g d a kind alt s
  | .vslideup x b => Sys2Proof.Machine.execVslideup x b s
  | .vslidedn x b => Sys2Proof.Machine.execVslidedn x b s
  | .vperm x => Sys2Proof.Machine.execVperm x s
  | .vcompress d a c tp => Sys2Proof.Machine.execVcompress d a c tp s
  | .vbcast g d b tp mp => Sys2Proof.Machine.execVbcast g d b tp mp s
  | .vmvsv g d a b => Sys2Proof.Machine.execVmvsv g d a b s
  | .vmvvs g d a b sx => Sys2Proof.Machine.execVmvvs g d a b sx s
  | .viota x => Sys2Proof.Machine.execViota x s
  | .vmv x => Sys2Proof.Machine.execVmv x s
  | .tdset g d a f imm => Sys2Proof.Machine.execTdset g d a f imm s
  | .tdget g d a f => Sys2Proof.Machine.execTdget g d a f s
  | .kset g d a mode imm => Sys2Proof.Machine.execKset g d a mode imm s
  | .mzero g d a b int => Sys2Proof.Machine.execMzero g d a b int s
  | .mma x => Sys2Proof.Machine.execMma x s
  | .mmaq x qm => Sys2Proof.Machine.execMmaq x qm s
  | .maccld g d a => Sys2Proof.Machine.execMaccld g d a s
  | .maccst g d a relu fmt => Sys2Proof.Machine.execMaccst g d a relu fmt s
  | .maccv g d a b tp mp bf16 => Sys2Proof.Machine.execMaccv g d a b tp mp bf16 s
  | .mcode g a sp => Sys2Proof.Machine.execMcode g a sp s
  | .mwait g d a => Sys2Proof.Machine.execMwait g d a s
  | .mstat g d a st clr => Sys2Proof.Machine.execMstat g d a st clr s
  | .cpy x dsp ssp => Sys2Proof.Machine.execCpy x dsp ssp s
  | .cpym x k mode which => Sys2Proof.Machine.execCpym x k mode which s
  | .cgather x ssp => Sys2Proof.Machine.execCgather x ssp s
  | .cscatter x dsp => Sys2Proof.Machine.execCscatter x dsp s
  | .cmapwt x => Sys2Proof.Machine.execCmapwt x s
  | .cmaptst x d => Sys2Proof.Machine.execCmaptst x d s
  | .cmapclr x => Sys2Proof.Machine.execCmapclr x s
  | .cdrain g d path => Sys2Proof.Machine.execCdrain g d path s
  | .qfence g mask => Sys2Proof.Machine.execQfence g mask s
  | .cfill x dsp => Sys2Proof.Machine.execCfill x dsp s
  | .cstat g d clr => Sys2Proof.Machine.execCstat g d clr s
  | .deq g d c => Sys2Proof.Machine.execDeq g d c s
  | .deqt g d a c => Sys2Proof.Machine.execDeqt g d a c s
  | .enq g a => Sys2Proof.Machine.execEnq g a s
  | .chw g d a => Sys2Proof.Machine.execChw g d a s
  | .chws g d a b => Sys2Proof.Machine.execChws g d a b s
  | .commit g => Sys2Proof.Machine.execCommit g s
  | .abort g drop => Sys2Proof.Machine.execAbort g drop s
  | .widx g d a k => Sys2Proof.Machine.execWidx g d a k s
  | .bara g d c => Sys2Proof.Machine.execBara g d c s
  | .barw g a c => Sys2Proof.Machine.execBarw g a c s
  | .bari g a c => Sys2Proof.Machine.execBari g a c s
  | .sigwait x acq => Sys2Proof.Machine.execSigwait x acq s
  | .sigwake x => Sys2Proof.Machine.execSigwake x s
  | .chstat g d sel => Sys2Proof.Machine.execChstat g d sel s
  | .switch g a => Sys2Proof.Machine.execSwitch g a s
  | .spinit g a b c fin => Sys2Proof.Machine.execSpinit g a b c fin s
  | .spnext g d b c => Sys2Proof.Machine.execSpnext g d b c s
  | .spacc g d a c f32 => Sys2Proof.Machine.execSpacc g d a c f32 s
  | .spstat g d c sel => Sys2Proof.Machine.execSpstat g d c sel s
  | .sptol g a c par => Sys2Proof.Machine.execSptol g a c par s
  | .spstop g c => Sys2Proof.Machine.execSpstop g c s
  | .spwait g d a c => Sys2Proof.Machine.execSpwait g d a c s
  | .lease g d a b nw => Sys2Proof.Machine.execLease g d a b nw s
  | .unlease g d a b => Sys2Proof.Machine.execUnlease g d a b s
  | .leaseq g d a => Sys2Proof.Machine.execLeaseq g d a s
  | .podid g d a sel => Sys2Proof.Machine.execPodid g d a sel s
  | .cdec g d a b c p q => Sys2Proof.Machine.execCdec g d a b c p q s
  | .cenc g d a b c q => Sys2Proof.Machine.execCenc g d a b c q s
  | .usage g d a b => Sys2Proof.Machine.execUsage g d a b s
  | .sessinfo g d a sel => Sys2Proof.Machine.execSessinfo g d a sel s
  | .grchk g d a sp => Sys2Proof.Machine.execGrchk g d a sp s
  | .tpopRead die d => Sys2Proof.Machine.execTpopRead die d s
  | .bankRetentionEntry c bank => Sys2Proof.Machine.execBankRetentionEntry c bank s
  | .bankWake c bank => Sys2Proof.Machine.execBankWake c bank s
  | .strandUrgent slot => Sys2Proof.Machine.execStrandUrgent slot s
  | .waitpEnd slot => Sys2Proof.Machine.execWaitpEnd slot s
  | .strandEnd slot => Sys2Proof.Machine.execStrandEnd slot s
  | .channelPacketArrival slot q => Sys2Proof.Machine.execChannelPacketArrival slot q s
  | .firingReady inst => Sys2Proof.Machine.execFiringReady inst s
  | .channelDetach chan => Sys2Proof.Machine.execChannelDetach chan s
  | .switchTokenArrival inst input => Sys2Proof.Machine.execSwitchTokenArrival inst input s
  | .deqGrant slot => Sys2Proof.Machine.execDeqGrant slot s
  | .deqInputClosed slot => Sys2Proof.Machine.execDeqInputClosed slot s
  | .deqtTimeout slot => Sys2Proof.Machine.execDeqtTimeout slot s
  | .commitPublish slot => Sys2Proof.Machine.execCommitPublish slot s
  | .watchdogExpiry slot => Sys2Proof.Machine.execWatchdogExpiry slot s
  | .barwComplete slot => Sys2Proof.Machine.execBarwComplete slot s
  | .sigwaitWake slot => Sys2Proof.Machine.execSigwaitWake slot s
  | .sigwaitTimeout slot => Sys2Proof.Machine.execSigwaitTimeout slot s
  | .matrixOpBegin slot op => Sys2Proof.Machine.execMatrixOpBegin slot op s
  | .matrixOpComplete slot op => Sys2Proof.Machine.execMatrixOpComplete slot op s
  | .matrixSuspend slot op far => Sys2Proof.Machine.execMatrixSuspend slot op far s
  | .mmaqTeamStart slot op => Sys2Proof.Machine.execMmaqTeamStart slot op s
  | .mmaqTeamTimeout slot op => Sys2Proof.Machine.execMmaqTeamTimeout slot op s
  | .mwaitComplete slot => Sys2Proof.Machine.execMwaitComplete slot s
  | .copyBegin c q => Sys2Proof.Machine.execCopyBegin c q s
  | .copyChunkLanded c q chunk far => Sys2Proof.Machine.execCopyChunkLanded c q chunk far s
  | .copyComplete c q => Sys2Proof.Machine.execCopyComplete c q s
  | .copySuspend c q abandoned => Sys2Proof.Machine.execCopySuspend c q abandoned s
  | .copyFail c q far => Sys2Proof.Machine.execCopyFail c q far s
  | .cmapwtComplete slot => Sys2Proof.Machine.execCmapwtComplete slot s
  | .cdrainComplete slot => Sys2Proof.Machine.execCdrainComplete slot s
  | .qfenceJoinComplete c join => Sys2Proof.Machine.execQfenceJoinComplete c join s
  | .spinitArrive slot est => Sys2Proof.Machine.execSpinitArrive slot est s
  | .sptolArrive slot est => Sys2Proof.Machine.execSptolArrive slot est s
  | .spnextArrive slot => Sys2Proof.Machine.execSpnextArrive slot s
  | .spaccArrive slot est => Sys2Proof.Machine.execSpaccArrive slot est s
  | .spstatArrive slot => Sys2Proof.Machine.execSpstatArrive slot s
  | .spstopArrive slot est => Sys2Proof.Machine.execSpstopArrive slot est s
  | .stopBroadcastReceive launch est die => Sys2Proof.Machine.execStopBroadcastReceive launch est die s
  | .spwaitTimeout slot => Sys2Proof.Machine.execSpwaitTimeout slot s
  | .cdecService slot => Sys2Proof.Machine.execCdecService slot s
  | .cencService slot => Sys2Proof.Machine.execCencService slot s
  | .usageService slot => Sys2Proof.Machine.execUsageService slot s
  | .sessinfoService slot => Sys2Proof.Machine.execSessinfoService slot s
  | .sessionOpen slot world key fixed => Sys2Proof.Machine.execSessionOpen slot world key fixed s
  | .pendingKeyProgram slot key ok => Sys2Proof.Machine.execPendingKeyProgram slot key ok s
  | .replyBufferRegister slot va cap => Sys2Proof.Machine.execReplyBufferRegister slot va cap s
  | .sessionClose slot => Sys2Proof.Machine.execSessionClose slot s
  | .usageRecordRequest slot => Sys2Proof.Machine.execUsageRecordRequest slot s
  | .usageRecordCollect slot => Sys2Proof.Machine.execUsageRecordCollect slot s
  | .remoteAccessArrival r => Sys2Proof.Machine.execRemoteAccessArrival r s
  | .remoteReplyArrival slot src dst reqid status data => Sys2Proof.Machine.execRemoteReplyArrival slot src dst reqid status data s
  | .postedRefusalArrival slot reqid status => Sys2Proof.Machine.execPostedRefusalArrival slot reqid status s
  | .performArrival src reqid => Sys2Proof.Machine.execPerformArrival src reqid s
  | .checkpointComplete inst => Sys2Proof.Machine.execCheckpointComplete inst s
  | .killComplete inst => Sys2Proof.Machine.execKillComplete inst s
  | .drainComplete inst => Sys2Proof.Machine.execDrainComplete inst s
  | .stageResume inst => Sys2Proof.Machine.execStageResume inst s
  | .stageComplete inst => Sys2Proof.Machine.execStageComplete inst s
  | .dbgHaltSet c drain => Sys2Proof.Machine.execDbgHaltSet c drain s
  | .dbgHaltClear c => Sys2Proof.Machine.execDbgHaltClear c s
  | .dbgQuiet c => Sys2Proof.Machine.execDbgQuiet c s
  | .dbgStep c => Sys2Proof.Machine.execDbgStep c s
  | .dbgAttach c => Sys2Proof.Machine.execDbgAttach c s
  | .dbgDataRead c => Sys2Proof.Machine.execDbgDataRead c s
  | .dbgDataWrite c data => Sys2Proof.Machine.execDbgDataWrite c data s
  | .sqTailWrite q v => Sys2Proof.Machine.execSqTailWrite q v s
  | .cqHeadWrite q v => Sys2Proof.Machine.execCqHeadWrite q v s
  | .tlbcmdWrite va => Sys2Proof.Machine.execTlbcmdWrite va s
  | .hostcapWrite v => Sys2Proof.Machine.execHostcapWrite v s
  | .retrainwWrite port v => Sys2Proof.Machine.execRetrainwWrite port v s
  | .eqHeadWrite v => Sys2Proof.Machine.execEqHeadWrite v s
  | .eqOverflowClear => Sys2Proof.Machine.execEqOverflowClear s
  | .registerWrite off v => Sys2Proof.Machine.execRegisterWrite off v s
  | .hostMemRead pa len => Sys2Proof.Machine.execHostMemRead pa len s
  | .hostMemWrite pa data => Sys2Proof.Machine.execHostMemWrite pa data s
  | .queueSwitchIn q => Sys2Proof.Machine.execQueueSwitchIn q s
  | .queueIdleSwitchOut q => Sys2Proof.Machine.execQueueIdleSwitchOut q s
  | .queueFairSwitchOut q => Sys2Proof.Machine.execQueueFairSwitchOut q s
  | .launchArrival q arm => Sys2Proof.Machine.execLaunchArrival q arm s
  | .stageBind inst => Sys2Proof.Machine.execStageBind inst s
  | .launchComplete launch => Sys2Proof.Machine.execLaunchComplete launch s
  | .completionEntryWrite q => Sys2Proof.Machine.execCompletionEntryWrite q s
  | .overrunPreempt inst => Sys2Proof.Machine.execOverrunPreempt inst s
  | .reservoirRefill n => Sys2Proof.Machine.execReservoirRefill n s
  | .bwWindowStart die p => Sys2Proof.Machine.execBwWindowStart die p s
  | .bwBoundary die port cycle requests inFlight => Sys2Proof.Machine.execBwBoundary die port cycle requests inFlight s
  | .manifestDelivery m => Sys2Proof.Machine.execManifestDelivery m s
  | .podWorldRegister num world members => Sys2Proof.Machine.execPodWorldRegister num world members s
  | .mcastGroupRegister num group root members agree => Sys2Proof.Machine.execMcastGroupRegister num group root members agree s
  | .linkBringup port ok => Sys2Proof.Machine.execLinkBringup port ok s
  | .flitReceive port f => Sys2Proof.Machine.execFlitReceive port f s
  | .ackSend port stream => Sys2Proof.Machine.execAckSend port stream s
  | .nackSend port stream => Sys2Proof.Machine.execNackSend port stream s
  | .flitReplay port stream seq wave => Sys2Proof.Machine.execFlitReplay port stream seq wave s
  | .fecWindowEnd port wave corrected dir => Sys2Proof.Machine.execFecWindowEnd port wave corrected dir s
  | .trainingDone port wave side => Sys2Proof.Machine.execTrainingDone port wave side s
  | .trainingFail port wave dir => Sys2Proof.Machine.execTrainingFail port wave dir s
  | .lossOfLight far modl => Sys2Proof.Machine.execLossOfLight far modl s
  | .spareSwitchIn slot => Sys2Proof.Machine.execSpareSwitchIn slot s
  | .lightRestored far slot => Sys2Proof.Machine.execLightRestored far slot s
  | .linkKeyWarning port k => Sys2Proof.Machine.execLinkKeyWarning port k s
  | .linkKeySwitch port dir => Sys2Proof.Machine.execLinkKeySwitch port dir s
  | .linkDataStop port dir => Sys2Proof.Machine.execLinkDataStop port dir s
  | .leaseWavelengthFree port wave => Sys2Proof.Machine.execLeaseWavelengthFree port wave s
  | .leaseTermExpiry port world dst => Sys2Proof.Machine.execLeaseTermExpiry port world dst s
  | .leaseTermTake port => Sys2Proof.Machine.execLeaseTermTake port s
  | .leaseStarvationRevoke port => Sys2Proof.Machine.execLeaseStarvationRevoke port s
  | .unreachableDetect dst => Sys2Proof.Machine.execUnreachableDetect dst s
  | .powerGoodBoot b => Sys2Proof.Machine.execPowerGoodBoot b s
  | .runtimeRestart die => Sys2Proof.Machine.execRuntimeRestart die s
  | .quoteRequest world nonce => Sys2Proof.Machine.execQuoteRequest world nonce s
  | .packageLoad world addr gb size => Sys2Proof.Machine.execPackageLoad world addr gb size s
  | .packageUnload world handle => Sys2Proof.Machine.execPackageUnload world handle s
  | .worldCreate w => Sys2Proof.Machine.execWorldCreate w s
  | .worldTeardown world => Sys2Proof.Machine.execWorldTeardown world s
  | .uncorrectableError site => Sys2Proof.Machine.execUncorrectableError site s
  | .correctedErrorWindow die lanes => Sys2Proof.Machine.execCorrectedErrorWindow die lanes s
  | .thermalStep hottest => Sys2Proof.Machine.execThermalStep hottest s
  | .thermalShutdown hottest => Sys2Proof.Machine.execThermalShutdown hottest s
  | .eventReserveWrite => Sys2Proof.Machine.execEventReserveWrite s
  | .fetchFault slot => Sys2Proof.Machine.execFetchFault slot s
  | .powerOff => Sys2Proof.Machine.execPowerOff s

end Sys2Proof.Machine
end

