-- ==== Sys2Proof/Machine/Step.lean ====
section
/-! DEFINITION. One step of the machine: the first choice of the agenda, or an issue on the core of the focus when the agenda
is empty (log entry 2). -/

namespace Sys2Proof.Machine

/-- One local cycle of a core: the selected strand issues the instruction at its PC, if any strand can issue (16 R305). -/
def issueOn (s : State) (c : CoreId) (busy : List Nat) : Host.Outcome State Fault Refusal :=
  match s.selected c busy with
  | none => .next (s.passCycles c 1)
  | some t =>
    match (s.holdBack c busy).prepare t with
    | .settled s' => .next s'
    | .run i s' before => before.orStall t (exec i s')

/-- The state with no limit on the elements of an instruction. -/
def unlimited (o : Host.Outcome State Fault Refusal) : Host.Outcome State Fault Refusal :=
  match o with
  | .next s => .next { s with elemLimit := none }
  | o => o

/-- Carries out one choice. An instruction is no event: it runs only where it is fetched. -/
def choose (s : State) (c : Choice) : Host.Outcome State Fault Refusal :=
  match c with
  | .issue c busy => issueOn s c busy
  | .part c busy n => unlimited (issueOn { s with elemLimit := some n } c busy)
  | .event i => if isEvent i then exec i s else .next s
  | .unit slot op far => .next (s.unitStep slot op far)
  | .cycles c n => .next (s.passCycles c n)
  | .drop c va => .next (s.dropTranslation c va)
  | .barRead off => .next (s.barRead off)
  | .measurement block => .next (s.readBlock block)
  | .tdi t => .next { s with hallmark := { s.hallmark with tdi := t } }

/-- One step of the machine. -/
def step (s : State) : Host.Outcome State Fault Refusal :=
  match s.agenda with
  | [] => issueOn s (coreOf s.focus) []
  | c :: r => choose { s with agenda := r } c

/-- `s` with one instruction word placed where the next step fetches and issues it. Every instruction has one word of 64
bits. -/
def State.withFetchWord (s : State) (_nbits w : Nat) : State := s.placeWord w

end Sys2Proof.Machine
end

