-- ==== Sys2Proof/WellFormed.lean ====
section
/-! DEFINITION. Well-formed instructions: every field fits its bits and every combination that 03 R58 or an entry calls
ILLEGAL_ENC from the word alone is left out. These are exactly the instructions that have a word. Events are well-formed
when the names they carry exist on the device. -/

namespace Sys2Proof

/-- A guard names p0 to p15 (03 R55). -/
def Guard.wf (g : Guard) : Bool := g.reg < 16
/-- A register field of 6 bits (01 R14). -/
def reg6 (n : Nat) : Bool := n < 64
/-- A 32-bit immediate (03 R66). -/
def imm32 (n : Nat) : Bool := n < 2 ^ 32

def AluForm.wf (x : AluForm) (ok : Bool) : Bool := x.g.wf && reg6 x.d && reg6 x.a && reg6 x.b && ok
def FpForm.wf (x : FpForm) : Bool := x.g.wf && reg6 x.d && reg6 x.a && reg6 x.b
def VecForm.wf (x : VecForm) : Bool := x.g.wf && reg6 x.d && reg6 x.a && reg6 x.b
def VecUn.wf (x : VecUn) : Bool := x.g.wf && reg6 x.d && reg6 x.a
def RedForm.wf (x : RedForm) : Bool := x.g.wf && reg6 x.d && reg6 x.a && reg6 x.b && (x.xb || x.b == 0)

/-- The fields of Format L fit, and the index scale is zero in space D (03 R57, R58). -/
def MemForm.wf (x : MemForm) : Bool :=
  x.g.wf && reg6 x.d && reg6 x.a && reg6 x.b && x.m < 4 && x.xs < 4 && x.off < 2 ^ 17 && !(x.sp == .d && x.xs != 0)

/-- The size is 1 to 8 bytes. -/
def MemForm.small (x : MemForm) : Bool := x.sz != .qd && x.sz != .sec
/-- B is zero outside space D. -/
def MemForm.noIndex (x : MemForm) : Bool := x.xs == 0 && (x.b == 0 || x.sp == .d)
def MmaForm.wf (x : MmaForm) : Bool := x.g.wf && reg6 x.d && reg6 x.a && reg6 x.b && x.ka < 16 && x.kb < 16
def CopyForm.wf (x : CopyForm) : Bool :=
  x.g.wf && reg6 x.d && reg6 x.a && reg6 x.b && reg6 x.c && x.map < 64 && x.q < 4 && (!x.nm || x.map == 0)
def MapForm.wf (x : MapForm) : Bool := x.g.wf && reg6 x.a && reg6 x.b && x.map < 64

/-- lo and width of EXTR and INSR (04 R74). -/
def extrOk (lo width : Nat) : Bool := lo < 64 && 1 ≤ width && width ≤ 64 && lo + width ≤ 64

def SlotId.wf (s : SlotId) : Bool := s.die < 8 && s.core < 32 && s.slot < 16
def CoreId.wf (c : CoreId) : Bool := c.die < 8 && c.core < 32

/-- The well-formed instructions. -/
def Instr.wf : Instr → Bool
  | .nop g | .exit g | .yield g | .commit g => g.wf
  | .br g _ off => g.wf && imm32 off
  | .brx g a _ | .ret g a _ | .waitp g a | .tret g a | .enq g a | .switch g a => g.wf && reg6 a
  | .call g d _ off => g.wf && reg6 d && imm32 off
  | .callx g d a _ => g.wf && reg6 d && reg6 a
  | .loop g a _ off => g.wf && reg6 a && a != 0 && imm32 off
  | .trap g imm | .svc g imm | .brk g imm => g.wf && imm32 imm
  | .getsr g d srn => g.wf && reg6 d && srn < 4096
  | .setsr g a srn => g.wf && reg6 a && srn < 4096
  | .tlbinv g a sl | .plateinv g a sl => g.wf && reg6 a && sl < 3
  | .chkpt g a act => g.wf && reg6 a && act < 4
  | .energy g d sl => g.wf && reg6 d && sl < 3
  | .add x | .sub x => x.wf (!x.u || x.sat)
  | .mul x | .shl x | .shr x | .sra x => x.wf (!x.u && !x.sat)
  | .mulh x | .div x | .rem x | .min x | .max x => x.wf (!x.sat)
  | .and x | .or x | .xor x => x.wf (!x.w && !x.u && !x.sat)
  | .addi g d a _ imm | .logi g d a _ _ imm | .movhi g d a imm | .cmpi g d a _ _ imm | .tdset g d a _ imm =>
    g.wf && reg6 d && reg6 a && imm32 imm
  | .shi g d a _ w n => g.wf && reg6 d && reg6 a && n < (if w then 32 else 64)
  | .clz g d a _ | .popc g d a _ | .ctz g d a _ => g.wf && reg6 d && reg6 a
  | .sel g d a b c _ => g.wf && reg6 d && reg6 a && reg6 b && reg6 c
  | .movi g d _ imm | .addpc g d imm => g.wf && reg6 d && imm32 imm
  | .extr g d a _ lo width | .insr g d a lo width => g.wf && reg6 d && reg6 a && extrOk lo width
  | .cmp g d a b _ _ _ => g.wf && reg6 d && reg6 a && reg6 b
  | .fadd x | .fsub x | .fmul x | .fdiv x => x.wf
  | .fma x c _ => x.wf && reg6 c
  | .fsqrt g d a _ _ | .fclass g d a _ => g.wf && reg6 d && reg6 a
  | .fmin g d a b _ | .fmax g d a b _ | .fsgn g d a b _ _ | .plog g d a b _ => g.wf && reg6 d && reg6 a && reg6 b
  | .fcmp g d a b _ _ _ => g.wf && reg6 d && reg6 a && reg6 b
  | .fcvt g d a src dst _ => g.wf && reg6 d && reg6 a && src != dst
  | .pset g d a mode imm => g.wf && reg6 d && reg6 a && imm32 imm && (mode == .first || (a == 0 && imm == 0))
  | .pmov g d a b k => g.wf && reg6 d && reg6 a && reg6 b && (k != .pp || b == 0)
  | .pcount g d a _ | .pfirst g d a _ _ => g.wf && reg6 d && reg6 a
  | .ld x ord sx => x.wf && !(sx && !(x.sz == .b || x.sz == .h || x.sz == .w)) && ord != .rel
  | .st x ord => x.wf && ord != .acq
  | .lda x sc | .strel x sc => x.wf && x.small && !(x.sp == .d && sc != .pod)
  | .atom x _ _ => x.wf && x.small && x.noIndex
  | .cas x _ => x.wf && x.sz != .sec && x.noIndex
  | .fence g _ _ mask | .sbar g mask | .qfence g mask => g.wf && 0 < mask && mask < 16
  | .pref x | .unpin x => x.wf && (x.sp == .g || x.sp == .d) && x.sz == .b && x.d == 0
  | .pin x => x.wf && (x.sp == .g || x.sp == .d) && x.sz == .b
  | .mcast x _ => x.wf && (x.sp == .q || x.sp == .d) && x.xs == 0
  | .vsetl g d a lg lew imm => g.wf && reg6 d && reg6 a && lg < 4 && lew < 4 && imm32 imm && (a == 0 || imm == 0)
  | .vld x | .vst x | .vldb x => x.wf && x.small && x.noIndex
  | .vlds x | .vsts x | .vldff x => x.wf && x.small && x.xs == 0 && x.sp != .d
  | .vldx x | .vstx x => x.wf && x.small && x.sp != .d
  | .vadd x | .vsub x | .vmul x | .vmac x | .vand x | .vor x | .vxor x | .vshl x | .vshr x | .vsra x | .vperm x => x.wf
  | .vmulh x _ | .vmin x _ | .vmax x _ | .vadds x _ | .vsubs x _ | .vdiv x _ | .vrem x _ | .vcmp x _ => x.wf
  | .vmerge x c => x.wf && reg6 c
  | .vnarrow x _ | .vwiden x _ | .viota x | .vmv x | .vfclass x _ => x.wf
  | .vid g d _ _ => g.wf && reg6 d
  | .vfadd x _ _ | .vfsub x _ _ | .vfmul x _ _ | .vfdiv x _ _ | .vfmin x _ | .vfmax x _ | .vfcmp x _ _
  | .vfsgn x _ _ => x.wf
  | .vfma x c _ _ _ => x.wf && reg6 c
  | .vfsqrt x _ _ | .vfexp2 x _ _ | .vflog2 x _ _ => x.wf
  | .vfcvt x src dst _ => x.wf && src != dst
  | .vmxq g d a c _ _ _ => g.wf && reg6 d && reg6 a && reg6 c
  | .vredsum x _ | .vfredsum x _ _ => x.wf
  | .vredmax x k alt | .vredmin x k alt => x.wf && (!alt || k == .f)
  | .vargmax g d a k alt => g.wf && reg6 d && reg6 a && (!alt || k == .f)
  | .vslideup x b | .vslidedn x b => x.wf && reg6 b
  | .vcompress d a c _ => reg6 d && reg6 a && reg6 c
  | .vbcast g d b _ _ => g.wf && reg6 d && reg6 b
  | .vmvsv g d a b | .vmvvs g d a b _ => g.wf && reg6 d && reg6 a && reg6 b
  | .tdget g d a _ => g.wf && reg6 d && reg6 a
  | .kset g d a mode imm => g.wf && reg6 d && reg6 a && imm32 imm && !(mode == .uni && !(a == 0 && imm < 256))
  | .mzero g d a b _ | .maccv g d a b _ _ _ => g.wf && reg6 d && reg6 a && reg6 b
  | .mma x => x.wf
  | .mmaq x qm => x.wf && qm < 16
  | .maccld g d a | .mwait g d a => g.wf && reg6 d && reg6 a
  | .maccst g d a _ f => g.wf && reg6 d && reg6 a && f != .vq2x
  | .mcode g a sp => g.wf && reg6 a && sp != .d
  | .mstat g d a isSt clr => g.wf && reg6 d && reg6 a && (if isSt then a == 0 else !clr)
  | .cpy x dsp ssp => x.wf && !(dsp == .d && ssp == .d) && (x.c == 0 || dsp == .d || ssp == .d)
  | .cpym x k _ _ => x.wf && k < 16
  | .cgather x ssp => x.wf && ssp != .d
  | .cscatter x dsp => x.wf && dsp != .d
  | .cmapwt x | .cmapclr x => x.wf
  | .cmaptst x d => x.wf && reg6 d
  | .cdrain g d _ | .cstat g d _ => g.wf && reg6 d
  | .cfill x dsp => x.wf && (x.c == 0 || dsp == .d)
  | .deq g d c => g.wf && reg6 d && reg6 c
  | .deqt g d a c => g.wf && reg6 d && reg6 a && reg6 c
  | .chw g d a => g.wf && reg6 d && reg6 a
  | .chws g d a b => g.wf && reg6 d && reg6 a && reg6 b
  | .abort g _ => g.wf
  | .widx g d a k => g.wf && reg6 d && reg6 a && k < 32
  | .bara g d c => g.wf && reg6 d && c < 16
  | .barw g a c | .bari g a c => g.wf && reg6 a && c < 16
  | .sigwait x _ => x.wf && x.sp != .d && x.xs == 0 && (x.sz == .w || x.sz == .d)
  | .sigwake x => x.wf && x.sp != .d && x.xs == 0 && x.sz == .b && x.d == 0 && x.b == 0
  | .chstat g d sl => g.wf && reg6 d && (match sl with | .inp n => n < 64 | _ => true)
  | .spinit g a b c _ => g.wf && reg6 a && reg6 b && c < 4
  | .spnext g d b c => g.wf && reg6 d && reg6 b && c < 4
  | .spacc g d a c _ | .spwait g d a c => g.wf && reg6 d && reg6 a && c < 4
  | .spstat g d c _ => g.wf && reg6 d && c < 4
  | .sptol g a c _ => g.wf && reg6 a && c < 4
  | .spstop g c => g.wf && c < 4
  | .lease g d a b _ | .unlease g d a b | .usage g d a b => g.wf && reg6 d && reg6 a && reg6 b
  | .leaseq g d a => g.wf && reg6 d && reg6 a
  | .podid g d a sl => g.wf && reg6 d && reg6 a && sl < 4 && (sl == 1 || sl == 2 || a == 0)
  | .cdec g d a b c p q => g.wf && reg6 d && reg6 a && reg6 b && reg6 c && p < 16 && q < 4
  | .cenc g d a b c q => g.wf && reg6 d && reg6 a && reg6 b && reg6 c && q < 4
  | .sessinfo g d a sl => g.wf && reg6 d && reg6 a && sl < 4
  | .grchk g d a sp => g.wf && reg6 d && reg6 a && sp != .d
  -- events: the die, core, slot, port and table numbers exist
  | .tpopRead die d => die < 8 && reg6 d
  | .bankRetentionEntry c bank | .bankWake c bank => c.wf && bank < 8
  | .channelPacketArrival s q => s.wf && q < 16
  | .copyBegin c q | .copyComplete c q | .copySuspend c q _ | .copyFail c q _ => c.wf && q < 4
  | .copyChunkLanded c q _ _ => c.wf && q < 4
  | .qfenceJoinComplete c _ | .dbgHaltSet c _ | .dbgHaltClear c | .dbgQuiet c | .dbgStep c | .dbgAttach c
  | .dbgDataRead c | .dbgDataWrite c _ => c.wf
  | .strandUrgent s | .waitpEnd s | .strandEnd s | .deqGrant s | .deqInputClosed s | .deqtTimeout s | .commitPublish s
  | .watchdogExpiry s | .barwComplete s | .sigwaitWake s | .sigwaitTimeout s | .matrixOpBegin s _
  | .matrixOpComplete s _ | .matrixSuspend s _ _ | .mmaqTeamStart s _ | .mmaqTeamTimeout s _ | .mwaitComplete s
  | .cmapwtComplete s | .cdrainComplete s | .spnextArrive s
  | .spstatArrive s | .spwaitTimeout s | .cdecService s | .cencService s | .usageService s
  | .sessinfoService s | .remoteReplyArrival s _ _ _ _ _ | .postedRefusalArrival s _ _ | .fetchFault s => s.wf
  | .spinitArrive s e | .sptolArrive s e | .spaccArrive s e | .spstopArrive s e => s.wf && e < 4
  | .switchTokenArrival _ input => input < 16
  | .stopBroadcastReceive _ est die => est < 4 && die < 8
  | .sessionOpen slot _ _ _ | .pendingKeyProgram slot _ _ | .replyBufferRegister slot _ _ | .sessionClose slot
  | .usageRecordRequest slot | .usageRecordCollect slot => slot < 1024
  | .sqTailWrite q _ | .cqHeadWrite q _ | .queueSwitchIn q | .queueIdleSwitchOut q | .queueFairSwitchOut q
  | .launchArrival q _ | .completionEntryWrite q => q < 64
  | .bwWindowStart die p => die < 8 && p.port < 64
  | .bwBoundary die port _ _ _ => die < 8 && port < 64
  | .linkBringup port _ | .ackSend port _ | .nackSend port _ | .leaseTermTake port
  | .leaseStarvationRevoke port | .linkKeyWarning port _ | .linkKeySwitch port _ | .linkDataStop port _
  | .retrainwWrite port _ | .leaseTermExpiry port _ _ => port < 33
  | .flitReplay port _ _ w | .fecWindowEnd port w _ _ | .trainingDone port w _ | .trainingFail port w _
  | .leaseWavelengthFree port w => port < 33 && w < 128
  | .flitReceive port f => port < 33 && f.wave < 128
  | .lossOfLight far m => match far with | none => m < 18 | some p => p < 33 && m < 16
  | .lightRestored far slot => far.all (fun p => decide (p < 33)) && decide (slot < 16)
  | .spareSwitchIn slot => slot < 16
  | .runtimeRestart die | .correctedErrorWindow die _ => die < 8
  | .firingReady _ | .channelDetach _ | .remoteAccessArrival _ | .performArrival _ _ | .checkpointComplete _
  | .killComplete _ | .drainComplete _ | .stageResume _ | .stageComplete _ | .tlbcmdWrite _ | .hostcapWrite _
  | .eqHeadWrite _ | .eqOverflowClear | .registerWrite _ _ | .hostMemRead _ _ | .hostMemWrite _ _ | .stageBind _
  | .launchComplete _ | .overrunPreempt _ | .reservoirRefill _ | .manifestDelivery _ | .podWorldRegister _ _ _
  | .mcastGroupRegister _ _ _ _ _ | .unreachableDetect _ | .powerGoodBoot _ | .quoteRequest _ _ | .packageLoad _ _ _ _
  | .packageUnload _ _ | .worldCreate _ | .worldTeardown _ | .uncorrectableError _ | .thermalStep _
  | .thermalShutdown _ | .eventReserveWrite | .powerOff => true

end Sys2Proof
end

