-- ==== Sys2Proof/Safety.lean ====
section
/-! DEFINITION. The terms in which statements speak: outcomes that go on, an instruction that gets as far as its own effect, what
one step leaves alone, and the invariants of the state. -/

namespace Sys2Proof.Machine

/-! ## Outcomes -/

/-- The next state of an outcome, if it has one. -/
def nextOf : Out → Option State
  | .next s => some s
  | .fault _ => none
  | .refused _ => none

/-- A run goes on. -/
def Continues (o : Out) : Prop := ∃ s', o = .next s'

/-! ## An instruction that gets as far as its own effect (03 R61; 01 R15) -/

/-- The strand `t` at the focus passes steps 2 to 5 with `i`: the encoding holds for its registers, every register named exists,
a scalar guard is true and the privilege suffices. Its channel packets, if it reads any, have arrived, and `u` is the strand
with them taken. -/
structure Admits (i : Instr) (s : State) (t u : Strand) : Prop where
  here : s.strand? s.focus = some t
  enc : encOk i t = true
  regs : refsOk i t = true
  guard : elementGuarded i = true ∨ t.guardBit (guardOf i) 0 = true
  priv : privOk i t = true
  packets : takeAll s t (chanReads i t) = .ready u

/-- `i` runs at `s` with the next state `f` of the strand at the focus. -/
def Runs (i : Instr) (f : State → Strand → State) : Prop := ∀ s t u, Admits i s t u → exec i s = .next (f s u)

/-! ## Values in the spec's terms -/

/-- A two-source integer operation on words: W = 1 takes the low halves and sign-extends the 32-bit result (04 R70). -/
def aluWord (x : AluForm) (t : Strand) (f : (n : Nat) → BitVec n → BitVec n → BitVec n) : Word :=
  if x.w then (f 32 ((t.rs x.a).setWidth 32) ((t.rs x.b).setWidth 32)).signExtend 64 else f 64 (t.rs x.a) (t.rs x.b)

/-- A one-source integer operation that gives a count (04 R72). -/
def countWord (w : Bool) (t : Strand) (a : Nat) (f : (n : Nat) → BitVec n → Nat) : Nat :=
  if w then f 32 ((t.rs a).setWidth 32) else f 64 (t.rs a)

/-- A 32-bit immediate, sign-extended (03 R66). -/
def immWord (imm : Nat) : Word := (BitVec.ofNat 32 imm).signExtend 64

/-- Division of two patterns (02 R41). -/
def divWord (u : Bool) (n : Nat) (a b : BitVec n) : BitVec n :=
  if b = 0 then BitVec.allOnes n else if u then a / b else a.sdiv b

/-- Remainder of two patterns (02 R41). -/
def remWord (u : Bool) (n : Nat) (a b : BitVec n) : BitVec n := if b = 0 then a else if u then a % b else a.srem b

/-- A pattern as the number it stands for. -/
def valueOf (u : Bool) {n : Nat} (a : BitVec n) : Int := if u then (a.toNat : Int) else a.toInt

/-- The least and the greatest value of a width (02 R41). -/
def lowestOf (u : Bool) (n : Nat) : Int := if u then 0 else -(2 ^ (n - 1) : Nat)
def highestOf (u : Bool) (n : Nat) : Int := if u then (2 ^ n : Nat) - 1 else (2 ^ (n - 1) : Nat) - 1

/-- A sum or difference under SAT: the nearest value of the width (04 R71). -/
def saturated (u : Bool) (f : Int → Int → Int) (n : Nat) (a b : BitVec n) : BitVec n :=
  BitVec.ofInt n (max (lowestOf u n) (min (highestOf u n) (f (valueOf u a) (valueOf u b))))

/-- A condition on two words, or on their low halves when W = 1 (04 R75). -/
def condOf (c : IntCond) {n : Nat} (a b : BitVec n) : Bool :=
  match c with
  | .eq => a == b
  | .ne => a != b
  | .lt => a.slt b
  | .ge => b.sle a
  | .ltu => a.ult b
  | .geu => b.ule a
def condWord (c : IntCond) (w : Bool) (a b : Word) : Bool :=
  if w then condOf c (a.setWidth 32) (b.setWidth 32) else condOf c a b

/-- A floating-point instruction is done: sD takes the result, FPFLAGS the flags as well (04 R76). -/
def fpDone (t : Strand) (x : FpForm) (f : Fmt → RMode → Nat → Nat → Nat × Nat) : Strand :=
  let r := f (fpFmt x.fmt) (t.mode x.rnd) (t.rn x.a % 2 ^ (fpFmt x.fmt).width) (t.rn x.b % 2 ^ (fpFmt x.fmt).width)
  { t.setN x.d r.1 with regs := { (t.setN x.d r.1).regs with fpflags := t.regs.fpflags ||| BitVec.ofNat 64 r.2 } }

/-- A predicate operation on one position (04 R82). -/
def predBit (op : PredOp) (a b : Bool) : Bool :=
  match op with
  | .and => a && b
  | .or => a || b
  | .xor => a != b
  | .andn => a && !b
  | .orn => a || !b
  | .nand => !(a && b)
  | .nor => !(a || b)
  | .xnor => a == b

/-- Element `i` of the first and of the second source and of the destination, at EW (06 R112). -/
def laneA (x : VecForm) (t : Strand) (i : Nat) : BitVec t.ew := BitVec.ofNat t.ew (t.elems x.a t.ew i)
def laneB (x : VecForm) (t : Strand) (i : Nat) : BitVec t.ew :=
  if x.xb then (t.rs x.b).setWidth t.ew else BitVec.ofNat t.ew (t.elems x.b t.ew i)
def laneD (x : VecForm) (t : Strand) (i : Nat) : BitVec t.ew := BitVec.ofNat t.ew (t.elems x.d t.ew i)

/-- An integer element-wise instruction is done (06 R113, R123). -/
def lanesDone (x : VecForm) (t : Strand) (f : (n : Nat) → BitVec n → BitVec n → BitVec n) : Strand :=
  t.elementwise x.g x.d t.ew x.tp x.mp fun i => ((f t.ew (laneA x t i) (laneB x t i)).toNat, 0)

/-- A one-source element-wise instruction is done: `f` takes the position. -/
def unaryDone (x : VecUn) (t : Strand) (f : Nat → Nat) : Strand :=
  t.elementwise x.g x.d t.ew x.tp x.mp fun i => (f i, 0)

/-- A two-source floating-point element-wise instruction is done (06 R128). -/
def fpLanesDone (x : VecForm) (alt : Bool) (t : Strand) (f : Fmt → Nat → Nat → Nat × Nat) : Strand :=
  t.elementwise x.g x.d t.ew x.tp x.mp fun i =>
    f (elemFmt t.ew alt) (t.elems x.a t.ew i) (if x.xb then t.rn x.b % 2 ^ t.ew else t.elems x.b t.ew i)

/-- The values a reduction combines: the active elements, and the start value last (06 R134). -/
def reduced (x : RedForm) (t : Strand) : List Nat :=
  ((t.activeList x.g).map (t.elems x.a t.ew)) ++ (if x.xb then [t.rn x.b % 2 ^ t.ew] else [])

/-- A control transfer of strand `t`, which is `w` with its link or counter written: to an aligned target, or MISALIGN (03 R54). -/
def goTo (s : State) (t w : Strand) (target : Word) : State :=
  if target.toNat % 8 = 0 then s.putStrand { w with pc := target, kept := [], vprog := none, again := none }
  else s.trap t ⟨causeMisalign, target.toNat, 0⟩

/-- One message has left under the strand's next tag, and the strand waits for its reply (05 R93). -/
def sentWait (s : State) (t : Strand) (p : PodWorld) (dev : Nat) (kind : RemoteKind) (va n : Nat) (data : List Byte)
    (dest : ReplyDest) : State :=
  let tag := t.lastTag + 1
  ((s.usePath t.launch dev).send ⟨s.deviceId, dev, p.num, kind, va, n, tag, data.map BitVec.toNat⟩).putStrand
    { t with nextReq := t.nextReq + 1, again := none, wait := some (.remote tag dev [va] dest [tag] []) }

/-- The issue of `i` at `s` by strand `u` has entered one copy in its queue, uncommenced, and has completed (09 R177). -/
def CopyQueued (s : State) (u : Strand) (i : Instr) (x : CopyForm) (f : CopyOp → Prop) : Prop :=
  ∃ s' u' o, exec i s = .next s' ∧ (s'.core (coreOf u.at_)).copies = (s.core (coreOf u.at_)).copies ++ [o] ∧
    s'.strand? s.focus = some u' ∧ u'.pc = u.pc + 8 ∧ u'.regs = u.regs ∧ s'.mem = s.mem ∧ o.q = x.q ∧
    o.map = (if x.nm then none else some x.map) ∧ o.vpc = u.pc ∧ o.owner = u.at_ ∧ o.begun = false ∧ o.landed = [] ∧ f o

/-- Whether a landing map instruction names bit `k`: a range of bits, or set bits of one word of the map (09 R186). -/
def namesBit (x : MapForm) (t : Strand) (k : Nat) : Bool :=
  if x.wd then decide (64 * t.rn x.a ≤ k) && (t.rs x.b).getLsbD (k - 64 * t.rn x.a)
  else decide (t.rn x.a ≤ k) && decide (k < t.rn x.a + t.rn x.b)

/-- Whether the operands of a landing map instruction are in range (09 R186). -/
def mapInRange (x : MapForm) (t : Strand) : Prop :=
  if x.wd then t.rn x.a < 8 else t.rn x.a < 512 ∧ t.rn x.a + t.rn x.b ≤ 512

/-- Bit `k` of a landing map of the strand's core. -/
def mapBit (s : State) (t : Strand) (m k : Nat) : Bool := (((s.core (coreOf t.at_)).maps[m]?).getD 0).getLsbD k

/-- The strand `v` that waited at `i` has gone on behind its instruction in the next state of `o`, as `f` describes it. -/
def WaitEnds (o : Out) (i : SlotId) (v : Strand) (f : State → Strand → Prop) : Prop :=
  ∃ s' v', o = .next s' ∧ s'.strand? i = some v' ∧ v'.wait = none ∧ v'.pc = v.pc + 8 ∧ f s' v'

/-- The instruction of strand `u` has completed in the next state of `o`, as `f` describes it. -/
def Completes (o : Out) (u : Strand) (f : State → Strand → Prop) : Prop :=
  ∃ s' u', o = .next s' ∧ s'.strand? u.at_ = some u' ∧ u'.pc = u.pc + 8 ∧ f s' u'

/-- A predicate with the same bit at every position below VLMAX. -/
def predIs (t : Strand) (p : Nat) (b : Bool) : Prop := ∀ k, k < t.vlmax → t.pbit p k = b

/-! ## Traps (17 R309, R311, R312) -/

/-- From `s`, the strand `t` is parked in `s'` with a cause and an information word by its own instruction: its registers, its
item, its outstanding operations and its PC are kept, TVPC is its PC and RESUME is 1. A BRK of a strand of world 0
under ATTACH is held for the debugger; every other park tells the runtime through the park list. VOID is set. -/
def Parked (s s' : State) (t : Strand) (cause info : Nat) : Prop :=
  ∃ t' f, s'.strand? t.at_ = some t' ∧ t'.frame = some f ∧ t'.regs = t.regs ∧ t'.held = t.held ∧ t'.ops = t.ops ∧ t'.pc = t.pc ∧
    f.cause = cause ∧ f.vpc = t.pc ∧ f.addr = 0 ∧ f.info = BitVec.ofNat 64 info ∧ f.resume = 1 ∧
    (f.toDebugger = true ↔ cause = 0x0E ∧ t.world = 0 ∧ (s.core (coreOf t.at_)).dbg.attach = true) ∧
    (f.toDebugger = false → t.at_ ∈ (s'.die t.at_.die).park) ∧
    (f.toDebugger = true → t.at_ ∈ (s'.core (coreOf t.at_)).dbg.brkpend) ∧
    (∀ l, s'.launch? t.launch = some l → l.void = true) ∧ (∀ c, (s'.core c).copies = (s.core c).copies) ∧ s'.mem = s.mem

/-! ## What a step leaves alone -/

/-- Memory, its poison, its owners and every core's scratchpad, cells and maps are as before. -/
def SameMemory (s s' : State) : Prop :=
  s'.mem = s.mem ∧ s'.poison = s.poison ∧ s'.owners = s.owners ∧
    ∀ c, (s'.core c).spad = (s.core c).spad ∧ (s'.core c).cells = (s.core c).cells ∧ (s'.core c).maps = (s.core c).maps

/-- Every strand but the one at `i` keeps its registers, item and trap frame. -/
def OtherStrands (i : SlotId) (s s' : State) : Prop :=
  ∀ j, j ≠ i → ∀ t, s.strand? j = some t →
    ∃ t', s'.strand? j = some t' ∧ t'.regs = t.regs ∧ t'.held = t.held ∧ t'.frame = t.frame

/-! ## Invariants -/

/-- Every memory is in its canonical form: addresses rising, no zero byte listed. -/
def MemoryCanonical (s : State) : Prop := memWf s.mem = true ∧ ∀ c ∈ s.cores, memWf c.spad = true

/-- The power caps stay within 1 to 8 (16 R300; 20 R376). -/
def CapsLegal (s : State) : Prop :=
  1 ≤ s.hallmark.hostcap ∧ s.hallmark.hostcap ≤ 8 ∧ 1 ≤ s.hallmark.thermcap ∧ s.hallmark.thermcap ≤ 8

end Sys2Proof.Machine
end

