-- ==== Sys2Proof/Certificates/Slice0/Obligations.lean ====
section
/-! DEFINITION. The statements about the machine, each a proposition for the provers. -/

open Sys2Proof Sys2Proof.Machine

/-! ## Scalar integer instructions -/

/-- R70, R71: the two-source integer instructions write sD with the word operation and nothing else; with SAT, ADD and SUB give the nearest value of the width. -/
def Obligations.ScalarWordResults : Prop :=
  (
    ∀ x : AluForm, x.sat = false →
      Runs (.add x) (fun s u => s.complete (u.setS x.d (aluWord x u fun _ a b => a + b))) ∧
      Runs (.sub x) (fun s u => s.complete (u.setS x.d (aluWord x u fun _ a b => a - b))) ∧
      Runs (.mul x) (fun s u => s.complete (u.setS x.d (aluWord x u fun _ a b => a * b))) ∧
      Runs (.and x) (fun s u => s.complete (u.setS x.d (aluWord x u fun _ a b => a &&& b))) ∧
      Runs (.or x) (fun s u => s.complete (u.setS x.d (aluWord x u fun _ a b => a ||| b))) ∧
      Runs (.xor x) (fun s u => s.complete (u.setS x.d (aluWord x u fun _ a b => a ^^^ b))) ∧
      Runs (.shl x) (fun s u => s.complete (u.setS x.d (aluWord x u fun n a b => a <<< (b.toNat % n)))) ∧
      Runs (.shr x) (fun s u => s.complete (u.setS x.d (aluWord x u fun n a b => a >>> (b.toNat % n)))) ∧
      Runs (.sra x) (fun s u => s.complete (u.setS x.d (aluWord x u fun n a b => a.sshiftRight (b.toNat % n))))) ∧
  (
    ∀ x : AluForm, x.sat = true →
      Runs (.add x) (fun s u => s.complete (u.setS x.d (aluWord x u (saturated x.u fun a b => a + b)))) ∧
      Runs (.sub x) (fun s u => s.complete (u.setS x.d (aluWord x u (saturated x.u fun a b => a - b)))))

/-- R70, R71 and R41: MULH, DIV, REM, MIN and MAX by signedness, with the quotient and remainder by zero. -/
def Obligations.ScalarSignedResults : Prop :=
  ∀ x : AluForm, x.sat = false →
    Runs (.mulh x) (fun s u => s.complete (u.setS x.d (aluWord x u fun n a b =>
      BitVec.ofInt n (valueOf x.u a * valueOf x.u b / (2 ^ n : Nat))))) ∧
    Runs (.div x) (fun s u => s.complete (u.setS x.d (aluWord x u (divWord x.u)))) ∧
    Runs (.rem x) (fun s u => s.complete (u.setS x.d (aluWord x u (remWord x.u)))) ∧
    Runs (.min x) (fun s u => s.complete (u.setS x.d (aluWord x u fun _ a b =>
      if valueOf x.u b < valueOf x.u a then b else a))) ∧
    Runs (.max x) (fun s u => s.complete (u.setS x.d (aluWord x u fun _ a b =>
      if valueOf x.u a < valueOf x.u b then b else a)))

/-- R73, R74: the immediate, field and select forms, word by word; the words of SEL, and ILLEGAL_REG for its predicate beyond p15 and for a source that is not declared, whatever the predicate is. -/
def Obligations.ScalarImmediateResults : Prop :=
  (
    ∀ (g n : Nat) (d a b c : BitVec 6) (fn : BitVec 9) (low : BitVec 16) (s : State) (t : Strand), g < 16 → n < 2 →
      let word := (0x054#10 ++ BitVec.ofNat 4 g ++ BitVec.ofNat 1 n ++ d ++ a ++ b ++ c ++ fn ++ low).toNat
      let sel : Instr := .sel ⟨g, n == 1⟩ d.toNat a.toNat b.toNat c.toNat (fn == 1)
      (low = 0 → fn.toNat ≤ 1 → decode word = .instr sel) ∧ (¬ (low = 0 ∧ fn.toNat ≤ 1) → decode word = .illegalEnc) ∧
      (16 ≤ c.toNat → s.strand? s.focus = some t → exec sel s = .next (s.trap t ⟨0x03, 0, 0⟩)) ∧
      (t.decls.s ≤ a.toNat ∨ t.decls.s ≤ b.toNat → s.strand? s.focus = some t →
        exec sel s = .next (s.trap t ⟨0x03, 0, 0⟩))) ∧
  ∀ (g : Guard) (d a b c imm lo width n : Nat) (w zx pn : Bool), imm < 2 ^ 32 → n < (if w then 32 else 64) →
    0 < width → lo + width ≤ 64 →
    Runs (.addi g d a w imm) (fun s u => s.complete (u.setS d
      (if w then ((u.rs a + immWord imm).setWidth 32).signExtend 64 else u.rs a + immWord imm))) ∧
    Runs (.logi g d a .and zx imm) (fun s u => s.complete (u.setS d
      (u.rs a &&& (if zx then BitVec.ofNat 64 imm else immWord imm)))) ∧
    Runs (.logi g d a .or zx imm) (fun s u => s.complete (u.setS d
      (u.rs a ||| (if zx then BitVec.ofNat 64 imm else immWord imm)))) ∧
    Runs (.logi g d a .xor zx imm) (fun s u => s.complete (u.setS d
      (u.rs a ^^^ (if zx then BitVec.ofNat 64 imm else immWord imm)))) ∧
    Runs (.movi g d zx imm) (fun s u => s.complete (u.setS d (if zx then BitVec.ofNat 64 imm else immWord imm))) ∧
    Runs (.movhi g d a imm) (fun s u => s.complete (u.setS d (BitVec.ofNat 32 imm ++ (u.rs a).setWidth 32))) ∧
    Runs (.addpc g d imm) (fun s u => s.complete (u.setS d (u.pc + immWord imm))) ∧
    Runs (.sel g d a b c pn) (fun s u => s.complete (u.setS d (if u.pbit c 0 != pn then u.rs a else u.rs b))) ∧
    Runs (.extr g d a false lo width) (fun s u => s.complete (u.setS d
      (((u.rs a >>> lo).setWidth width).setWidth 64))) ∧
    Runs (.extr g d a true lo width) (fun s u => s.complete (u.setS d
      (((u.rs a >>> lo).setWidth width).signExtend 64))) ∧
    Runs (.insr g d a lo width) (fun s u => s.complete (u.setS d
      ((u.rs d &&& ~~~((BitVec.allOnes width).setWidth 64 <<< lo)) ||| (((u.rs a).setWidth width).setWidth 64 <<< lo)))) ∧
    Runs (.shi g d a .shl w n) (fun s u => s.complete (u.setS d
      (if w then ((u.rs a).setWidth 32 <<< n).signExtend 64 else u.rs a <<< n))) ∧
    Runs (.shi g d a .shr w n) (fun s u => s.complete (u.setS d
      (if w then ((u.rs a).setWidth 32 >>> n).signExtend 64 else u.rs a >>> n))) ∧
    Runs (.shi g d a .sra w n) (fun s u => s.complete (u.setS d
      (if w then (((u.rs a).setWidth 32).sshiftRight n).signExtend 64 else (u.rs a).sshiftRight n))) ∧
    Runs (.shi g d a .ror w n) (fun s u => s.complete (u.setS d
      (if w then (((u.rs a).setWidth 32).rotateRight n).signExtend 64 else (u.rs a).rotateRight n)))

/-- R72, R75: CLZ, CTZ and POPC count bits, and their words decode by their diagram; CMP and CMPI give every position below VLMAX the condition, combined with the old bit. -/
def Obligations.CountsAndCompares : Prop :=
  (
    ∀ (g : Guard) (d a : Nat) (w : Bool) (s : State) (t u : Strand),
      (Admits (.clz g d a w) s t u → ∃ k, exec (.clz g d a w) s = .next (s.complete (u.setS d (BitVec.ofNat 64 k))) ∧
        k ≤ opWidth w ∧ (∀ i, opWidth w - k ≤ i → i < opWidth w → (u.rs a).getLsbD i = false) ∧
        (k < opWidth w → (u.rs a).getLsbD (opWidth w - k - 1) = true)) ∧
      (Admits (.ctz g d a w) s t u → ∃ k, exec (.ctz g d a w) s = .next (s.complete (u.setS d (BitVec.ofNat 64 k))) ∧
        k ≤ opWidth w ∧ (∀ i, i < k → (u.rs a).getLsbD i = false) ∧ (k < opWidth w → (u.rs a).getLsbD k = true)) ∧
      (Admits (.popc g d a w) s t u → exec (.popc g d a w) s = .next (s.complete (u.setS d
        (BitVec.ofNat 64 ((List.range (opWidth w)).filter fun i => (u.rs a).getLsbD i).length))))) ∧
  (
    ∀ (g : BitVec 4) (n : BitVec 1) (d a b : BitVec 6) (c : BitVec 6) (fn : BitVec 9) (low : BitVec 16),
      let word := fun (op : BitVec 10) => (op ++ g ++ n ++ d ++ a ++ b ++ c ++ fn ++ low).toNat
      let guard : Guard := ⟨g.toNat, n == 1⟩
      (b = 0 → c = 0 → low = 0 → fn.toNat ≤ 1 →
        decode (word 0x051) = .instr (.clz guard d.toNat a.toNat (fn == 1)) ∧
        decode (word 0x052) = .instr (.popc guard d.toNat a.toNat (fn == 1)) ∧
        decode (word 0x053) = .instr (.ctz guard d.toNat a.toNat (fn == 1))) ∧
      (¬ (b = 0 ∧ c = 0 ∧ low = 0 ∧ fn.toNat ≤ 1) →
        decode (word 0x051) = .illegalEnc ∧ decode (word 0x052) = .illegalEnc ∧ decode (word 0x053) = .illegalEnc)) ∧
  (
    ∀ (g : Guard) (d a b imm : Nat) (c : IntCond) (w : Bool), imm < 2 ^ 32 →
      Runs (.cmp g d a b c w .set) (fun s u => s.complete (u.setP d (bitsOf u.vlmax fun _ => condWord c w (u.rs a) (u.rs b)))) ∧
      Runs (.cmp g d a b c w .and) (fun s u => s.complete (u.setP d (bitsOf u.vlmax fun i =>
        condWord c w (u.rs a) (u.rs b) && u.pbit d i))) ∧
      Runs (.cmp g d a b c w .or) (fun s u => s.complete (u.setP d (bitsOf u.vlmax fun i =>
        condWord c w (u.rs a) (u.rs b) || u.pbit d i))) ∧
      Runs (.cmpi g d a c w imm) (fun s u => s.complete (u.setP d (bitsOf u.vlmax fun _ =>
        condWord c w (u.rs a) (immWord imm)))))

/-! ## Scalar floating point and predicates -/

/-- R76 to R78: each arithmetic form writes its rounded result, zero above its width, and ORs its flags. -/
def Obligations.ScalarFloatResults : Prop :=
  ∀ (x : FpForm) (c : Nat) (kind : FmaKind),
    Runs (.fadd x) (fun s u => s.complete (fpDone u x (fun f m a b => f.finish m (exactAdd m (f.read a) (f.read b))))) ∧
    Runs (.fsub x) (fun s u => s.complete (fpDone u x (fun f m a b =>
      f.finish m (exactAdd m (f.read a) (f.read b).negate)))) ∧
    Runs (.fmul x) (fun s u => s.complete (fpDone u x (fun f m a b => f.finish m (exactMul (f.read a) (f.read b))))) ∧
    Runs (.fdiv x) (fun s u => s.complete (fpDone u x Fmt.div)) ∧
    Runs (.fma x c kind) (fun s u => s.complete (fpDone u x (fun f m a b => f.fma m kind a b (u.rf c f)))) ∧
    Runs (.fsqrt x.g x.d x.a x.rnd x.fmt) (fun s u => s.complete (fpDone u x (fun f m a _ => f.sqrt m a))) ∧
    Runs (.fmin x.g x.d x.a x.b x.fmt) (fun s u => s.complete (fpDone u x (fun f _ a b => f.minMax true a b))) ∧
    Runs (.fmax x.g x.d x.a x.b x.fmt) (fun s u => s.complete (fpDone u x (fun f _ a b => f.minMax false a b)))

/-- R78 to R81, R31, R36: comparisons, conversions, classes and signs; a NaN operand gives the canonical NaN, with NV for a signalling NaN and no other flag. -/
def Obligations.ScalarFloatOther : Prop :=
  (
    ∀ (g : Guard) (d a b : Nat) (fmt : FpFmt) (cond : FpCond) (comb : Comb) (src dst : CvtType) (rnd : Rnd) (kind : SgnKind),
      Runs (.fcmp g d a b fmt cond comb) (fun s u =>
        s.complete (({ u with regs := (u.writePred d ((fpFmt fmt).compare cond (u.rf a (fpFmt fmt)) (u.rf b (fpFmt fmt))).1
          comb).regs } : Strand).orFlags ((fpFmt fmt).compare cond (u.rf a (fpFmt fmt)) (u.rf b (fpFmt fmt))).2)) ∧
      Runs (.fcvt g d a src dst rnd) (fun s u =>
        let r := convert src dst (u.mode rnd) u.sat (u.rn a % 2 ^ cvtWidth src)
        s.complete ((u.setN d (match cvtFmt dst with | .inl _ => r.1 | .inr n => sext n r.1)).orFlags r.2)) ∧
      Runs (.fclass g d a fmt) (fun s u => s.complete (u.setN d ((fpFmt fmt).classify (u.rf a (fpFmt fmt))))) ∧
      Runs (.fsgn g d a b kind fmt) (fun s u =>
        s.complete (u.setN d ((fpFmt fmt).sgn kind (u.rf a (fpFmt fmt)) (u.rf b (fpFmt fmt)))))) ∧
  (
    ∀ (f : Fmt) (m : RMode) (a b : Nat), (f.read a).isNan = true ∨ (f.read b).isNan = true →
      (f.add m a b).1 = f.nan ∧ (f.mul m a b).1 = f.nan ∧ (f.div m a b).1 = f.nan ∧
      (f.add m a b).2 = snan (f.read a) ||| snan (f.read b) ∧ (f.mul m a b).2 = snan (f.read a) ||| snan (f.read b) ∧
      (f.div m a b).2 = snan (f.read a) ||| snan (f.read b))

/-- R82: predicate operations bit by bit, zero at VLMAX and above; PCOUNT counts the set positions below VL or VLMAX, and PFIRST gives the lowest or highest of them, or all ones. -/
def Obligations.PredicateResults : Prop :=
  (
    ∀ (g : Guard) (d a b imm : Nat), imm < 2 ^ 32 →
      (∀ op, Runs (.plog g d a b op) (fun s u => s.complete (u.setP d (bitsOf u.vlmax fun i =>
        predBit op (u.pbit a i) (u.pbit b i))))) ∧
      Runs (.pset g d a .all imm) (fun s u => s.complete (u.setP d (bitsOf u.vlmax fun _ => true))) ∧
      Runs (.pset g d a .none imm) (fun s u => s.complete (u.setP d (bitsOf u.vlmax fun _ => false))) ∧
      Runs (.pset g d a .first imm) (fun s u => s.complete (u.setP d (bitsOf u.vlmax fun (i : Nat) =>
        decide ((i : Int) < (u.rs a + immWord imm).toInt)))) ∧
      Runs (.pmov g d a b .pp) (fun s u => s.complete (u.setP d (bitsOf u.vlmax fun i => u.pbit a i))) ∧
      Runs (.pmov g d a b .sp) (fun s u => s.complete (u.setN d (bitsOf 64 fun i =>
        decide (64 * (u.rn b % 32) + i < u.vlmax) && u.pbit a (64 * (u.rn b % 32) + i)))) ∧
      Runs (.pmov g d a b .ps) (fun s u => s.complete (u.setP d (bitsOf u.vlmax fun i =>
        if i / 64 == u.rn b % 32 then (u.rs a).getLsbD (i % 64) else u.pbit d i)))) ∧
  (
    ∀ (g : Guard) (d a : Nat) (range last : Bool) (s : State) (t u : Strand),
      let n := if range then u.vlmax else u.vl
      (Admits (.pcount g d a range) s t u → exec (.pcount g d a range) s =
        .next (s.complete (u.setN d ((List.range n).filter fun i => u.pbit a i).length))) ∧
      (Admits (.pfirst g d a last range) s t u → ∃ k, exec (.pfirst g d a last range) s = .next (s.complete (u.setN d k)) ∧
        ((∀ i, i < n → u.pbit a i = false) → k = 2 ^ 64 - 1) ∧
        (∀ j, j < n → u.pbit a j = true →
          k < n ∧ u.pbit a k = true ∧ (last = false → k ≤ j) ∧ (last = true → j ≤ k))))

/-! ## Control -/

/-- R54, R83, R84: a branch, call or return goes to its target when that is a multiple of 8, with the link written; otherwise it
raises MISALIGN with the target in TADDR and nothing written. -/
def Obligations.BranchTargets : Prop :=
  ∀ (g : Guard) (h : Hint) (d a off : Nat), off < 2 ^ 32 →
    Runs (.nop g) (fun s u => s.complete u) ∧
    Runs (.br g h off) (fun s u => goTo s u u (u.pc + (immWord off <<< 3))) ∧
    Runs (.brx g a h) (fun s u => goTo s u u (u.rs a)) ∧
    Runs (.ret g a h) (fun s u => goTo s u u (u.rs a)) ∧
    Runs (.call g d h off) (fun s u => goTo s u (u.setS d (u.pc + 8)) (u.pc + (immWord off <<< 3))) ∧
    Runs (.callx g d a h) (fun s u => goTo s u (u.setS d (u.pc + 8)) (u.rs a)) ∧
    Runs (.loop g a h off) (fun s u =>
      if u.rs a - 1 = 0 then s.complete (u.setS a 0) else goTo s u (u.setS a (u.rs a - 1)) (u.pc + (immWord off <<< 3)))

/-- R85, R86, R87: YIELD makes the strand the youngest ready one; WAITP pauses for at most 2^20 local cycles and ends at
WAITP_END; EXIT gives a held item back and waits for the strand's engine work, and STRAND_END then empties the slot.
Model choices it rests on: log entry 20. -/
def Obligations.StrandControl : Prop :=
  ∀ (g : Guard) (a : Nat),
    Runs (.yield g) (fun s u => s.complete { u with readyAt := s.now u.at_ }) ∧
    Runs (.waitp g a) (fun s u => if u.rn a = 0 then s.complete u
      else s.putStrand { u with wait := some (.waitp (s.now u.at_ + min (u.rn a) (2 ^ 20))) }) ∧
    (∀ s t u, Admits (.exit g) s t u → u.refusals = [] →
      exec (.exit g) s = .next (let r := s.abortItem u false; r.1.putStrand { r.2 with wait := some .exit })) ∧
    (∀ s i t n, s.strand? i = some t → t.wait = some (.waitp n) → s.waitMoves t = true → n ≤ s.now i →
      exec (.waitpEnd i) s = .next (s.finishWait t)) ∧
    (∀ s i t, s.strand? i = some t → t.wait = some .exit → s.waitMoves t = true → t.pending = [] → s.hasWork t = false →
      ∃ s', exec (.strandEnd i) s = .next s' ∧ s'.strand? i = none ∧ s'.mem = s.mem ∧
        (∀ j, j ≠ i → s'.strand? j = s.strand? j) ∧ ∀ r ∈ (s'.core (coreOf i)).regions, r.ownedBy i = false)

/-- R88, R309 to R312: TRAP, SVC and BRK park their strand with the cause, its own PC and the immediate, RESUME 1, registers kept; a trap of the runtime strand is not delivered but stops it and marks its die. -/
def Obligations.DeliberateTraps : Prop :=
  (
    ∀ (g : BitVec 4) (n : BitVec 1) (d a : BitVec 6) (fn : BitVec 5) (imm : BitVec 32),
      let word := fun (op : BitVec 10) => (op ++ g ++ n ++ d ++ a ++ fn ++ imm).toNat
      let guard : Guard := ⟨g.toNat, n == 1⟩
      (d = 0 → a = 0 → fn = 0 → decode (word 0x00B) = .instr (.trap guard imm.toNat) ∧
        decode (word 0x00C) = .instr (.svc guard imm.toNat) ∧ decode (word 0x00D) = .instr (.brk guard imm.toNat)) ∧
      (¬ (d = 0 ∧ a = 0 ∧ fn = 0) → decode (word 0x00B) = .illegalEnc ∧ decode (word 0x00C) = .illegalEnc ∧
        decode (word 0x00D) = .illegalEnc)) ∧
  (
    ∀ (g : Guard) (imm : Nat) (s : State) (t u : Strand), imm < 2 ^ 32 → t.super = false →
      (Admits (.trap g imm) s t u → ∃ s', exec (.trap g imm) s = .next s' ∧ Parked s s' t 0x0C imm) ∧
      (Admits (.svc g imm) s t u → ∃ s', exec (.svc g imm) s = .next s' ∧ Parked s s' t 0x0D imm) ∧
      (Admits (.brk g imm) s t u → ∃ s', exec (.brk g imm) s = .next s' ∧ Parked s s' t 0x0E imm)) ∧
  (
    ∀ (s : State) (t : Strand) (x : Trap), t.super = true →
      (∃ t', (s.trap t x).strand? t.at_ = some t' ∧ t'.phase = .stopped ∧ t'.frame = t.frame ∧ t'.regs = t.regs) ∧
      ((s.trap t x).die t.at_.die).runtimeFault = true ∧ (s.trap t x).launches = s.launches)

/-- R314: TRET continues a parked strand of the runtime strand's die by its RESUME field: 0 issues the instruction at TVPC
again, 1 goes on behind it, 2 lets the wait there go on; the strand leaves the park list. Without a parked strand it raises
BOUNDS with TINFO 24. -/
def Obligations.ReturnFromTrap : Prop :=
  ∀ (g : Guard) (a : Nat) (s : State) (t u : Strand), Admits (.tret g a) s t u →
    let i : SlotId := ⟨u.at_.die, field (u.rn a) 8 5, field (u.rn a) 0 4⟩
    (∀ v f, i ≠ s.focus → s.strand? i = some v → v.frame = some f → v.pending = [] →
      ∃ s' v', exec (.tret g a) s = .next s' ∧ s'.strand? i = some v' ∧ v'.frame = none ∧ v'.regs = v.regs ∧
        v'.held = v.held ∧ v'.pc = (if f.resume = 1 then f.vpc + 8 else f.vpc) ∧
        v'.wait = (if f.resume ≤ 1 then none else v.wait) ∧ (∀ r ∈ (s'.die i.die).park, r ≠ i) ∧
        ∃ t', s'.strand? s.focus = some t' ∧ t'.pc = t.pc + 8 ∧ t'.regs = t.regs) ∧
    ((∀ v, s.strand? i = some v → v.frame = none) → exec (.tret g a) s = .next (s.trap u ⟨causeBounds, 0, 24⟩))

/-- R25 to R29, R311: GETSR of a user register, of FSEL and of the frame registers reads its value. SETSR of FPCTL, FPFLAGS and FSEL
writes the bits that exist; of the parked strand that FSEL names it writes TVPC when aligned, RESUME within its rules and the scalars;
a read-only register, or a frame register of a strand that is not parked, keeps its value; an undefined register raises ILLEGAL_REG and
a supervisor register at user level PRIV. -/
def Obligations.SystemRegisterAccess : Prop :=
  (
    ∀ (g : Guard) (d a : Nat),
      Runs (.getsr g d 0x000) (fun s u => s.complete (u.setS d u.regs.vl)) ∧
      Runs (.getsr g d 0x001) (fun s u => s.complete (u.setS d u.regs.vtype)) ∧
      Runs (.getsr g d 0x002) (fun s u => s.complete (u.setN d (2048 * u.grp / u.ew))) ∧
      Runs (.getsr g d 0x010) (fun s u => s.complete (u.setN d u.at_.slot)) ∧
      Runs (.getsr g d 0x011) (fun s u => s.complete (u.setN d u.at_.core)) ∧
      Runs (.getsr g d 0x012) (fun s u => s.complete (u.setN d (u.at_.core / 4))) ∧
      Runs (.getsr g d 0x013) (fun s u => s.complete (u.setN d u.at_.die)) ∧
      Runs (.getsr g d 0x014) (fun s u => s.complete (u.setN d s.deviceWord)) ∧
      Runs (.getsr g d 0x015) (fun s u => s.complete (u.setN d u.world)) ∧
      Runs (.getsr g d 0x018) (fun s u => s.complete (u.setS d u.workid)) ∧
      Runs (.getsr g d 0x020) (fun s u => s.complete (u.setS d (s.core (coreOf u.at_)).cycle)) ∧
      Runs (.getsr g d 0x040) (fun s u => s.complete (u.setS d u.regs.fpctl)) ∧
      Runs (.getsr g d 0x041) (fun s u => s.complete (u.setS d u.regs.fpflags)) ∧
      Runs (.getsr g d 0x100) (fun s u => s.complete (u.setS d (s.die u.at_.die).fsel)) ∧
      Runs (.setsr g a 0x040) (fun s u => s.complete
        (if 4 < (u.rs a).toNat % 8 then u else { u with regs := { u.regs with fpctl := u.rs a &&& 0xF } })) ∧
      Runs (.setsr g a 0x041) (fun s u => s.complete { u with regs := { u.regs with fpflags := u.rs a &&& 0x1F } }) ∧
      Runs (.setsr g a 0x100) (fun s u =>
        (s.putDie { s.die u.at_.die with fsel := u.rs a &&& 0x1F0F }).complete u)) ∧
  (
    ∀ (g : Guard) (d k : Nat) (s : State) (t u : Strand),
      let f := (s.die u.at_.die).fsel.toNat
      let i : SlotId := ⟨u.at_.die, field f 8 5, field f 0 4⟩
      (∀ v x, s.strand? i = some v → v.frame = some x → k < 64 →
        (Admits (.getsr g d 0x101) s t u → exec (.getsr g d 0x101) s = .next (s.complete (u.setN d x.cause))) ∧
        (Admits (.getsr g d 0x102) s t u → exec (.getsr g d 0x102) s = .next (s.complete (u.setS d x.vpc))) ∧
        (Admits (.getsr g d 0x103) s t u → exec (.getsr g d 0x103) s = .next (s.complete (u.setS d x.addr))) ∧
        (Admits (.getsr g d 0x104) s t u → exec (.getsr g d 0x104) s = .next (s.complete (u.setS d x.info))) ∧
        (Admits (.getsr g d 0x105) s t u → exec (.getsr g d 0x105) s = .next (s.complete (u.setN d
          (v.world * 2 ^ 56 + s.stageIndex v * 2 ^ 16 + x.resume)))) ∧
        (Admits (.getsr g d 0x10C) s t u → exec (.getsr g d 0x10C) s = .next (s.complete (u.setN d (match v.vprog with
          | some y => 2 ^ 63 + (if y.loaded then 2 ^ 16 else 0) + y.elem
          | none => 0)))) ∧
        (Admits (.getsr g d (0x140 + k)) s t u → exec (.getsr g d (0x140 + k)) s =
          .next ((s.touchScalar v k).complete (u.setS d (v.rs k))))) ∧
      ((∀ v, s.strand? i = some v → v.frame = none) → 0x101 ≤ k → k ≤ 0x105 →
        Admits (.getsr g d k) s t u → exec (.getsr g d k) s = .next (s.complete (u.setN d 0)))) ∧
  (
    ∀ (g : Guard) (a k : Nat) (s : State) (t u : Strand),
      let f := (s.die u.at_.die).fsel.toNat
      let i : SlotId := ⟨u.at_.die, field f 8 5, field f 0 4⟩
      (∀ v x, s.strand? i = some v → v.frame = some x →
        (Admits (.setsr g a 0x102) s t u → exec (.setsr g a 0x102) s = .next ((if u.rn a % 8 = 0 then
          s.putStrand { v with frame := some { x with vpc := u.rs a } } else s).complete u)) ∧
        (Admits (.setsr g a 0x105) s t u → exec (.setsr g a 0x105) s = .next ((if u.rn a % 4 = 3 ∨
          (u.rn a % 4 = 2 ∧ x.waited = false) then s else
            s.putStrand { v with frame := some { x with resume := u.rn a % 4 } }).complete u)) ∧
        (k < 64 → Admits (.setsr g a (0x140 + k)) s t u →
          exec (.setsr g a (0x140 + k)) s = .next ((s.putStrand (v.setS k (u.rs a))).complete u))) ∧
      ((∀ v, s.strand? i = some v → v.frame = none) → isFrameSr k = true → Admits (.setsr g a k) s t u →
        exec (.setsr g a k) s = .next (s.complete u)) ∧
      (k ∈ [0x000, 0x001, 0x002, 0x010, 0x011, 0x012, 0x013, 0x014, 0x015, 0x018, 0x020, 0x101, 0x103, 0x104, 0x108, 0x109, 0x10A,
          0x10B, 0x10C, 0x110, 0x120] → Admits (.setsr g a k) s t u → exec (.setsr g a k) s = .next (s.complete u)) ∧
      (srDefined k = false → Admits (.setsr g a k) s t u → exec (.setsr g a k) s = .next (s.trap u ⟨0x03, 0, 0⟩)) ∧
      (s.strand? s.focus = some t → t.super = false → 0x100 ≤ k → refsOk (.setsr g a k) t = true → t.guardBit g 0 = true →
        exec (.setsr g a k) s = .next (s.trap t ⟨0x04, 0, 0⟩)))

/-- R28, R312: a read of TPOP takes the oldest entry of the park list, gives VALID, core and slot, and writes FSEL, or gives 0; TPOP_READ is that GETSR, fetched and issued at the runtime strand's PC. -/
def Obligations.ParkListPop : Prop :=
  (
    ∀ (g : Guard) (d : Nat) (s : State) (t u : Strand), Admits (.getsr g d 0x110) s t u →
      ((s.die u.at_.die).park = [] → exec (.getsr g d 0x110) s = .next (s.complete (u.setN d 0))) ∧
      (∀ i r, (s.die u.at_.die).park = i :: r → i.core < 32 → i.slot < 16 →
        exec (.getsr g d 0x110) s = .next ((s.putDie { s.die u.at_.die with
          park := r, fsel := BitVec.ofNat 64 (i.core * 256 + i.slot) }).complete
            (u.setN d (2 ^ 63 + i.core * 256 + i.slot))))) ∧
  (
    ∀ (g : Guard) (die d : Nat) (s s1 : State) (t : Strand),
      s.strand? ⟨die, 0, 15⟩ = some t → t.super = true → s.canIssue t = true →
      fetchDecode s t = (s1, .instr (.getsr g d 0x110)) →
      exec (.tpopRead die d) s = exec (.getsr g d 0x110) (s1.markIssue t (.getsr g d 0x110)) ∧
      ∃ s', exec (.tpopRead die d) s = .next s')

/-- R301, R318, R319, R323: ENERGY, TLBINV and PLATEINV act and complete; CHKPT stops, drains or kills the named strand's stage or launch, and without one raises BOUNDS with TINFO 24.
Model choices it rests on: log entries 17 and 45. -/
def Obligations.SystemInstructions : Prop :=
  (
    ∀ (g : Guard) (d a : Nat) (s : State) (t u : Strand),
      (Admits (.energy g d 0) s t u → ∃ k, exec (.energy g d 0) s = .next (s.complete (u.setN d k)) ∧ k % 4096 = 0) ∧
      (Admits (.energy g d 1) s t u → ∃ s' t', exec (.energy g d 1) s = .next s' ∧ s'.strand? s.focus = some t' ∧
        t'.pc = t.pc + 8 ∧ s'.mem = s.mem) ∧
      (Admits (.energy g d 2) s t u → exec (.energy g d 2) s =
        .next (s.complete (u.setN d (min s.hallmark.hostcap s.hallmark.thermcap)))) ∧
      (Admits (.tlbinv g a 2) s t u → s.owesPkg u = false → ∃ s', exec (.tlbinv g a 2) s = .next s' ∧
        (∀ c ∈ s'.cores, c.tlb = []) ∧ (∀ x ∈ s'.dies, x.tlb = [] ∧ x.plate = []) ∧ s'.mem = s.mem) ∧
      (∀ sel, sel < 2 → Admits (.tlbinv g a sel) s t u → s.owesPkg u = false → ∃ s', exec (.tlbinv g a sel) s = .next s' ∧
        (∀ c ∈ s'.cores, ∀ e ∈ c.tlb, e.world = field (u.rn a) 56 8 →
          sel = 0 ∧ e.covers (field (u.rn a) 56 8) (field (u.rn a) 0 56) = false) ∧ s'.mem = s.mem) ∧
      (Admits (.plateinv g a 2) s t u → ∃ s', exec (.plateinv g a 2) s = .next s' ∧ ∀ x ∈ s'.dies, x.plate = []) ∧
      (Admits (.plateinv g a 1) s t u → ∃ s', exec (.plateinv g a 1) s = .next s' ∧
        ∀ x ∈ s'.dies, ∀ e ∈ x.plate, e.world ≠ field (u.rn a) 56 8) ∧
      (Admits (.plateinv g a 0) s t u → ∃ s', exec (.plateinv g a 0) s = .next s' ∧
        ∀ x ∈ s'.dies, ∀ e ∈ x.plate, e.world = field (u.rn a) 56 8 →
          e.vbase ≠ field (u.rn a) 0 56 / 4096 * 4096)) ∧
  (
    ∀ (g : Guard) (a : Nat) (s : State) (t u : Strand),
      let i : SlotId := ⟨u.at_.die, field (u.rn a) 8 5, field (u.rn a) 0 4⟩
      (∀ v st, s.strand? i = some v → v.super = false → s.stage? v.inst = some st → st.state = .running →
        (Admits (.chkpt g a 0) s t u → ∃ s' st', exec (.chkpt g a 0) s = .next s' ∧ s'.stage? v.inst = some st' ∧
          st'.state = .stoppingSave none ∧ st'.waiters = []) ∧
        (Admits (.chkpt g a 1) s t u → ∃ s' st', exec (.chkpt g a 1) s = .next s' ∧ s'.stage? v.inst = some st' ∧
          st'.state = .stoppingKill ∧ st'.waiters = []) ∧
        (Admits (.chkpt g a 2) s t u → ∃ s' st', exec (.chkpt g a 2) s = .next s' ∧ s'.stage? v.inst = some st' ∧
          st'.state = .stoppingDrain)) ∧
      (∀ v st l, s.strand? i = some v → v.super = false → s.stage? v.inst = some st → st.state = .running →
        s.launch? v.launch = some l → Admits (.chkpt g a 3) s t u → ∃ s' l', exec (.chkpt g a 3) s = .next s' ∧ s'.launch? v.launch = some l' ∧
          l'.killed = true ∧ l'.status = 0x48) ∧
      (s.strand? i = none → ∀ act, Admits (.chkpt g a act) s t u →
        exec (.chkpt g a act) s = .next (s.trap u ⟨causeBounds, 0, 24⟩)))

/-! ## Scalar memory -/

/-- R92, R98, R100, R101: LD and LDA in G, L and Q, once every check of R92 passes, write the register values of the bytes read,
the strand's own logged bytes among them. Model choices it rests on: log entry 4. -/
def Obligations.LoadResults : Prop :=
  ∀ (x : MemForm) (ord : Order) (sc : Scope) (sx : Bool) (s s1 : State) (t u : Strand) (ls : List Loc), x.sp ≠ .d →
    checkAccess s u.party checkLoad x.sp (ea x u) (szBytes x.sz) = (s1, .ok ls) → badLogged u ls = none →
    (Admits (.ld x ord sx) s t u → s.owesAccess u x ord = false → x.sz.code ≤ 3 →
      exec (.ld x ord sx) s = .next (s1.complete (u.setN x.d
        (if sx then sext (8 * szBytes x.sz) (leValue (ls.map (s1.byteAt u.logMem)))
         else leValue (ls.map (s1.byteAt u.logMem)))))) ∧
    (Admits (.ld x ord sx) s t u → s.owesAccess u x ord = false → 3 < x.sz.code →
      exec (.ld x ord sx) s = .next (s1.complete (u.setRun x.d ((List.range (szBytes x.sz / 8)).map fun i =>
        leValue (((ls.drop (8 * i)).take 8).map (s1.byteAt u.logMem)))))) ∧
    (Admits (.lda x sc) s t u → s.owesAccess u x .plain = false → x.sz.code ≤ 3 →
      exec (.lda x sc) s = .next (s1.complete (u.setN x.d (leValue (ls.map (s1.byteAt u.logMem))))))

/-- R93, R103, R104, R108, R348: a waiting access to another device leaves as one message under a fresh tag; its reply ends the wait and writes the registers, and a refusal raises REMOTE.
The waiting form itself, the message of a PIN (a probe that the target answers with the POLICY of its page) and the form of the reply
tag are the model's choices. Model choices it rests on: log entries 10, 20, 48 and 51. -/
def Obligations.RemoteWaits : Prop :=
  (
    ∀ (x : MemForm) (ord : Order) (sc : Scope) (sx : Bool) (op : AtomOp) (s : State) (t u : Strand) (p : PodWorld),
      x.sp = .d → s.unreachableTo (devOf x u) = false → s.owesAccess u x ord = false → u.again = none →
      (checkPod s u (devOf x u) (ea x u) (szBytes x.sz) = .ok p →
        (Admits (.ld x ord sx) s t u → exec (.ld x ord sx) s =
          .next (sentWait s u p (devOf x u) .read (ea x u) (szBytes x.sz) [] (.scalar x.d (szBytes x.sz) sx true))) ∧
        (Admits (.lda x sc) s t u → exec (.lda x sc) s =
          .next (sentWait s u p (devOf x u) .read (ea x u) (szBytes x.sz) [] (.scalar x.d (szBytes x.sz) false true)))) ∧
      (checkPod s u (devOf x u) (ea0 x u) (szBytes x.sz) = .ok p → ea0 x u % szBytes x.sz = 0 →
        (Admits (.atom x ord op) s t u → exec (.atom x ord op) s =
          .next (sentWait s u p (devOf x u) (.atomic op) (ea0 x u) (szBytes x.sz)
            (leBytes (szBytes x.sz) (u.rn x.d % 2 ^ (8 * szBytes x.sz))) (.scalar x.d (szBytes x.sz) false false))) ∧
        (Admits (.cas x ord) s t u → exec (.cas x ord) s =
          .next (sentWait s u p (devOf x u) .cas (ea0 x u) (szBytes x.sz)
            (leBytes (szBytes x.sz) (casOperands u x.d (szBytes x.sz)).1 ++
              leBytes (szBytes x.sz) (casOperands u x.d (szBytes x.sz)).2) (.scalar x.d (szBytes x.sz) false false)))) ∧
      (checkMember s u (devOf x u) (ea x u) 1 = .ok p → Admits (.pin x) s t u → exec (.pin x) s =
        .next (sentWait s u p (devOf x u) .probe (ea x u) 1 [] (.pin x.d)))) ∧
  (
    ∀ (i : SlotId) (dev va tag d n c : Nat) (sx own : Bool) (data : List Nat) (s : State) (t : Strand),
      let r : RemoteReply := ⟨dev, s.deviceId, tag, c, data⟩
      let s1 : State := { s with fabric := { s.fabric with repliesIn := s.fabric.repliesIn.erase r } }
      let bs := data.map (BitVec.ofNat 8)
      s.strand? i = some t → s.issuerOf tag = some t → t.refusedBy r = [] →
      (r ∉ s.fabric.repliesIn → exec (.remoteReplyArrival i dev s.deviceId tag c data) s = .next s) ∧
      (t.wait = some (.remote tag dev [va] (.scalar d n sx own) [tag] []) → r ∈ s.fabric.repliesIn →
        (c = 0 → exec (.remoteReplyArrival i dev s.deviceId tag c data) s =
          .next (s1.finishWait (t.setRun d (loadedRegs (if own then s1.readLogged t dev va bs else bs) sx)))) ∧
        (0 < c → c < 256 → exec (.remoteReplyArrival i dev s.deviceId tag c data) s =
          .next (s1.trap { t with wait := none } ⟨causeRemote, va, c⟩))) ∧
      (∀ other, other ≠ tag → t.wait = some (.remote other dev [va] (.scalar d n sx own) [other] []) → r ∈ s.fabric.repliesIn →
        exec (.remoteReplyArrival i dev s.deviceId tag c data) s = .next s1))

/-- R98, R100, R101, R199: ST and STREL in G, L and Q write the low bytes of their registers at the address they compute; ST under
an item writes G through the item's log alone, STREL never. Model choices it rests on: log entry 4. -/
def Obligations.StoreResults : Prop :=
  ∀ (x : MemForm) (ord : Order) (sc : Scope) (s s1 : State) (t u : Strand) (ls : List Loc), x.sp ≠ .d →
    checkAccess s u.party checkStore x.sp (ea x u) (szBytes x.sz) = (s1, .ok ls) →
    s.owesAccess u x ord = false → s.strelOwes u x.sp sc = false → u.refusals = [] →
    (Admits (.st x ord) s t u → (x.sp = .g → u.held = none) →
      exec (.st x ord) s = .next ((s1.storeAt ls (storedBytes u x.d (szBytes x.sz))).complete u)) ∧
    (∀ h, Admits (.st x ord) s t u → x.sp = .g → u.held = some h →
      (h.log.put ls (storedBytes u x.d (szBytes x.sz))).used ≤ 4096 →
      ∃ s' u', exec (.st x ord) s = .next s' ∧ s'.mem = s1.mem ∧ s'.strand? s.focus = some u' ∧ u'.pc = u.pc + 8 ∧
        u'.regs = u.regs ∧ ∃ h', u'.held = some h' ∧ h'.item = h.item ∧
          h'.log.mem = (h.log.put ls (storedBytes u x.d (szBytes x.sz))).mem) ∧
    (Admits (.strel x sc) s t u →
      exec (.strel x sc) s = .next ((s1.storeAt ls (storedBytes u x.d (szBytes x.sz))).complete u))

/-- R98, R316: a store in G outside an item changes only its checked places, and the registers stay; a hit and a walk that faults leave memory as it was, and a walk that finds a leaf sets ACCESSED, bit 2 of the second byte of that entry, and changes no other byte. -/
def Obligations.StoreFrame : Prop :=
  (
    ∀ (x : MemForm) (ord : Order) (s s1 s' : State) (t u : Strand) (ls : List Loc), x.sp = .g → u.held = none →
      Admits (.st x ord) s t u → s.owesAccess u x ord = false →
      checkAccess s u.party checkStore x.sp (ea x u) (szBytes x.sz) = (s1, .ok ls) → exec (.st x ord) s = .next s' →
      memWf s1.mem = true →
      (∀ pa, Loc.phys pa ∉ ls → memGet s'.mem pa = memGet s1.mem pa) ∧
      (∀ (k pa : Nat), ls[k]? = some (Loc.phys pa) → (∀ j : Nat, ls[j]? = some (Loc.phys pa) → j = k) →
        memGet s'.mem pa = ((storedBytes u x.d (szBytes x.sz))[k]?).getD 0) ∧
      ∃ t', s'.strand? s.focus = some t' ∧ t'.regs = t.regs ∧ t'.held = t.held ∧ t'.pc = t.pc + 8) ∧
  (
    ∀ (s : State) (c : CoreId) (world va : Nat), memWf s.mem = true →
      let s' := (translate s c world va).1
      let walk := walkFrom s world va 4 0 (s.root world)
      let hit := (∃ e ∈ (s.core c).tlb, e.covers world va = true) ∨ ∃ e ∈ (s.die c.die).tlb, e.covers world va = true
      (hit → s'.mem = s.mem) ∧ (∀ l r, walk = .fault l r → s'.mem = s.mem) ∧
      (∀ e a, ¬ hit → walk = .leaf e a → memGet s'.mem (a + 1) = memGet s.mem (a + 1) ||| 4 ∧
        ∀ pa, pa ≠ a + 1 → memGet s'.mem pa = memGet s.mem pa) ∧
      s'.poison = s.poison ∧ s'.owners = s.owners ∧ s'.strands = s.strands)

/-- R103, R104: ATOM and CAS read the old value, write the new one in the same step and give the old one; at an address that is not a multiple of their size they raise MISALIGN. -/
def Obligations.AtomicResults : Prop :=
  (
    ∀ (x : MemForm) (ord : Order) (op : AtomOp) (s s1 : State) (t u : Strand) (ls : List Loc), x.sp ≠ .d →
      ea0 x u % szBytes x.sz = 0 → s.owesAccess u x ord = false →
      checkAccess s u.party checkAtomic x.sp (ea0 x u) (szBytes x.sz) = (s1, .ok ls) →
      let n := szBytes x.sz
      let old := leValue (ls.map (s1.byteAt []))
      (Admits (.atom x ord op) s t u → exec (.atom x ord op) s =
        .next ((s1.storeAt ls (leBytes n (atomNew op (8 * n) old (u.rn x.d % 2 ^ (8 * n))))).complete
          (u.setN x.d old))) ∧
      (Admits (.cas x ord) s t u → x.sz.code ≤ 3 → exec (.cas x ord) s =
        .next ((if old = u.rn x.d % 2 ^ (8 * n) then
            s1.storeAt ls (leBytes n (u.rn (x.d + 1) % 2 ^ (8 * n))) else s1).complete
          (u.setN x.d old))) ∧
      (Admits (.cas x ord) s t u → x.sz = .qd → exec (.cas x ord) s =
        .next ((if old = u.rn x.d + u.rn (x.d + 1) * 2 ^ 64 then
            s1.storeAt ls (leBytes 16 (u.rn (x.d + 2) + u.rn (x.d + 3) * 2 ^ 64)) else s1).complete
          ((u.setN x.d old).setN (x.d + 1) (old / 2 ^ 64))))) ∧
  (
    ∀ (x : MemForm) (ord : Order) (op : AtomOp) (s : State) (t u : Strand),
      ea0 x u % szBytes x.sz ≠ 0 → s.owesAccess u x ord = false →
      (Admits (.atom x ord op) s t u → exec (.atom x ord op) s = .next (s.trap u ⟨0x05, ea0 x u, 0⟩)) ∧
      (Admits (.cas x ord) s t u → exec (.cas x ord) s = .next (s.trap u ⟨0x05, ea0 x u, 0⟩)))

/-- R93, R105, R106, R107, R108: FENCE raises the oldest pending refusal at pod scope and else completes, as SBAR and PREF do; PIN
pins a line that may be cached while the quota of its world has room and a way stays free, repeats a pin at no cost, and answers whether
the line is pinned; UNPIN releases it; neither changes memory. Which PIN takes the last unpinned way is a free value, and each die
holds the pins that it issued. Model choices it rests on: log entries 4, 14 and 52. -/
def Obligations.FencesAndPins : Prop :=
  ∀ (g : Guard) (kind : FenceKind) (sc : Scope) (mask : Nat) (x : MemForm) (s : State) (t u : Strand),
    (Admits (.fence g kind sc mask) s t u → (kind ≠ .acq → s.owesAt u sc mask = false) → (sc = .pod → u.refusals = []) →
      exec (.fence g kind sc mask) s = .next (s.complete u)) ∧
    (∀ va c r, Admits (.fence g kind .pod mask) s t u → (kind ≠ .acq → s.owesAt u .pod mask = false) → u.refusals = (va, c) :: r → c < 256 →
      exec (.fence g kind .pod mask) s = .next (s.trap { u with refusals := r } ⟨0x14, va, c⟩)) ∧
    (Admits (.sbar g mask) s t u → u.owesStores mask = false → exec (.sbar g mask) s = .next (s.complete u)) ∧
    (Admits (.pref x) s t u → exec (.pref x) s = .next (s.complete u)) ∧
    (∀ s1 s2 pa l q, Admits (.pin x) s t u → x.sp = .g →
      checkAccess s u.party checkProbe .g (ea x u) 1 = (s1, .ok [.phys pa]) →
      translate s1 (coreOf u.at_) u.world (ea x u) = (s2, .leaf l q) → ptePolicy l.pte = 1 →
      (∀ y ∈ (s2.die u.at_.die).pins, y.line ≠ pa / 64) →
      ∃ s' u', exec (.pin x) s = .next s' ∧ s'.strand? s.focus = some u' ∧ u'.pc = u.pc + 8 ∧ u'.pbit x.d 0 = false ∧
        s'.mem = s2.mem) ∧
    (∀ s1 s2 pa l q, Admits (.pin x) s t u → x.sp = .g →
      checkAccess s u.party checkProbe .g (ea x u) 1 = (s1, .ok [.phys pa]) →
      translate s1 (coreOf u.at_) u.world (ea x u) = (s2, .leaf l q) →
      (∃ y ∈ (s2.die u.at_.die).pins, y.line = pa / 64 ∧ y.world = u.world ∧ y.launch = u.launch) →
      ∃ s' u', exec (.pin x) s = .next s' ∧ s'.strand? s.focus = some u' ∧ u'.pc = u.pc + 8 ∧
        (∀ i, i < u.vlmax → u'.pbit x.d i = true) ∧ s'.mem = s2.mem) ∧
    (∀ s1 s2 pa l q, Admits (.pin x) s t u → x.sp = .g →
      checkAccess s u.party checkProbe .g (ea x u) 1 = (s1, .ok [.phys pa]) →
      translate s1 (coreOf u.at_) u.world (ea x u) = (s2, .leaf l q) → ptePolicy l.pte ≠ 1 →
      (∀ y ∈ (s2.die u.at_.die).pins, ¬ (y.line = pa / 64 ∧ y.world = u.world ∧ y.launch = u.launch)) →
      let lines := (s2.die u.at_.die).pinnedLines u.world
      let answers := fun (granted : Bool) => ∃ s' u', exec (.pin x) s = .next s' ∧ s'.strand? s.focus = some u' ∧
        u'.pc = u.pc + 8 ∧ predIs u' x.d granted ∧ s'.mem = s2.mem ∧ (s'.die u.at_.die).pins = (s2.die u.at_.die).pins ++
          if granted then [⟨pa / 64, u.world, u.launch, farLine u.at_.die pa⟩] else []
      (pa / 64 ∈ lines ∨ (lines.length < s2.pinQuota u.world ∧ Config.pinTakesLastWay s2.freeCount = false) → answers true) ∧
      (pa / 64 ∉ lines → s2.pinQuota u.world ≤ lines.length → answers false) ∧
      (pa / 64 ∉ lines → Config.pinTakesLastWay s2.freeCount = true → answers false)) ∧
    (Admits (.unpin x) s t u → x.sp = .d → ea x u < 2 ^ 56 →
      ∃ s', exec (.unpin x) s = .next s' ∧ s'.mem = s.mem ∧ ∀ y ∈ (s'.die u.at_.die).pins,
        ¬ (y.line = (s.lineAt u (devOf x u) (ea x u)).1 ∧ y.world = u.world ∧ y.launch = u.launch)) ∧
    (∀ s1 l q, Admits (.unpin x) s t u → x.sp = .g → ea x u < 2 ^ 56 →
      translate s (coreOf u.at_) u.world (ea x u) = (s1, .leaf l q) →
      ∃ s', exec (.unpin x) s = .next s' ∧ s'.mem = s1.mem ∧ ∀ y ∈ (s'.die u.at_.die).pins,
        ¬ (y.line = (l.pa + ea x u % l.size) / 64 ∧ y.world = u.world ∧ y.launch = u.launch))

/-- R93, R102, R109: ST and STREL in D post one message; ST is counted for its stream and waits where the count is full and open, STREL carries the count and restarts it; under an item ST is logged, one to this device itself by its places here. MCAST in Q stores to each core that the mask names; in D it waits for
the open stores to its members and goes as one message to the root of its group, and its parts are posted stores of the strand: that
message and that wait are the model's choices. Model choices it rests on: log entries 4, 10, 33, 48, 51 and 52. -/
def Obligations.RemoteStores : Prop :=
  (
    ∀ (x : MemForm) (ord : Order) (sc : Scope) (s : State) (t u : Strand) (p : PodWorld), x.sp = .d →
      checkPod s u (devOf x u) (ea x u) (szBytes x.sz) = .ok p → s.owesAccess u x ord = false → s.postedBy u = false →
      u.refusals = [] → s.unreachableTo (devOf x u) = false →
      let dev := devOf x u
      let bs := storedBytes u x.d (szBytes x.sz)
      let message : RemoteKind → RemoteAccess := fun k =>
        ⟨s.deviceId, dev, p.num, k, ea x u, bs.length, u.nextTag.tagIn x.m, toNats bs⟩
      let v := u.roomFor x.m dev 1
      (Admits (.st x ord) s t u → u.held = none → u.countRoom x.m dev 1 = true → exec (.st x ord) s =
        .next (((s.usePath u.launch dev).send (message .write)).complete
          ((v.nextTag.posting x.m dev (ea x u) none).countStore x.m dev))) ∧
      (Admits (.st x ord) s t u → u.held = none → u.countRoom x.m dev 1 = false →
        exec (.st x ord) s = .next (s.stall u .other)) ∧
      (∀ h, Admits (.st x ord) s t u → u.held = some h → s.fabric.member ≠ some dev →
        ({ h.log with sectors := addSectors h.log.sectors (podSectors dev (ea x u) bs.length) } : WriteLog).used ≤ 4096 →
        ∃ s' u' h', exec (.st x ord) s = .next s' ∧ s'.fabric = s.fabric ∧ s'.strand? s.focus = some u' ∧ u'.held = some h' ∧
          h'.log.pod = h.log.pod ++ [⟨dev, ea x u, bs⟩] ∧ u'.regs = u.regs ∧ u'.pc = u.pc + 8) ∧
      (∀ h s1 ls, Admits (.st x ord) s t u → u.held = some h → s.fabric.member = some dev →
        s.targetCheck u.world checkStore (ea x u) bs.length = (s1, .ok ls) → (h.log.put ls bs).used ≤ 4096 →
        ∃ s' u' h', exec (.st x ord) s = .next s' ∧ s'.mem = s1.mem ∧ s'.strand? s.focus = some u' ∧ u'.held = some h' ∧
          h'.log.mem = (h.log.put ls bs).mem ∧ h'.log.pod = h.log.pod ∧ u'.regs = u.regs ∧ u'.pc = u.pc + 8) ∧
      (Admits (.strel x sc) s t u → exec (.strel x sc) s =
        .next (((s.usePath u.launch dev).send (message (.release (u.countOf x.m dev)))).complete
          ((u.nextTag.posting x.m dev (ea x u) none).clearCount x.m dev))) ∧
      (v.countStore x.m dev).countOf x.m dev = (if u.countOf x.m dev < 65535 then u.countOf x.m dev + 1 else 1) ∧
      (u.clearCount x.m dev).countOf x.m dev = 0) ∧
  (
    ∀ (x : MemForm) (rel : Bool) (s : State) (t u : Strand), Admits (.mcast x rel) s t u →
      (rel = true → s.owesAt u (spaceScope x.sp) allStreams = false) →
      let bs := storedBytes u x.d (szBytes x.sz)
      let off := ea0 x u % 2 ^ 21
      let core := fun k : Nat => (⟨u.at_.die, u.at_.core / 4 * 4 + k⟩ : CoreId)
      (∀ s', x.sp = .q → s.mcastQuad u (u.rn x.b % 16) (ea0 x u) bs [0, 1, 2, 3] = (s', none) →
        exec (.mcast x rel) s = .next (s'.complete u) ∧
        ∀ k, k < 4 → (bitAt (u.rn x.b) k = false → (s'.core (core k)).spad = (s.core (core k)).spad) ∧
          (bitAt (u.rn x.b) k = true → memWf (s.core (core k)).spad = true → ∀ i, i < szBytes x.sz →
            memGet (s'.core (core k)).spad (off + i) = (bs[i]?).getD 0)) ∧
      (x.sp = .q → u.rn x.b % 16 = 0 → exec (.mcast x rel) s = .next (s.complete u)) ∧
      (∀ p ms root, x.sp = .d → u.held = none → outside56 (ea0 x u) bs.length = none → s.fabric.member.isSome = true →
        s.podWorldOf u.world = some p → s.groupMembers p (devOf x u) = some ms → s.groupRoot p (devOf x u) = some root →
        s.stoppedHop root = none →
        (ms.any u.owesTo = false → exec (.mcast x rel) s = .next (
          let r := s.postMcast (ms.foldl (fun t d => t.roomFor x.m d 1) u) p x.m (devOf x u) root (ea0 x u) bs ms
          r.1.complete r.2)) ∧
        (ms.any u.owesTo = true → exec (.mcast x rel) s = .next (s.stall u .other))))

/-! ## Vector instructions -/

/-- R12, R111, R113, R116: VSETL sets VTYPE, and VL and sD to the smaller of the request and VLMAX. In the element loop a tail or masked-off element is kept or zeroed by its policy and raises nothing, an active one takes its result; registers outside the group and of other kinds stay. -/
def Obligations.ElementLoop : Prop :=
  (
    ∀ (g : Guard) (d a lg lew imm : Nat) (s : State) (t u : Strand), lg < 4 → lew < 4 → imm < 2 ^ 32 →
      Admits (.vsetl g d a lg lew imm) s t u → ∃ u' : Strand, exec (.vsetl g d a lg lew imm) s = .next (s.complete u') ∧
        u'.regs.vtype = BitVec.ofNat 64 (lg * 4 + lew) ∧ u'.vlmax = 2048 * 2 ^ lg / (8 * 2 ^ lew) ∧
        u'.vl = min (if a = 0 then imm else u.rn a) u'.vlmax ∧ (d < 64 → d ≠ 0 → u'.rn d = u'.vl) ∧
        (∀ r, r ≠ d → u'.rn r = u.rn r) ∧ u'.regs.v = u.regs.v ∧ u'.regs.p = u.regs.p) ∧
  (
    ∀ (u : Strand) (g : Guard) (d w : Nat) (tp mp : Bool) (op : Nat → Nat × Nat), 0 < w → d + u.groupOf w ≤ 32 →
      w * u.vlmax = 2048 * u.groupOf w →
      let u' := u.elementwise g d w tp mp op
      let n := u.groupOf w
      (∀ i, i < u.vlmax → field (u'.vgroup d n) (w * i) w =
        if u.vl ≤ i then (if tp then 0 else field (u.vgroup d n) (w * i) w)
        else if u.guardBit g i = false then (if mp then 0 else field (u.vgroup d n) (w * i) w)
        else (op i).1 % 2 ^ w) ∧
      (∀ r : Nat, r < d ∨ d + n ≤ r → u'.regs.v[r]? = u.regs.v[r]?) ∧
      (∀ k, k < 64 → (u'.regs.fpflags.getLsbD k = true ↔ u.regs.fpflags.getLsbD k = true ∨
        ∃ i, i < u.vlmax ∧ i < u.vl ∧ u.guardBit g i = true ∧ bitAt (op i).2 k = true)) ∧
      u'.regs.s = u.regs.s ∧ u'.regs.p = u.regs.p ∧ u'.regs.vl = u.regs.vl ∧ u'.held = u.held ∧ u'.pc = u.pc)

/-- R123: the integer element-wise instructions, element by element at EW. -/
def Obligations.VectorIntegerResults : Prop :=
  ∀ (x : VecForm) (un : Bool),
    Runs (.vadd x) (fun s u => s.complete (lanesDone x u fun _ a b => a + b)) ∧
    Runs (.vsub x) (fun s u => s.complete (lanesDone x u fun _ a b => a - b)) ∧
    Runs (.vmul x) (fun s u => s.complete (lanesDone x u fun _ a b => a * b)) ∧
    Runs (.vmulh x un) (fun s u => s.complete (lanesDone x u fun n a b =>
      BitVec.ofInt n (valueOf un a * valueOf un b / (2 ^ n : Nat)))) ∧
    Runs (.vmin x un) (fun s u => s.complete (lanesDone x u fun _ a b => if valueOf un b < valueOf un a then b else a)) ∧
    Runs (.vmax x un) (fun s u => s.complete (lanesDone x u fun _ a b => if valueOf un a < valueOf un b then b else a)) ∧
    Runs (.vand x) (fun s u => s.complete (lanesDone x u fun _ a b => a &&& b)) ∧
    Runs (.vor x) (fun s u => s.complete (lanesDone x u fun _ a b => a ||| b)) ∧
    Runs (.vxor x) (fun s u => s.complete (lanesDone x u fun _ a b => a ^^^ b)) ∧
    Runs (.vshl x) (fun s u => s.complete (lanesDone x u fun n a b => a <<< (b.toNat % n))) ∧
    Runs (.vshr x) (fun s u => s.complete (lanesDone x u fun n a b => a >>> (b.toNat % n))) ∧
    Runs (.vsra x) (fun s u => s.complete (lanesDone x u fun n a b => a.sshiftRight (b.toNat % n))) ∧
    Runs (.vadds x un) (fun s u => s.complete (lanesDone x u (saturated un fun a b => a + b))) ∧
    Runs (.vsubs x un) (fun s u => s.complete (lanesDone x u (saturated un fun a b => a - b))) ∧
    Runs (.vdiv x un) (fun s u => s.complete (lanesDone x u (divWord un))) ∧
    Runs (.vrem x un) (fun s u => s.complete (lanesDone x u (remWord un))) ∧
    Runs (.vmac x) (fun s u => s.complete (u.elementwise x.g x.d u.ew x.tp x.mp fun i =>
      ((laneD x u i + laneA x u i * laneB x u i).toNat, 0)))

/-- R124 to R127, R136 to R140: comparisons, merges, width changes, permutes and moves, element by element. -/
def Obligations.VectorMoves : Prop :=
  ∀ (x : VecForm) (y : VecUn) (g : Guard) (c d a b : Nat) (cond : IntCond) (sx tp mp : Bool),
    Runs (.vcmp x cond) (fun s u => s.complete (u.predwise x.g x.d x.tp x.mp fun i =>
      (condOf cond (laneA x u i) (laneB x u i), 0))) ∧
    Runs (.vmerge x c) (fun s u => s.complete (u.elementwise x.g x.d u.ew x.tp x.mp fun i =>
      ((if u.pbit c i then laneA x u i else laneB x u i).toNat, 0))) ∧
    Runs (.vnarrow y .trunc) (fun s u => s.complete (unaryDone y u fun i => u.elems y.a (2 * u.ew) i % 2 ^ u.ew)) ∧
    Runs (.vnarrow y .ssat) (fun s u => s.complete (unaryDone y u fun i =>
      (BitVec.ofInt u.ew (max (lowestOf false u.ew) (min (highestOf false u.ew)
        (BitVec.ofNat (2 * u.ew) (u.elems y.a (2 * u.ew) i)).toInt))).toNat)) ∧
    Runs (.vnarrow y .usat) (fun s u => s.complete (unaryDone y u fun i =>
      (BitVec.ofInt u.ew (max 0 (min (highestOf true u.ew)
        (BitVec.ofNat (2 * u.ew) (u.elems y.a (2 * u.ew) i)).toInt))).toNat)) ∧
    Runs (.vwiden y sx) (fun s u => s.complete (u.elementwise y.g y.d (2 * u.ew) y.tp y.mp fun i =>
      let e := BitVec.ofNat u.ew (u.elems y.a u.ew i)
      ((if sx then e.signExtend (2 * u.ew) else e.setWidth (2 * u.ew)).toNat, 0))) ∧
    Runs (.vid g d tp mp) (fun s u => s.complete (u.elementwise g d u.ew tp mp fun i => (i, 0))) ∧
    Runs (.vslideup y b) (fun s u => s.complete (unaryDone y u fun i =>
      if i < (u.rs b).toNat then u.elems y.d u.ew i else u.elems y.a u.ew (i - (u.rs b).toNat))) ∧
    Runs (.vslidedn y b) (fun s u => s.complete (unaryDone y u fun i =>
      if i + (u.rs b).toNat < u.vlmax then u.elems y.a u.ew (i + (u.rs b).toNat) else 0)) ∧
    Runs (.vperm x) (fun s u => s.complete (u.elementwise x.g x.d u.ew x.tp x.mp fun i =>
      let k := if x.xb then (u.rs x.b).toNat else u.elems x.b u.ew i
      (if k < u.vlmax then u.elems x.a u.ew k else 0, 0))) ∧
    Runs (.vcompress d a c tp) (fun s u =>
      let picked := (List.range u.vlmax).filter fun i => decide (i < u.vl) && u.pbit c i
      s.complete (u.setGroup d u.grp (joinElems u.ew ((List.range u.vlmax).map fun i =>
        match picked[i]? with
        | some j => u.elems a u.ew j
        | none => if tp then 0 else u.elems d u.ew i)))) ∧
    Runs (.vbcast g d b tp mp) (fun s u => s.complete (u.elementwise g d u.ew tp mp fun _ => ((u.rs b).toNat, 0))) ∧
    Runs (.vmvsv g d a b) (fun s u => s.complete (u.elementwise g d u.ew false false fun i =>
      (if i = (u.rs a).toNat then (u.rs b).toNat else u.elems d u.ew i, 0))) ∧
    Runs (.vmvvs g d a b sx) (fun s u => s.complete (u.setS d (if (u.rs b).toNat < u.vlmax then
      let e := BitVec.ofNat u.ew (u.elems a u.ew (u.rs b).toNat)
      if sx then e.signExtend 64 else e.setWidth 64 else 0))) ∧
    Runs (.viota y) (fun s u => s.complete (unaryDone y u fun i =>
      ((List.range i).filter fun j => decide (j < u.vl) && u.pbit y.a j).length)) ∧
    Runs (.vmv y) (fun s u => s.complete (unaryDone y u (u.elems y.a u.ew)))

/-- R133 to R135, R43, R51, R52: sums, extremes and VARGMAX over the active elements, on integers and floating point, and the pairwise tree of VFREDSUM; the element bytes and
scale bytes that VMXQ writes, what it leaves alone, and the scale and elements of one block.
Model choices it rests on: log entry 43. -/
def Obligations.VectorReductions : Prop :=
  (
    ∀ (x : RedForm) (g : Guard) (d a : Nat) (un : Bool) (s : State) (t u : Strand),
      let kind : ElemKind := if un then .u else .s
      let val := fun v : Nat => valueOf un (BitVec.ofNat u.ew v)
      let out := fun v : Nat => if un then BitVec.ofNat 64 (v % 2 ^ u.ew) else (BitVec.ofNat u.ew v).signExtend 64
      (Admits (.vredsum x un) s t u →
        exec (.vredsum x un) s = .next (s.complete (u.setS x.d (out ((reduced x u).foldl (· + ·) 0))))) ∧
      (Admits (.vredmax x kind false) s t u → ∃ v, exec (.vredmax x kind false) s = .next (s.complete (u.setS x.d (out v))) ∧
        (reduced x u = [] → val v = lowestOf un u.ew) ∧
        (reduced x u ≠ [] → v ∈ reduced x u ∧ ∀ y ∈ reduced x u, val y ≤ val v)) ∧
      (Admits (.vredmin x kind false) s t u → ∃ v, exec (.vredmin x kind false) s = .next (s.complete (u.setS x.d (out v))) ∧
        (reduced x u = [] → val v = highestOf un u.ew) ∧
        (reduced x u ≠ [] → v ∈ reduced x u ∧ ∀ y ∈ reduced x u, val v ≤ val y)) ∧
      (Admits (.vargmax g d a kind false) s t u → ∃ j, exec (.vargmax g d a kind false) s = .next (s.complete (u.setN d j)) ∧
        (u.activeList g = [] → j = 2 ^ 64 - 1) ∧
        (u.activeList g ≠ [] → j ∈ u.activeList g ∧ ∀ i ∈ u.activeList g,
          val (u.elems a u.ew i) ≤ val (u.elems a u.ew j) ∧ (i < j → val (u.elems a u.ew i) < val (u.elems a u.ew j))))) ∧
  (
    ∀ (x : RedForm) (g : Guard) (d a : Nat) (alt : Bool) (rnd : Rnd),
      Runs (.vfredsum x alt rnd) (fun s u =>
        let f := elemFmt u.ew alt
        let z := if u.mode rnd = .rdn then 0 else f.signBit true
        let r := treeSum (f.add (u.mode rnd)) z ((List.range (min u.vl u.vlmax)).map fun i =>
          if u.guardBit x.g i then u.elems x.a u.ew i else z)
        let q := if x.xb then f.add (u.mode rnd) r.1 (u.rn x.b % 2 ^ u.ew)
          else (if (f.read r.1).isNan then f.nan else r.1, snan (f.read r.1))
        s.complete ((u.setN x.d q.1).orFlags (r.2 ||| q.2))) ∧
      (∀ (add : Nat → Nat → Nat × Nat) (z k : Nat) (l r : List Nat), l.length = 2 ^ k → r.length = 2 ^ k →
        (treeSum add z (l ++ r)).1 = (add (treeSum add z l).1 (treeSum add z r).1).1) ∧
      Runs (.vredmax x .f alt) (fun s u =>
        let f := elemFmt u.ew alt
        let r := (reduced x u).foldl (fun (acc : Nat × Nat) v => ((f.minMax false acc.1 v).1, acc.2 ||| (f.minMax false acc.1 v).2))
          (f.nan, 0)
        s.complete ((u.setN x.d r.1).orFlags r.2)) ∧
      Runs (.vredmin x .f alt) (fun s u =>
        let f := elemFmt u.ew alt
        let r := (reduced x u).foldl (fun (acc : Nat × Nat) v => ((f.minMax true acc.1 v).1, acc.2 ||| (f.minMax true acc.1 v).2))
          (f.nan, 0)
        s.complete ((u.setN x.d r.1).orFlags r.2)) ∧
      (∀ s t u, Admits (.vargmax g d a .f alt) s t u →
        let f := elemFmt u.ew alt
        let val := fun i => f.read (u.elems a u.ew i)
        ∃ j, exec (.vargmax g d a .f alt) s = .next (s.complete ((u.setN d j).orFlags
            ((u.activeList g).foldl (fun acc i => acc ||| snan (val i)) 0))) ∧
          (u.activeList g = [] → j = 2 ^ 64 - 1) ∧
          (∀ i r, u.activeList g = i :: r → (∀ k ∈ u.activeList g, (val k).isNan = true) → j = i) ∧
          ((∃ i ∈ u.activeList g, (val i).isNan = false) → j ∈ u.activeList g ∧ (val j).isNan = false ∧
            ∀ i ∈ u.activeList g, (val i).isNan = false → belowVal (val j) (val i) = false ∧
              (i < j → belowVal (val i) (val j) = true)))) ∧
  (
    ∀ (g : Guard) (d a c : Nat) (alt e5 : Bool) (rnd : Rnd) (s : State) (t u : Strand), Admits (.vmxq g d a c e5 alt rnd) s t u →
      let n := max 1 (8 * u.grp / u.ew)
      let block := fun b => quantiseMx (if e5 then fe5m2 else fe4m3) (u.mode rnd) u.sat ((List.range 32).map fun j =>
        if 32 * b + j < u.vl ∧ u.guardBit g (32 * b + j) = true
        then some ((elemFmt u.ew alt).read (u.elems a u.ew (32 * b + j))) else none)
      let byte := fun (v : Strand) (r k j : Nat) => field (v.vgroup r k) (8 * j) 8
      ∃ u', exec (.vmxq g d a c e5 alt rnd) s = .next (s.complete u') ∧
        (∀ j, j < 256 * n → byte u' d n j = if j < u.vlmax then ((block (j / 32)).2.1[j % 32]?).getD 0 else byte u d n j) ∧
        (∀ b, b < 256 → byte u' c 1 b = if b < u.vlmax / 32 then (block b).1 else byte u c 1 b) ∧
        (∀ r : Nat, r < d ∨ d + n ≤ r → r ≠ c → u'.regs.v[r]? = u.regs.v[r]?) ∧
        (∀ k, k < 64 → (u'.regs.fpflags.getLsbD k = true ↔ u.regs.fpflags.getLsbD k = true ∨
          ∃ b, b < u.vlmax / 32 ∧ bitAt (block b).2.2 k = true)) ∧
        u'.regs.s = u.regs.s ∧ u'.regs.p = u.regs.p ∧ u'.held = u.held ∧ u'.pc = u.pc) ∧
  (
    ∀ (e5 : Bool) (m : RMode) (sat : Bool) (xs : List (Option FVal)),
      let f := if e5 then fe5m2 else fe4m3
      let q := quantiseMx f m sat xs
      let scale := fun (mant : Nat) (e : Int) => min 254 (max 0 ((Nat.log2 mant : Int) + e - (if e5 then 15 else 8) + 127))
      ((∃ v, some v ∈ xs ∧ v.isFin = false) → q.1 = 0xFF ∧ q.2.1 = xs.map (fun o => if o.isSome then f.nan else 0) ∧
        q.2.2 = if xs.any (fun o => o == some (.inf true) || o == some (.inf false) || o == some (.nan true)) then flagNV else 0) ∧
      ((∀ v, some v ∈ xs → v.isFin = true) →
        ((∀ neg mant e, some (FVal.fin neg mant e) ∈ xs → mant = 0) → q.1 = 127) ∧
        (∀ neg mant e, some (FVal.fin neg mant e) ∈ xs → mant ≠ 0 → scale mant e ≤ q.1 ∧
          ∃ neg' mant' e', some (FVal.fin neg' mant' e') ∈ xs ∧ mant' ≠ 0 ∧ (q.1 : Int) = scale mant' e') ∧
        q.2.1 = xs.map (fun o => match o with
          | some (.fin neg mant e) => (f.roundFin m sat neg mant (e + 127 - q.1)).1
          | _ => 0)))

/-- R128 to R133: the floating-point element-wise instructions, with the flags of active elements. -/
def Obligations.VectorFloatResults : Prop :=
  ∀ (x : VecForm) (y : VecUn) (c : Nat) (alt : Bool) (rnd : Rnd) (kind : FmaKind) (sgn : SgnKind) (cond : FpCond)
      (src dst : CvtType),
    Runs (.vfadd x alt rnd) (fun s u => s.complete (fpLanesDone x alt u fun f a b =>
      f.finish (u.mode rnd) (exactAdd (u.mode rnd) (f.read a) (f.read b)))) ∧
    Runs (.vfsub x alt rnd) (fun s u => s.complete (fpLanesDone x alt u fun f a b =>
      f.finish (u.mode rnd) (exactAdd (u.mode rnd) (f.read a) (f.read b).negate))) ∧
    Runs (.vfmul x alt rnd) (fun s u => s.complete (fpLanesDone x alt u fun f a b =>
      f.finish (u.mode rnd) (exactMul (f.read a) (f.read b)))) ∧
    Runs (.vfdiv x alt rnd) (fun s u => s.complete (fpLanesDone x alt u fun f a b => f.div (u.mode rnd) a b)) ∧
    Runs (.vfma x c kind alt rnd) (fun s u => s.complete (u.elementwise x.g x.d u.ew x.tp x.mp fun i =>
      (elemFmt u.ew alt).fma (u.mode rnd) kind (u.elems x.a u.ew i)
        (if x.xb then u.rn x.b % 2 ^ u.ew else u.elems x.b u.ew i) (u.elems c u.ew i))) ∧
    Runs (.vfmin x alt) (fun s u => s.complete (fpLanesDone x alt u fun f a b => f.minMax true a b)) ∧
    Runs (.vfmax x alt) (fun s u => s.complete (fpLanesDone x alt u fun f a b => f.minMax false a b)) ∧
    Runs (.vfsgn x sgn alt) (fun s u => s.complete (fpLanesDone x alt u fun f a b => (f.sgn sgn a b, 0))) ∧
    Runs (.vfcmp x cond alt) (fun s u => s.complete (u.predwise x.g x.d x.tp x.mp fun i =>
      (elemFmt u.ew alt).compare cond (u.elems x.a u.ew i) (if x.xb then u.rn x.b % 2 ^ u.ew else u.elems x.b u.ew i))) ∧
    Runs (.vfsqrt y alt rnd) (fun s u => s.complete (u.elementwise y.g y.d u.ew y.tp y.mp fun i =>
      (elemFmt u.ew alt).sqrt (u.mode rnd) (u.elems y.a u.ew i))) ∧
    Runs (.vfexp2 y alt rnd) (fun s u => s.complete (u.elementwise y.g y.d u.ew y.tp y.mp fun i =>
      (elemFmt u.ew alt).exp2 (u.mode rnd) (u.elems y.a u.ew i))) ∧
    Runs (.vflog2 y alt rnd) (fun s u => s.complete (u.elementwise y.g y.d u.ew y.tp y.mp fun i =>
      (elemFmt u.ew alt).log2 (u.mode rnd) (u.elems y.a u.ew i))) ∧
    Runs (.vfclass y alt) (fun s u => s.complete (unaryDone y u fun i => (elemFmt u.ew alt).classify (u.elems y.a u.ew i))) ∧
    Runs (.vfcvt y src dst rnd) (fun s u => s.complete (u.elementwise y.g y.d (cvtWidth dst) y.tp y.mp fun i =>
      convert src dst (u.mode rnd) u.sat (u.elems y.a (cvtWidth src) i)))

/-! ## Vector memory -/

/-- R93, R95, R118 to R121: element addresses; what the element loop of a load reads and writes. VLD, VLDS and VLDB write nothing unless every
active element passes, and else raise the trap of the lowest that fails; VLDX keeps the elements before the one that fails and notes its
position; VLDFF ends there with its position where an element has been loaded and the cause truncates, and else traps; a stop inside
VLDX or VLDFF keeps the elements before it and stands at the instruction. In space D one READ leaves for each element; the last reply
writes them all, or the lowest that was refused raises REMOTE. Model choices it rests on: log entries 4, 10 and 20. -/
def Obligations.VectorLoads : Prop :=
  (
    ∀ (x : MemForm) (s s1 : State) (t u : Strand) (l : List (Nat × Nat)), x.sp ≠ .d → s.owesSector u x.sp (devOf x u) = false →
      let n := szBytes x.sz
      (loadElems u x.sp n (unitAddr x u) (u.activeList x.g) s = (s1, l, none) → Admits (.vld x) s t u →
        exec (.vld x) s = .next (s1.complete (u.putElems x.d l))) ∧
      (∀ k e, loadElems u x.sp n (unitAddr x u) (u.activeList x.g) s = (s1, l, some (k, e)) → Admits (.vld x) s t u →
        exec (.vld x) s = .next (s1.trap u e)) ∧
      (loadElems u x.sp n (strideAddr x u) (u.activeList x.g) s = (s1, l, none) → Admits (.vlds x) s t u →
        exec (.vlds x) s = .next (s1.complete (u.putElems x.d l))) ∧
      (∀ k e, loadElems u x.sp n (strideAddr x u) (u.activeList x.g) s = (s1, l, some (k, e)) → Admits (.vlds x) s t u →
        exec (.vlds x) s = .next (s1.trap u e)) ∧
      (s.elemLimit = none →
        (loadElems u x.sp n (indexAddr x u) (u.resumeList x.g) s = (s1, l, none) → Admits (.vldx x) s t u →
          exec (.vldx x) s = .next (s1.complete (u.putElems x.d l))) ∧
        (∀ k e, loadElems u x.sp n (indexAddr x u) (u.resumeList x.g) s = (s1, l, some (k, e)) → Admits (.vldx x) s t u →
          exec (.vldx x) s = .next (s1.trap { u.putElems x.d l with vprog := some ⟨k, false⟩ } e)) ∧
        (loadElems u x.sp n (unitAddr x u) (u.resumeList x.g) s = (s1, l, none) → Admits (.vldff x) s t u →
          exec (.vldff x) s = .next (s1.complete ((u.putElems x.d l).setN x.b u.vl))) ∧
        (∀ k e, loadElems u x.sp n (unitAddr x u) (u.resumeList x.g) s = (s1, l, some (k, e)) → Admits (.vldff x) s t u →
          let loaded := l ≠ [] ∨ ∃ y, u.vprog = some y ∧ y.loaded = true
          let ends := e.cause = causeBounds ∨ e.cause = causePage ∨ e.cause = causePerm
          (loaded → ends → exec (.vldff x) s = .next (s1.complete ((u.putElems x.d l).setN x.b k))) ∧
          (loaded → ¬ ends → exec (.vldff x) s = .next (s1.trap { u.putElems x.d l with vprog := some ⟨k, true⟩ } e)) ∧
          (¬ loaded → exec (.vldff x) s = .next (s1.trap { u.putElems x.d l with vprog := some ⟨k, false⟩ } e)))) ∧
      (∀ m k r, s.elemLimit = some m → (u.resumeList x.g).drop m = k :: r →
        loadElems u x.sp n (unitAddr x u) ((u.resumeList x.g).take m) s = (s1, l, none) → Admits (.vldff x) s t u →
        exec (.vldff x) s = .next (s1.putStrand { u.putElems x.d l with
          vprog := some ⟨k, !l.isEmpty || u.vprog.any VProg.loaded⟩ })) ∧
      (∀ m k r, s.elemLimit = some m → (u.resumeList x.g).drop m = k :: r →
        loadElems u x.sp n (indexAddr x u) ((u.resumeList x.g).take m) s = (s1, l, none) → Admits (.vldx x) s t u →
        exec (.vldx x) s = .next (s1.putStrand { u.putElems x.d l with vprog := some ⟨k, false⟩ })) ∧
      (∀ i v r, u.activeList x.g = i :: r → loadElems u x.sp n (fun _ => ea0 x u) [i] s = (s1, [(i, v)], none) →
        Admits (.vldb x) s t u → exec (.vldb x) s = .next (s1.complete (u.putElems x.d ((i :: r).map fun j => (j, v))))) ∧
      (∀ i r k e, u.activeList x.g = i :: r → loadElems u x.sp n (fun _ => ea0 x u) [i] s = (s1, l, some (k, e)) →
        Admits (.vldb x) s t u → exec (.vldb x) s = .next (s1.trap u e)) ∧
      (u.activeList x.g = [] → Admits (.vldb x) s t u → exec (.vldb x) s = .next (s.complete (u.putElems x.d [])))) ∧
  (
    ∀ (x : MemForm) (s : State) (t u : Strand) (i : Nat) (r : List Nat), x.sp = .d → s.owesSector u .d (devOf x u) = false →
      u.activeList x.g = i :: r → s.fabric.member ≠ some (devOf x u) →
      let dev := devOf x u
      let n := szBytes x.sz
      let tag := u.lastTag + 1
      let sends := fun (o : Out) (p : PodWorld) (vas : List Nat) (dest : ReplyDest) => ∃ s' u', o = .next s' ∧ s'.mem = s.mem ∧
        s'.strand? s.focus = some u' ∧ u'.pc = u.pc ∧ u'.regs = u.regs ∧
        u'.wait = some (.remote tag dev vas dest ((List.range vas.length).map (tag + ·)) []) ∧
        s'.fabric.outbox = s.fabric.outbox ++ (List.range vas.length).map fun k =>
          ⟨s.deviceId, dev, p.num, .read, nth vas k 0, n, tag + k, []⟩
      (∀ p, s.podTarget u.world dev = some p → s.unreachableTo dev = false →
        ((∀ j ∈ i :: r, checkPod s u dev (unitAddr x u j) n = .ok p) → Admits (.vld x) s t u →
          sends (exec (.vld x) s) p ((i :: r).map (unitAddr x u)) (.vector x.d u.ew (i :: r) false)) ∧
        (checkPod s u dev (ea0 x u) n = .ok p → Admits (.vldb x) s t u →
          sends (exec (.vldb x) s) p [ea0 x u] (.vector x.d u.ew (i :: r) true))) ∧
      (∀ e, checkPod s u dev (unitAddr x u i) n = .error e → Admits (.vld x) s t u → exec (.vld x) s = .next (s.trap u e)) ∧
      (∀ e, checkPod s u dev (ea0 x u) n = .error e → Admits (.vldb x) s t u → exec (.vldb x) s = .next (s.trap u e))) ∧
  (
    ∀ (i : SlotId) (dev first tag c d w : Nat) (all : Bool) (elems vas data : List Nat) (got : Replies) (s : State) (t : Strand),
      let r : RemoteReply := ⟨dev, s.deviceId, tag, c, data⟩
      let s1 : State := { s with fabric := { s.fabric with repliesIn := s.fabric.repliesIn.erase r } }
      let got' := got ++ [(tag, c, data)]
      s.strand? i = some t → s.issuerOf tag = some t → t.refusedBy r = [] → r ∈ s.fabric.repliesIn →
      t.wait = some (.remote first dev vas (.vector d w elems all) [tag] got) → (got'.map (·.1)).Nodup →
      ((∀ g ∈ got', g.2.1 = 0) → exec (.remoteReplyArrival i dev s.deviceId tag c data) s =
        .next (s1.finishWait (t.putElems d ((List.range elems.length).map fun k =>
          let j := if all then 0 else k
          (nth elems k 0, leValue (s1.readLogged t dev (nth vas j 0) (replyBytes first j got'))))))) ∧
      (∀ k g, k < vas.length → g ∈ got' → g.1 = first + k → g.2.1 ≠ 0 → g.2.1 < 256 →
        (∀ h ∈ got', ∀ j, j < k → h.1 = first + j → h.2.1 = 0) →
        exec (.remoteReplyArrival i dev s.deviceId tag c data) s =
          .next (s1.trap { t with wait := none } ⟨causeRemote, nth vas k 0, g.2.1⟩))) ∧
  (
    (
      ∀ (s s1 : State) (u : Strand) (sp : Space) (n d : Nat) (addr : Nat → Nat) (i : Nat) (r : List Nat) (l : List (Nat × Nat)),
        (loadElems u sp n addr (i :: r) s = (s1, l, none) → ∃ s2 ls l', checkAccess s u.party checkLoad sp (addr i) n = (s2, .ok ls) ∧
          badLogged u ls = none ∧ l = (i, leValue (ls.map (s2.byteAt u.logMem))) :: l' ∧
          loadElems u sp n addr r s2 = (s1, l', none)) ∧
        (d + u.grp ≤ 32 → (l.map (·.1)).Pairwise (· < ·) → ∀ j, j < u.vlmax →
          field ((u.putElems d l).vgroup d u.grp) (u.ew * j) u.ew =
            match l.find? (fun e => e.1 == j) with
            | some e => e.2 % 2 ^ u.ew
            | none => field (u.vgroup d u.grp) (u.ew * j) u.ew)) ∧
    (
      ∀ (x : MemForm) (t : Strand) (i : Nat),
        let off := (BitVec.ofNat 17 x.off).signExtend 64
        BitVec.ofNat 64 (unitAddr x t i) = t.rs x.a + BitVec.ofNat 64 (i * szBytes x.sz) + off ∧ unitAddr x t i < 2 ^ 64 ∧
        BitVec.ofNat 64 (strideAddr x t i) = t.rs x.a + BitVec.ofNat 64 i * t.rs x.b + off ∧ strideAddr x t i < 2 ^ 64 ∧
        BitVec.ofNat 64 (indexAddr x t i) = t.rs x.a + BitVec.ofNat 64 (t.elems x.b t.ew i * 2 ^ x.xs) + off ∧
        indexAddr x t i < 2 ^ 64))

/-- R93, R95, R102, R119, R120, R122, R199: vector stores. VST and VSTS check every active element before any is stored, or logged under an
item in G; VSTX stores or logs one at a time and notes the element that fails, or before which a stop leaves it; a full log raises
BOUNDS with TINFO 14. In space D a VST posts one counted store for each element, waits where the count is full and open, and logs them under an item.
Model choices it rests on: log entries 4, 10, 33 and 51. -/
def Obligations.VectorStores : Prop :=
  (∀ (x : MemForm) (s s1 : State) (t u : Strand) (l : List (Nat × List Loc)), x.sp ≠ .d → s.owesSector u x.sp (devOf x u) = false →
    let n := szBytes x.sz
    (checkElems u x.sp n (unitAddr x u) (u.activeList x.g) s = (s1, .ok l) → (x.sp = .g → u.held = none) → Admits (.vst x) s t u →
      exec (.vst x) s = .next ((l.foldl (fun a (e : Nat × List Loc) =>
        a.storeAt e.2 (leBytes n (u.elems x.d u.ew e.1))) s1).complete u)) ∧
    (∀ e, checkElems u x.sp n (unitAddr x u) (u.activeList x.g) s = (s1, .error e) → Admits (.vst x) s t u →
      exec (.vst x) s = .next (s1.trap u e)) ∧
    (checkElems u x.sp n (strideAddr x u) (u.activeList x.g) s = (s1, .ok l) → (x.sp = .g → u.held = none) → Admits (.vsts x) s t u →
      exec (.vsts x) s = .next ((l.foldl (fun a (e : Nat × List Loc) =>
        a.storeAt e.2 (leBytes n (u.elems x.d u.ew e.1))) s1).complete u)) ∧
    (∀ e, checkElems u x.sp n (strideAddr x u) (u.activeList x.g) s = (s1, .error e) → Admits (.vsts x) s t u →
      exec (.vsts x) s = .next (s1.trap u e)) ∧
    (∀ h, x.sp = .g → u.held = some h →
      let log := l.foldl (fun (a : WriteLog) e => a.put e.2 (leBytes n (u.elems x.d u.ew e.1))) h.log
      let logs := fun (o : Out) =>
        (log.used ≤ 4096 → ∃ s' u' h', o = .next s' ∧ s'.mem = s1.mem ∧ s'.strand? s.focus = some u' ∧ u'.pc = u.pc + 8 ∧
          u'.regs = u.regs ∧ u'.held = some h' ∧ h'.item = h.item ∧ h'.log.mem = log.mem ∧ h'.log.sectors = log.sectors) ∧
        (4096 < log.used → h.log.used ≤ 4096 → o = .next (s1.trap u ⟨causeBounds, 0, 14⟩))
      (checkElems u x.sp n (unitAddr x u) (u.activeList x.g) s = (s1, .ok l) → Admits (.vst x) s t u → logs (exec (.vst x) s)) ∧
      (checkElems u x.sp n (strideAddr x u) (u.activeList x.g) s = (s1, .ok l) → Admits (.vsts x) s t u →
        logs (exec (.vsts x) s))) ∧
    (∀ s2 t2, s.elemLimit = none → storeEach x.sp n (indexAddr x u) (u.elems x.d u.ew) (u.resumeList x.g) s u = (s2, t2, none) →
      Admits (.vstx x) s t u → exec (.vstx x) s = .next (s2.complete t2)) ∧
    (∀ s2 t2 k e, s.elemLimit = none →
      storeEach x.sp n (indexAddr x u) (u.elems x.d u.ew) (u.resumeList x.g) s u = (s2, t2, some (k, e)) →
      Admits (.vstx x) s t u → exec (.vstx x) s = .next (s2.trap { t2 with vprog := some ⟨k, false⟩ } e)) ∧
    (∀ s2 t2 m k r, s.elemLimit = some m → (u.resumeList x.g).drop m = k :: r →
      storeEach x.sp n (indexAddr x u) (u.elems x.d u.ew) ((u.resumeList x.g).take m) s u = (s2, t2, none) →
      Admits (.vstx x) s t u → exec (.vstx x) s = .next (s2.putStrand { t2 with vprog := some ⟨k, false⟩ })) ∧
    (∀ (val : Nat → Nat) (addr : Nat → Nat) (i : Nat) (r : List Nat) (s2 : State) (ls : List Loc),
      checkAccess s u.party checkStore x.sp (addr i) (leBytes n (val i)).length = (s2, .ok ls) →
      ((x.sp = .g → u.held = none) → storeEach x.sp n addr val (i :: r) s u =
        storeEach x.sp n addr val r (s2.storeAt ls (leBytes n (val i))) u) ∧
      (∀ h, x.sp = .g → u.held = some h →
        let log := h.log.put ls (leBytes n (val i))
        (log.used ≤ 4096 → ∃ u' h', storeEach x.sp n addr val (i :: r) s u = storeEach x.sp n addr val r s2 u' ∧
          u'.held = some h' ∧ h'.log.mem = log.mem ∧ h'.log.sectors = log.sectors ∧ u'.regs = u.regs) ∧
        (4096 < log.used → storeEach x.sp n addr val (i :: r) s u = (s2, u, some (i, ⟨causeBounds, 0, 14⟩)))))) ∧
  ∀ (x : MemForm) (s : State) (t u : Strand), x.sp = .d → s.owesSector u .d (devOf x u) = false → Admits (.vst x) s t u →
    let dev := devOf x u
    let n := szBytes x.sz
    let l := u.activeList x.g
    let data := fun i => leBytes n (u.elems x.d u.ew i)
    (∀ pre i r e, l = pre ++ i :: r → (∀ j ∈ pre, ∃ p, checkPod s u dev (unitAddr x u j) n = .ok p) →
      checkPod s u dev (unitAddr x u i) n = .error e → exec (.vst x) s = .next (s.trap u e)) ∧
    (∀ p, s.podTarget u.world dev = some p → (∀ i ∈ l, checkPod s u dev (unitAddr x u i) n = .ok p) → s.fabric.member ≠ some dev →
      (u.held = none → s.unreachableTo dev = false →
        (u.countRoom x.m dev l.length = true → ∃ s' u', exec (.vst x) s = .next s' ∧ s'.mem = s.mem ∧
          s'.strand? s.focus = some u' ∧ u'.pc = u.pc + 8 ∧ u'.regs = u.regs ∧
          u'.countOf x.m dev = (if u.countOf x.m dev + l.length ≤ 65535 then u.countOf x.m dev else 0) + l.length ∧
          s'.fabric.outbox = s.fabric.outbox ++ (List.range l.length).map (fun k =>
            (⟨s.deviceId, dev, p.num, .write, unitAddr x u (nth l k 0), n, u.tagIn x.m + k + 1, toNats (data (nth l k 0))⟩ :
              RemoteAccess)) ∧
          u'.unacked = u.unacked ++ (List.range l.length).map fun k =>
            (⟨dev, x.m, unitAddr x u (nth l k 0), u.tagIn x.m + k + 1, none⟩ : PostedStore)) ∧
        (u.countRoom x.m dev l.length = false → exec (.vst x) s = .next (s.stall u .other))) ∧
      (∀ h, u.held = some h → (l.foldl (fun a i => addSectors a (podSectors dev (unitAddr x u i) n)) h.log.sectors).length +
          h.log.reserved ≤ 4096 → ∃ s' u' h', exec (.vst x) s = .next s' ∧ s'.fabric = s.fabric ∧ s'.strand? s.focus = some u' ∧
        u'.pc = u.pc + 8 ∧ u'.regs = u.regs ∧ u'.held = some h' ∧
        h'.log.pod = h.log.pod ++ l.map fun i => ⟨dev, unitAddr x u i, data i⟩))

/-! ## Matrix engine -/

/-- R152, R165: TDSET and TDGET move one descriptor field, KSET writes its scale register by mode, MSTAT reads the status word
and clears it on request; the word of an invalid handle raises BOUNDS. -/
def Obligations.MatrixRegisters : Prop :=
  ∀ (g : Guard) (d a imm : Nat) (f : TdField) (sp : Space), imm < 2 ^ 32 →
    Runs (.tdset g d a f imm) (fun s u => s.complete (u.setTd d ((u.rtd d).put f (u.rs a + immWord imm)))) ∧
    (∀ (td : Td) (v : Word), (td.put f v).get f = v ∧ ∀ f', f' ≠ f → (td.put f v).get f' = td.get f') ∧
    Runs (.tdget g d a f) (fun s u => s.complete (u.setS d ((u.rtd a).get f))) ∧
    Runs (.kset g d a .raw imm) (fun s u => s.complete (u.setK d (u.rs a + immWord imm).toNat)) ∧
    Runs (.kset g d a .uni imm) (fun s u => s.complete (u.setK d (2 ^ 62 + imm % 256))) ∧
    Runs (.kset g d a (.addr sp) imm) (fun s u => s.complete (u.setK d
      (2 ^ 63 + sp.code * 2 ^ 59 + (u.rs a + immWord imm).toNat % 2 ^ 56))) ∧
    (∀ clr, Runs (.mstat g d a true clr) (fun s u =>
      let t := u.setN d (u.mx.lastCause * 2 ^ 40 + u.ops.length * 2 ^ 16 + (if u.mx.poison then 128 else 0) + u.mx.flags)
      s.complete (if clr then { t with mx := { t.mx with flags := 0, lastCause := 0 } } else t))) ∧
    (∀ s t u, Admits (.mstat g d a false false) s t u → (∀ o ∈ u.ops, o.handle ≠ some a) → (∀ p ∈ u.spilled, p.1 ≠ a) →
      (accValid (u.racc a) = true → exec (.mstat g d a false false) s = .next (s.complete (u.setN d (u.racc a)))) ∧
      (accValid (u.racc a) = false → exec (.mstat g d a false false) s = .next (s.trap u ⟨causeBounds, 0, 1⟩)))

/-- R143, R151, R153, R164: allocation takes the lowest base where no region of another resident handle lies. MZERO and MACCLD write
the handle, own the region and leave +0 in each cell; MZERO of 0 by 0 frees it; shapes and lack of room raise BOUNDS, for MACCLD in the order of their codes. -/
def Obligations.AccumulatorAllocation : Prop :=
  (∀ (c : Core) (i : SlotId) (h n b : Nat), c.lowestBase i h n = some b →
    b + n ≤ 32768 ∧ (∀ r ∈ c.regions, r.resident = true → r.owner ≠ .handle i h → r.meets b n = false) ∧
    ∀ b', b' < b → ∃ r ∈ c.regions, r.resident = true ∧ r.owner ≠ .handle i h ∧ r.meets b' n = true) ∧
  ∀ (g : Guard) (d a b : Nat) (int : Bool) (s : State) (t u : Strand), d < 16 →
    (∀ o ∈ u.ops, o.handle ≠ some d) → ((s.core (coreOf s.focus)).cells.map (·.1)).Pairwise (· < ·) →
    let ready := fun (i : Instr) (rows cols base : Nat) (int : Bool) =>
      Admits i s t u → shapeOk rows cols = true → (s.core (coreOf s.focus)).lowestBase s.focus d (rows * cols) = some base →
      ∃ s' u', exec i s = .next s' ∧ s'.strand? s.focus = some u' ∧ u'.racc d = accWord true false int rows cols base ∧
        u'.regs.s = u.regs.s ∧ u'.pc = u.pc + 8 ∧
        (⟨base, rows * cols, .handle s.focus d⟩ : Region) ∈ (s'.core (coreOf s.focus)).regions ∧
        (∀ k, k < rows * cols → cellGet (s'.core (coreOf s.focus)).cells (base + k) = 0) ∧ s'.mem = s.mem
    (∀ base, ready (.mzero g d a b int) (u.rn a) (u.rn b) base int) ∧
    (u.ops.length < 32 → s.owesOwn u allStreams = false →
      let rows := (u.rtd a).rows.toNat
      let cols := (u.rtd a).cols.toNat
      let room := (s.core (coreOf s.focus)).lowestBase s.focus d (rows * cols)
      (∀ base, ready (.maccld g d a) rows cols base ((u.rtd a).fmt == .int32)) ∧
      (Admits (.maccld g d a) s t u → room = none → exec (.maccld g d a) s = .next (s.trap u ⟨causeBounds, 0, 2⟩)) ∧
      (Admits (.maccld g d a) s t u → room ≠ none → shapeOk rows cols = false →
        exec (.maccld g d a) s = .next (s.trap u ⟨causeBounds, 0, 3⟩))) ∧
    (Admits (.mzero g d a b int) s t u → u.rn a = 0 → u.rn b = 0 → ∃ s' u', exec (.mzero g d a b int) s = .next s' ∧
      s'.strand? s.focus = some u' ∧ u'.racc d = u.racc d % 2 ^ 63 ∧ u'.pc = u.pc + 8 ∧
      ∀ r ∈ (s'.core (coreOf s.focus)).regions, r.owner ≠ .handle s.focus d) ∧
    (Admits (.mzero g d a b int) s t u → (u.rn a ≠ 0 ∨ u.rn b ≠ 0) → shapeOk (u.rn a) (u.rn b) = false →
      exec (.mzero g d a b int) s = .next (s.trap u ⟨causeBounds, 0, 3⟩)) ∧
    (Admits (.mzero g d a b int) s t u → shapeOk (u.rn a) (u.rn b) = true →
      (s.core (coreOf s.focus)).lowestBase s.focus d (u.rn a * u.rn b) = none →
      exec (.mzero g d a b int) s = .next (s.trap u ⟨causeBounds, 0, 2⟩))

/-- R145, R154, R156, R157, R163, R164: MMA, MMAQ, MACCST and MCODE complete at once and leave one outstanding operation with its
captured operands; the first failing shape check raises BOUNDS with its code. -/
def Obligations.MatrixIssue : Prop :=
  ∀ (x : MmaForm) (qm d a : Nat) (g : Guard) (relu : Bool) (fmt : ElemFmt) (sp : Space) (s : State) (t u : Strand),
    u.ops.length < 32 → s.owesOwn u allStreams = false →
    let made := fun (i : Instr) (kind : MatKind) (handle : Option Nat) (f : MatOp → Prop) =>
      ∃ u' o, exec i s = .next (s.complete u') ∧ u'.ops = u.ops ++ [o] ∧ u'.regs = u.regs ∧ u'.held = u.held ∧
        o.kind = kind ∧ o.handle = handle ∧ o.vpc = u.pc ∧ o.begun = false ∧ o.suspended = false ∧ o.progress = 0 ∧
        o.fpctl = u.regs.fpctl ∧ f o
    let captured := fun (o : MatOp) => o.a = u.rtd x.a ∧ o.b = u.rtd x.b ∧ o.ka = u.rk x.ka ∧ o.kb = u.rk x.kb ∧
      o.mode = x.mode ∧ ∀ i, i < 2048 → o.mask.getLsbD i = u.guardBit x.g i
    (Admits (.mma x) s t u → mmaShape (u.racc x.d) (u.rtd x.a) (u.rtd x.b) = none → (∀ p ∈ u.spilled, p.1 ≠ x.d) →
      made (.mma x) .mma (some x.d) captured) ∧
    (∀ c, Admits (.mma x) s t u → mmaShape (u.racc x.d) (u.rtd x.a) (u.rtd x.b) = some c →
      exec (.mma x) s = .next (s.trap u ⟨causeBounds, 0, c⟩)) ∧
    (Admits (.mmaq x qm) s t u → mmaqShape (u.racc x.d) (u.rtd x.a) (u.rtd x.b) qm (u.at_.core % 4) = none →
      (∀ p ∈ u.spilled, p.1 ≠ x.d) → s.teamHeld u qm = false → u.teamOp qm (u.mmaqCount qm + 1) = none →
      (∀ j ∈ teamSlots u.at_ qm, j ≠ u.at_ → ∀ v m, s.strand? j = some v → v.teamOp qm (u.mmaqCount qm + 1) = some m →
        s.teamLate v m = false) →
      made (.mmaq x qm) (.mmaq qm (u.mmaqCount qm + 1)) (some x.d) (fun o => captured o ∧ o.left = none ∧
        o.due = s.now u.at_ + 2 ^ 20 ∧ o.poison = if u.dissolved.contains (qm, u.mmaqCount qm + 1) then some 7 else none)) ∧
    (Admits (.maccst g d a relu fmt) s t u → accValid (u.racc a) = true → (u.rtd d).rows.toNat ≤ accRows (u.racc a) →
      (u.rtd d).cols.toNat ≤ accCols (u.racc a) → u.held = none → (∀ p ∈ u.spilled, p.1 ≠ a) →
      made (.maccst g d a relu fmt) (.maccst relu fmt) (some a) (fun o => o.a = u.rtd d)) ∧
    (Admits (.mcode g a sp) s t u → made (.mcode g a sp) (.mcode sp (u.rn a)) none (fun _ => True))

/-- R48, R49, R164: MACCV gives each active element its cell of the row, converted to BF16 by its flag, and 0 beyond the columns; one block of an INT8 cell adds the exact product sum wrapped to 32 bits, and acn subtracts it. -/
def Obligations.AccumulatorReads : Prop :=
  (
    ∀ (g : Guard) (d a b : Nat) (tp mp : Bool) (s : State) (t u : Strand),
      Admits (.maccv g d a b tp mp false) s t u → (∀ o ∈ u.ops, o.handle ≠ some a) → accValid (u.racc a) = true →
      (∀ p ∈ u.spilled, p.1 ≠ a) →
      (u.rn b < accRows (u.racc a) → exec (.maccv g d a b tp mp false) s =
        .next (s.complete (u.elementwise g d u.ew tp mp fun i => (if i < accCols (u.racc a) then
          cellGet (s.core (coreOf u.at_)).cells (accBase (u.racc a) + u.rn b * accCols (u.racc a) + i) else 0, 0)))) ∧
      (accRows (u.racc a) ≤ u.rn b → exec (.maccv g d a b tp mp false) s = .next (s.trap u ⟨causeBounds, 0, 5⟩))) ∧
  (
    ∀ (g : Guard) (d a b : Nat) (tp mp : Bool) (s : State) (t u : Strand),
      Admits (.maccv g d a b tp mp true) s t u → (∀ o ∈ u.ops, o.handle ≠ some a) → accValid (u.racc a) = true →
      (∀ p ∈ u.spilled, p.1 ≠ a) →
      (u.rn b < accRows (u.racc a) → accInt (u.racc a) = false → exec (.maccv g d a b tp mp true) s =
        .next (s.complete (u.elementwise g d u.ew tp mp fun i => if i < accCols (u.racc a) then bf16.round u.rm false (fp32.read
          (cellGet (s.core (coreOf u.at_)).cells (accBase (u.racc a) + u.rn b * accCols (u.racc a) + i))) else (0, 0)))) ∧
      (u.rn b < accRows (u.racc a) → accInt (u.racc a) = true →
        exec (.maccv g d a b tp mp true) s = .next (s.trap u ⟨causeBounds, 0, 6⟩)) ∧
      (accRows (u.racc a) ≤ u.rn b → exec (.maccv g d a b tp mp true) s = .next (s.trap u ⟨causeBounds, 0, 5⟩))) ∧
  (
    ∀ (mode : MmaMode) (c : BitVec 32) (a b : List (BitVec 8)),
      let el := fun (x : BitVec 8) => cvtRead .i8 x.toNat
      let sum := (a.zip b).foldl (fun (acc : BitVec 32) p => acc + p.1.signExtend 32 * p.2.signExtend 32) 0
      intCell mode c.toNat (a.map el) (b.map el) = (if mode = .acn then c - sum else c + sum).toNat)

/-- R145, R146, R154, R156, R158, R160, R163 to R166: a matrix operation that may begin begins; a team begins as one, poisoned with 6 where
its members disagree; a team with a member missing when its time is over is dissolved: the issued operation is poisoned with 7 and
ends in its turn, and the missing strand finds it dissolved; a finished operation leaves the list; MWAIT ends when few enough are left
and gives the poison status; a failing unit suspends its operation. A unit of MMA gives each cell of its active rows one block and leaves
every other cell, or is poisoned with 1; a unit of MACCST stores or logs one row of activated and converted cells; a unit of MACCLD
sets one row of cells; MCODE gathers its image line by line and then leaves it in the codebook, or an empty codebook and cause 5.
Model choices it rests on: log entries 41 and 52. -/
def Obligations.MatrixOperations : Prop :=
  (∀ (i : SlotId) (id : Nat) (s : State) (t : Strand) (o : MatOp), s.strand? i = some t → t.op? id = some o → t.at_ = i →
    ((∀ qm n, o.kind = .mmaq qm n → o.poison.isSome = true) → s.mayBegin t o = true → exec (.matrixOpBegin i id) s =
      .next (s.putStrand (t.putOp { o with begun := true, poison := s.startPoison t o }))) ∧
    (∀ qm n, o.kind = .mmaq qm n → t.teamOp qm n = some o → i ∈ teamSlots i qm →
      (s.party t o).length = (teamSlots t.at_ qm).length →
      (∀ m ∈ s.party t o, m.2.poison = none ∧ s.mayBegin m.1 m.2 = true) → ∃ s', exec (.mmaqTeamStart i id) s = .next s' ∧
        ∃ t' o', s'.strand? i = some t' ∧ t'.op? id = some o' ∧ o'.begun = true ∧
          ((∃ m ∈ s.party t o, o.agrees m.2 = false) → o'.poison = some 6)) ∧
    (∀ qm n j, o.kind = .mmaq qm n → t.teamOp qm n = some o → o.begun = false → o.poison = none → o.left = none →
      o.due < s.now i → i ∈ teamSlots i qm → j ∈ teamSlots i qm → (∀ m ∈ s.party t o, m.1.at_ ≠ j) →
      ∃ s', exec (.mmaqTeamTimeout i id) s = .next s' ∧
        (∃ t' o', s'.strand? i = some t' ∧ t'.op? id = some o' ∧ o'.begun = false ∧ o'.poison = some 7) ∧
        ∀ v, s.strand? j = some v → ∃ v', s'.strand? j = some v' ∧ v'.dissolved = v.dissolved ++ [(qm, n)]) ∧
    (s.opFinished t o = true → o.endPoison = none → o.underItem = false → (∀ sp n, o.kind ≠ .mcode sp n) →
      exec (.matrixOpComplete i id) s = .next (s.putStrand { t with ops := t.ops.filter fun x => x.id != id })) ∧
    (∀ far s1 tr, s.unitReady t o = true → (∀ qm n, o.kind ≠ .mmaq qm n) → s.tryUnit t o far = .stop s1 (.trap tr) →
      exec (.matrixSuspend i id far) s = .next (s1.suspendOp (t, o) tr)) ∧
    (∀ g d a s t u, Admits (.mwait g d a) s t u → (u.ops.length ≤ u.rn a →
        exec (.mwait g d a) s = .next (s.complete (u.mwaitDone d))) ∧
      (u.rn a < u.ops.length → exec (.mwait g d a) s =
        .next (s.putStrand { u with wait := some (.mwait d (u.rn a) (s.now u.at_)) }))) ∧
    (∀ d limit n, t.wait = some (.mwait d limit n) → t.frame = none → t.phase = .live → s.engineHalted t = false →
      t.ops.length ≤ limit → exec (.mwaitComplete i) s = .next (s.finishWait (t.mwaitDone d))) ∧
    (∀ (u : Strand) (d : Nat), d ≠ 0 → d < 16 → ∀ k, k < u.vlmax → (u.mwaitDone d).pbit d k = !u.mx.poison ∧ (u.mwaitDone d).mx.poison = false)) ∧
  (∀ (s s1 s2 : State) (t : Strand) (o : MatOp) (h : Nat) (far : List FarLine) (da db : List RunData), s.strand? t.at_ = some t →
    t.op? o.id = some o → o.kind = .mma → o.handle = some h → (∀ p ∈ t.spilled, p.1 ≠ h) → s.unitReady t o = true →
    let k := opK o.a
    let b := o.progress
    let ra := elemRuns o.a (contiguousA o.a) (opM o.a) k b
    let rb := elemRuns o.b (contiguousB o.b) (opN o.b) k b
    readRuns t.party (o.a.device.toNat % 2048) far .policy (ra ++ scaleRuns o.a o.ka (contiguousA o.a) (opM o.a) b) s =
      (s1, .ok da) →
    readRuns t.party (o.b.device.toNat % 2048) far .policy (rb ++ scaleRuns o.b o.kb (contiguousB o.b) (opN o.b) b) s1 =
      (s2, .ok db) →
    let s' := s.unitStep t.at_ o.id far
    let core := s2.core (coreOf t.at_)
    ((∃ x ∈ da ++ db, x.poisoned = true) → (∃ t' o', s'.strand? t.at_ = some t' ∧ t'.op? o.id = some o' ∧ o'.poison = some 1) ∧
      (s'.core (coreOf t.at_)).cells = core.cells) ∧
    ((∀ x ∈ da ++ db, x.poisoned = false) → (core.cells.map (·.1)).Pairwise (· < ·) → opN o.b ≤ accCols (t.racc h) →
      let w := t.racc h
      let place := fun (i j : Nat) => accBase w + i * accCols w + j
      let av := blockLines o.a (contiguousA o.a) core.codebook (opM o.a) k b (da.take ra.length)
      let bv := blockLines o.b (contiguousB o.b) core.codebook (opN o.b) k b (db.take rb.length)
      let xa := blockScales o.a o.ka (opM o.a) (da.drop ra.length)
      let xb := blockScales o.b o.kb (opN o.b) (db.drop rb.length)
      (∀ i j, i < opM o.a → j < opN o.b → o.mask.getLsbD i = true → i < 2048 →
        let c := if o.mode = .ovw ∧ b = 0 then 0 else cellGet core.cells (place i j)
        cellGet (s'.core (coreOf t.at_)).cells (place i j) =
          if accInt w then intCell o.mode c (nth av i []) (nth bv j [])
          else (fpCell o.mode c (nth av i []) (nth bv j []) (decide (blockLen k b < 32)) (nth xa i 127) (nth xb j 127)).1) ∧
      (∀ n, (∀ i j, i < opM o.a → j < opN o.b → o.mask.getLsbD i = true → n ≠ place i j) →
        cellGet (s'.core (coreOf t.at_)).cells n = cellGet core.cells n) ∧ s'.mem = s2.mem ∧
      ∃ t' o', s'.strand? t.at_ = some t' ∧ t'.op? o.id = some o' ∧ o'.progress = b + 1)) ∧
  ∀ (s s1 : State) (t : Strand) (o : MatOp) (far : List FarLine), s.strand? t.at_ = some t → t.op? o.id = some o →
    let s' := s.unitStep t.at_ o.id far
    let i := o.progress
    let cells := (s.core (coreOf t.at_)).cells
    let moved := ∃ t' o', s'.strand? t.at_ = some t' ∧ t'.op? o.id = some o' ∧ o'.progress = i + 1
    (∀ h relu fmt l, o.kind = .maccst relu fmt → o.handle = some h → (∀ p ∈ t.spilled, p.1 ≠ h) → o.a.space ≠ .d →
      s.unitReady t o = true →
      let w := t.racc h
      let row := encodeRow fmt (accInt w) o.fpctl ((List.range o.a.cols.toNat).map fun j =>
        activate relu (accInt w) (cellGet cells (accBase w + i * accCols w + j)))
      checkWrites t.party (o.a.device.toNat % 2048) (if o.underItem then none else some far) false
        (⟨o.a.space, rowAddr o.a i, row.1⟩ :: if row.2.1.isEmpty then [] else [⟨o.a.space, rowScaleAddr o.a i, row.2.1⟩]) s =
          (s1, .ok l) →
      ((o.underItem = true → o.a.space ≠ .g) → moved ∧
        let a := l.foldl (fun (a : State) c => a.storeAt c.2 (toBytes c.1.data)) s1
        s'.mem = a.mem ∧ ∀ c, (s'.core c).spad = (a.core c).spad ∧ (s'.core c).cells = (s1.core c).cells) ∧
      (∀ x, o.underItem = true → o.lost = false → o.a.space = .g → t.held = some x → moved ∧ s'.mem = s1.mem ∧
        ∃ t' x', s'.strand? t.at_ = some t' ∧ t'.held = some x' ∧
          x'.log.mem = (l.foldl (fun (a : WriteLog) c => a.put c.2 (toBytes c.1.data)) x.log).mem)) ∧
    (∀ h d, o.kind = .maccld → o.handle = some h → (∀ p ∈ t.spilled, p.1 ≠ h) → s.unitReady t o = true →
      readRun s t.party (o.a.device.toNat % 2048) far .never
        (runAt o.a.space (rowAddr o.a i) (o.a.cols.toNat * elemBytes o.a.fmt)) = (s1, .ok d) → moved ∧
      (d.poisoned = false → (s'.core (coreOf t.at_)).cells = cellSetRun (s1.core (coreOf t.at_)).cells
        (accBase (t.racc h) + i * accCols (t.racc h))
        ((leGroups (elemBytes o.a.fmt) o.a.cols.toNat d.bytes).map fun v => (ldCell o.a.fmt v).1)) ∧
      (d.poisoned = true → (s'.core (coreOf t.at_)).cells = (s1.core (coreOf t.at_)).cells)) ∧
    (∀ sp addr d, o.kind = .mcode sp addr → o.handle = none → s.unitReady t o = true →
      readRun s t.party 0 [] .policy (runAt sp (addr + 64 * i) (min 64 (2320 - 64 * i))) = (s1, .ok d) → d.poisoned = false →
      moved ∧ ∃ t' o', s'.strand? t.at_ = some t' ∧ t'.op? o.id = some o' ∧ o'.vals = o.vals ++ d.bytes) ∧
    (∀ sp addr g, o.kind = .mcode sp addr → s.opFinished t o = true → o.poison = none → s.stage? t.inst = some g →
      ∃ e t' g', exec (.matrixOpComplete t.at_ o.id) s = .next e ∧ e.strand? t.at_ = some t' ∧ (∀ x ∈ t'.ops, x.id ≠ o.id) ∧
        e.stage? t.inst = some g' ∧ g'.mcode = some (addr, sp) ∧
        (imageOk o.vals = true → (e.core (coreOf t.at_)).codebook = o.vals.map (BitVec.ofNat 8) ∧
          (e.core (coreOf t.at_)).codeOwner = some t.inst) ∧
        (imageOk o.vals = false → (e.core (coreOf t.at_)).codebook = [] ∧ t'.mx.poison = true ∧ t'.mx.lastCause = 5))

/-! ## Copy engine -/

/-- R177, R178, R180, R183 to R185: CPY, CFILL, CGATHER, CSCATTER and CPYM enter one copy with its captured operands in their
queue and complete, under a work item where the log has room for it; CPYM issues its MMA with it. A length out of range, an overlap,
a full log and a bad control word raise BOUNDS. -/
def Obligations.CopyIssue : Prop :=
  ∀ (x : CopyForm) (dsp ssp : Space) (k : Nat) (mode : MmaMode) (which : Bool) (s : State) (t u : Strand),
    ((s.core (coreOf u.at_)).queueOps x.q).length < 64 → s.owesOwn u allStreams = false →
    let n := u.rn x.b
    let dev := u.rn x.c % 2048
    let most := if x.nm then 2 ^ 30 else 262144
    let w := u.rn x.c
    let fits := fun (o : CopyOp) => ∀ h, u.held = some h → h.log.used + o.sectors s ≤ logCapacity
    let one := s.newCopy u x .cpy dsp ssp (u.rn x.d) (u.rn x.a) n dev
    (Admits (.cpy x dsp ssp) s t u → 0 < n → n ≤ most → rangesMeet u dsp (u.rn x.d, n) ssp (u.rn x.a, n) = false →
      ¬ fits one → exec (.cpy x dsp ssp) s = .next (s.trap u ⟨causeBounds, 0, 14⟩)) ∧
    (Admits (.cpy x dsp ssp) s t u → 0 < n → n ≤ most → rangesMeet u dsp (u.rn x.d, n) ssp (u.rn x.a, n) = false →
      fits one → CopyQueued s u (.cpy x dsp ssp) x (fun o => o.kind = .cpy ∧ o.dst = u.rn x.d ∧ o.src = u.rn x.a ∧ o.len = n ∧
        o.dsp = dsp ∧ o.ssp = ssp ∧ o.dev = u.rn x.c % 2048)) ∧
    (Admits (.cpy x dsp ssp) s t u → n = 0 → exec (.cpy x dsp ssp) s = .next (s.complete u)) ∧
    (Admits (.cpy x dsp ssp) s t u → most < n → exec (.cpy x dsp ssp) s = .next (s.trap u ⟨causeBounds, 0, 8⟩)) ∧
    (Admits (.cpy x dsp ssp) s t u → 0 < n → n ≤ most → rangesMeet u dsp (u.rn x.d, n) ssp (u.rn x.a, n) = true →
      exec (.cpy x dsp ssp) s = .next (s.trap u ⟨causeBounds, 0, 12⟩)) ∧
    (Admits (.cfill x dsp) s t u → 0 < n → n ≤ most →
      fits (s.newCopy u x (.cfill (u.rs x.a)) dsp .g (u.rn x.d) 0 n dev) → CopyQueued s u (.cfill x dsp) x (fun o => o.kind = .cfill (u.rs x.a) ∧ o.dst = u.rn x.d ∧ o.len = n ∧ o.dsp = dsp)) ∧
    (∀ count rowb, w = count + rowb * 65536 → 0 < count → count ≤ 4096 → 0 < rowb → rowb ≤ 4096 → count * rowb ≤ most →
      (Admits (.cgather x ssp) s t u →
        fits (s.newCopy u x (.cgather (u.rn x.b) count rowb) .l ssp (u.rn x.d) (u.rn x.a) (count * rowb) 0) → CopyQueued s u (.cgather x ssp) x (fun o =>
        o.kind = .cgather (u.rn x.b) count rowb ∧ o.dst = u.rn x.d ∧ o.src = u.rn x.a ∧ o.len = count * rowb ∧ o.dsp = .l ∧
          o.ssp = ssp)) ∧
      (Admits (.cscatter x dsp) s t u →
        fits (s.newCopy u x (.cscatter (u.rn x.b) count rowb) dsp .l (u.rn x.d) (u.rn x.a) (count * rowb) 0) → CopyQueued s u (.cscatter x dsp) x (fun o =>
        o.kind = .cscatter (u.rn x.b) count rowb ∧ o.dst = u.rn x.d ∧ o.src = u.rn x.a ∧ o.len = count * rowb ∧ o.dsp = dsp ∧
          o.ssp = .l))) ∧
    (Admits (.cgather x ssp) s t u → field w 0 16 * field w 16 16 ≤ most → field w 16 16 = 0 →
      exec (.cgather x ssp) s = .next (s.trap u ⟨causeBounds, 0, 9⟩)) ∧
    (let dst := if which then u.rtd x.a else u.rtd x.b
     let src := u.rtd x.c
     Admits (.cpym x k mode which) s t u → mmaShape (u.racc x.d) (u.rtd x.a) (u.rtd x.b) = none →
      imageLen (tileImage dst which) ≤ most → src.rows = dst.rows → src.cols = dst.cols → src.fmt = dst.fmt →
      src.transpose = dst.transpose → imagesMeet u src dst which = false → u.ops.length < 32 →
      (∀ p ∈ u.spilled, p.1 ≠ x.d) →
      fits (s.newCopy u x (.cpym src dst which) dst.space src.space 0 0 (imageLen (tileImage dst which)) 0) →
      CopyQueued s u (.cpym x k mode which) x (fun o => o.underItem = u.held.isSome ∧ o.kind = .cpym src dst which ∧
        o.len = imageLen (tileImage dst which) ∧ ∃ s' u' m, exec (.cpym x k mode which) s = .next s' ∧
          s'.strand? s.focus = some u' ∧ u'.ops = u.ops ++ [m] ∧ m.kind = .mma ∧ m.handle = some x.d ∧ m.copy = some o.num ∧
          m.a = u.rtd x.a ∧ m.b = u.rtd x.b ∧ m.ka = u.rk k ∧ m.kb = u.rk (k + 1) ∧ m.mode = mode))

/-- R179, R181, R186, R187, R189, R377: the head copy of a queue begins once its joins are done, and one from another device sends READs of up
to 2,048 bytes; a chunk that lands is written and then its map bit is set, in ascending order where the source is in space D; a copy with every chunk landed ends, failed with cause 1 after a poisoned source; a target that refuses a chunk fails it with cause 2; a failing chunk of this device
suspends the copy. Model choices it rests on: log entries 18, 48 and 51. -/
def Obligations.CopyEngine : Prop :=
  ∀ (c : CoreId) (q : Nat) (s : State) (o : CopyOp), (s.core c).headOp q = some o → (s.core c).id = c → s.copyMoves c o = true →
    (o.begun = false → o.joins.any s.joinOpen = false →
      (s.asksFor o = false → exec (.copyBegin c q) s = .next (s.putCore ((s.core c).putCopy { o with begun := true }))) ∧
      (s.asksFor o = true → ∃ s' o' l, exec (.copyBegin c q) s = .next s' ∧ s'.mem = s.mem ∧ (s'.core c).headOp q = some o' ∧
        o'.num = o.num ∧ o'.begun = true ∧ o'.landed = o.landed ∧ s'.fabric.outbox = s.fabric.outbox ++ l ∧
        ∀ r ∈ l, r.kind = .read ∧ r.src = s.deviceId ∧ r.dst = o.srcDev ∧ 1 ≤ r.len ∧ r.len ≤ 2048)) ∧
    (∀ k far sa oa s1 d, o.mayLand k = true → s.ask o = (sa, oa) → prepareChunk sa oa k far = (s1, .ok d) →
      ∃ s', exec (.copyChunkLanded c q k far) s = .next s' ∧
        s'.mem = ((s1.copyPaths oa).writeChunk oa d).mem ∧ (∀ m, o.map = some m → m < 64 → k < 512 →
          (((s'.core c).maps[m]?).getD 0).getLsbD k = true) ∧
        ∃ o', (s'.core c).headOp q = some o' ∧ o'.num = o.num ∧ o'.landed = o.landed ++ [k]) ∧
    (∀ k far s1 e, s.asksFor o = false → prepareChunk s o k far = (s1, .error e) →
      exec (.copyChunkLanded c q k far) s = .next s) ∧
    (∀ j, o.ssp = .d → o.mayLand j = true → j = o.lowest) ∧
    (∀ far t, o.begun = true → o.suspended = false → o.lowest ≠ o.chunks → o.underItem = false → s.someRefused o far = true →
      s.strand? o.owner = some t → ∃ s' t', exec (.copyFail c q far) s = .next s' ∧ (∀ x ∈ (s'.core c).copies, x.num ≠ o.num) ∧
        s'.strand? o.owner = some t' ∧ t'.cp.lastCause = 2 ∧ t'.failed = t.failed ++ [⟨o.num, o.dsp⟩] ∧ s'.mem = s.mem ∧
        ∀ y ∈ (s'.core c).joins, o.num ∈ y.waits → y.mark ≤ o.num → y.failed = true) ∧
    (o.begun = true → o.suspended = false → o.lowest = o.chunks →
      (o.poisoned = false → ∃ s', exec (.copyComplete c q) s = .next s' ∧ s'.mem = s.mem ∧
        ∀ x ∈ (s'.core c).copies, x.num ≠ o.num) ∧
      (∀ far t, o.poisoned = true → s.strand? o.owner = some t → ∃ s' t', exec (.copyFail c q far) s = .next s' ∧
        (∀ x ∈ (s'.core c).copies, x.num ≠ o.num) ∧ s'.strand? o.owner = some t' ∧ t'.cp.lastCause = 1 ∧
        t'.failed = t.failed ++ [⟨o.num, o.dsp⟩])) ∧
    (∀ t s1 x, o.begun = true → o.suspended = false → o.lowest ≠ o.chunks → s.strand? o.owner = some t → t.super = false →
      t.world = 0 → t.frame.isSome = true → prepareChunk s o o.lowest [] = (s1, .error (.trap x)) → s1.strands = s.strands →
      ∃ s' t' y, exec (.copySuspend c q [] ) s = .next s' ∧ s'.strand? o.owner = some t' ∧ t'.pending = t.pending ++ [y] ∧
        y.cause = x.cause ∧ y.matrix = false ∧ s'.mem = s1.mem)

/-- R186 to R189: CMAPWT completes when every named bit is set and else waits for them; CMAPTST answers so, CMAPCLR clears them;
QFENCE opens a join over the copies of the core's queues that have not completed, failed where one has failed since the strand's
last; a join that ends failed sets JOINFAIL; CDRAIN completes when its path is empty; CSTAT reads the copy status. -/
def Obligations.CopyMapsAndFences : Prop :=
  ∀ (x : MapForm) (g : Guard) (d mask : Nat) (path : DrainPath) (clr : Bool) (s : State) (t u : Strand), x.map < 64 →
    let all := ∀ k, k < 512 → namesBit x u k = true → mapBit s u x.map k = true
    (Admits (.cmapwt x) s t u → mapInRange x u → all → exec (.cmapwt x) s = .next (s.complete u)) ∧
    (Admits (.cmapwt x) s t u → mapInRange x u → ¬ all → ∃ mask, exec (.cmapwt x) s =
      .next (s.putStrand { u with wait := some (.cmapwt x.map mask (s.now u.at_)) }) ∧
      ∀ k, k < 512 → bitAt mask k = namesBit x u k) ∧
    (∀ i v m k n, s.strand? i = some v → v.at_ = i → v.wait = some (.cmapwt m k n) → s.mayMove v = true → v.frame = none →
      (∀ b, b < 512 → bitAt k b = true → mapBit s v m b = true) → k < 2 ^ 512 →
      exec (.cmapwtComplete i) s = .next (s.finishWait v)) ∧
    (Admits (.cmaptst x d) s t u → mapInRange x u → (all →
        exec (.cmaptst x d) s = .next (s.complete (u.setP d (2 ^ u.vlmax - 1)))) ∧
      (¬ all → exec (.cmaptst x d) s = .next (s.complete (u.setP d 0)))) ∧
    (Admits (.cmapclr x) s t u → mapInRange x u → ∃ s', exec (.cmapclr x) s = .next s' ∧ ∀ m k, m < 64 → k < 512 →
      mapBit s' u m k = (mapBit s u m k && !(decide (m = x.map) && namesBit x u k))) ∧
    (Admits (.cmapwt x) s t u → ¬ mapInRange x u → exec (.cmapwt x) s = .next (s.trap u ⟨causeBounds, 0, 10⟩)) ∧
    (Admits (.qfence g mask) s t u → ∃ s' u' j, exec (.qfence g mask) s = .next s' ∧ s'.strand? s.focus = some u' ∧
      (s'.core (coreOf u.at_)).joins = (s.core (coreOf u.at_)).joins ++ [j] ∧ j.done = false ∧ j.queues = mask ∧
      j.owner = u.serial ∧ u'.epochJoin = some j.id ∧ u'.pc = u.pc + 8 ∧ u'.fenceFails = [] ∧
      j.failed = u.fenceFails.any (fun f => bitAt mask f.2) ∧
      ∀ n, n ∈ j.waits ↔ ∃ o ∈ s.openCopies (coreOf u.at_), bitAt mask o.q = true ∧ o.num = n) ∧
    (∀ c n j, (s.core c).joins.find? (fun y => y.id == n) = some j → j.done = false →
      (∀ k ∈ j.waits, s.copyOpen k = false) → ∃ s', exec (.qfenceJoinComplete c n) s = .next s' ∧
        (∀ y ∈ (s'.core (s.core c).id).joins, y.id = n → y.done = true) ∧
        ∀ i v, s.strand? i = some v → v.serial = j.owner → ∃ v', s'.strand? i = some v' ∧
          v'.cp.joinFail = (v.cp.joinFail || j.failed)) ∧
    (Admits (.cdrain g d path) s t u → (∀ o ∈ s.openCopies (coreOf u.at_), pathCovers path o.dsp = false) →
      exec (.cdrain g d path) s = .next (s.complete (u.drained d path s.nextCopy))) ∧
    (∀ o ∈ s.openCopies (coreOf u.at_), pathCovers path o.dsp = true → o.num < s.nextCopy →
      Admits (.cdrain g d path) s t u → exec (.cdrain g d path) s =
        .next (s.putStrand { u with wait := some (.cdrain d path s.nextCopy (s.now u.at_)) })) ∧
    (∀ i v n m, s.strand? i = some v → v.wait = some (.cdrain d path n m) → s.mayMove v = true → v.frame = none →
      s.drainBusy v path n = false → exec (.cdrainComplete i) s = .next (s.finishWait (v.drained d path n))) ∧
    (Admits (.cstat g d clr) s t u → exec (.cstat g d clr) s = .next (s.complete (let v := u.setN d (s.cstatWord u)
      if clr then { v with cp := ⟨0, false, 0⟩ } else v)))

/-! ## Work items and channels -/

/-- R196 to R198, R202: DEQ and DEQT wait in their stage's line; the first in it takes the item at the head with its CONFIG and an
empty log; a closed input gives 1, a drain 2 and the limit 0, with a false predicate. ENQ adds an item, or logs it under an item;
WIDX takes a field; CHW and CHWS log bytes of an output. Model choices it rests on: log entry 20. -/
def Obligations.WorkItems : Prop :=
  (∀ (g : Guard) (d a b c k : Nat) (s : State) (t u : Strand),
    (∀ st, Admits (.deq g d c) s t u → u.held = none → s.stage? u.inst = some st → ∃ s' st', exec (.deq g d c) s = .next s' ∧
      s'.strand? u.at_ = some { u with wait := some (.deq d c none (s.now u.at_)) } ∧ s'.stage? u.inst = some st' ∧
      st'.waiters = st.waiters ++ [u.at_] ∧ st'.queue = st.queue) ∧
    (∀ st, Admits (.deqt g d a c) s t u → u.held = none → s.stage? u.inst = some st → ∃ s' st',
      exec (.deqt g d a c) s = .next s' ∧
      s'.strand? u.at_ = some { u with wait := some (.deq d c (some (min (u.rn a) (2 ^ 32))) (s.now u.at_)) } ∧
      s'.stage? u.inst = some st' ∧ st'.waiters = st.waiters ++ [u.at_] ∧ st'.queue = st.queue) ∧
    (Admits (.deq g d c) s t u → u.held.isSome = true → exec (.deq g d c) s = .next (s.trap u ⟨causeBounds, 0, 13⟩)) ∧
    (∀ st, Admits (.enq g a) s t u → s.stage? u.inst = some st → st.channelFed = false → u.rn a < 2 ^ u.workWidth →
      (u.held = none → s.queueUsed st < 4096 → s.owesPkg u = false → Completes (exec (.enq g a) s) u fun s' u' =>
        u'.regs = u.regs ∧ ∃ st', s'.stage? u.inst = some st' ∧ st'.queue = st.queue ++ [⟨u.rs a, none, 0⟩]) ∧
      (∀ h, u.held = some h → h.log.enqs.length < 64 → Completes (exec (.enq g a) s) u fun s' u' =>
        s'.stages = s.stages ∧ ∃ h', u'.held = some h' ∧ h'.item = h.item ∧ h'.log.enqs = h.log.enqs ++ [u.rs a])) ∧
    (∀ st, Admits (.enq g a) s t u → s.stage? u.inst = some st → st.channelFed = true →
      exec (.enq g a) s = .next (s.trap u ⟨causeBounds, 0, 16⟩)) ∧
    (Admits (.widx g d a k) s t u → exec (.widx g d a k) s = .next (s.complete (u.setN d
      (u.rn a / 2 ^ ((u.workWidths.drop (k + 1)).foldl (· + ·) 0) % 2 ^ (u.workWidths.getD k 0))))) ∧
    (∀ h st, u.held = some h → s.stage? u.inst = some st →
      (Admits (.chw g d a) s t u → (h.log.chanBytes d).length + u.vl * (u.ew / 8) ≤ st.outBytes d →
        Completes (exec (.chw g d a) s) u fun s' u' => s'.mem = s.mem ∧ u'.regs = u.regs ∧ ∃ h', u'.held = some h' ∧
          h'.log.chanBytes d = h.log.chanBytes d ++ chwBytes u g a) ∧
      (Admits (.chw g d a) s t u → st.outBytes d < (h.log.chanBytes d).length + u.vl * (u.ew / 8) →
        exec (.chw g d a) s = .next (s.trap u ⟨causeBounds, 0, 15⟩)) ∧
      (∀ s1 bs, Admits (.chws g d a b) s t u → (h.log.chanBytes d).length + u.rn b ≤ st.outBytes d →
        s.loadBytes u checkLoad .l (u.rn a) (u.rn b) = (s1, .ok bs) →
        Completes (exec (.chws g d a b) s) u fun s' u' => s'.mem = s1.mem ∧ u'.regs = u.regs ∧ ∃ h', u'.held = some h' ∧
          h'.log.chanBytes d = h.log.chanBytes d ++ bs)) ∧
    (u.held = none → Admits (.chw g d a) s t u → exec (.chw g d a) s = .next (s.trap u ⟨causeBounds, 0, 13⟩))) ∧
  ∀ (i : SlotId) (s : State) (v : Strand) (st : Stage) (d c n : Nat) (limit : Option Nat), s.strand? i = some v →
    v.wait = some (.deq d c limit n) → v.pending = [] → s.waitMoves v = true → s.stage? v.inst = some st → 0 < d → d < 64 →
    0 < c → c < 16 →
    (∀ it r, st.state = .running → st.queue = it :: r → it.firing = none → st.waiters.head? = some i →
      (∀ l, limit = some l → s.now i - n ≤ l) → WaitEnds (exec (.deqGrant i) s) i v fun s' v' =>
        v'.workid = it.id ∧ v'.rs d = it.id ∧ predIs v' c true ∧ (∃ h, v'.held = some h ∧ h.item = it ∧ h.config = st.config ∧
          h.log = WriteLog.empty) ∧ ∃ st', s'.stage? v.inst = some st' ∧ st'.queue = r ∧ i ∉ st'.waiters) ∧
    (s.inputClosedNow st = true → st.queue = [] → WaitEnds (exec (.deqInputClosed i) s) i v fun _ v' =>
      v'.held = v.held ∧ v'.rs d = 1 ∧ predIs v' c false) ∧
    (s.inputClosedNow st = false → st.state = .stoppingDrain → WaitEnds (exec (.deqInputClosed i) s) i v fun _ v' =>
      v'.held = v.held ∧ v'.rs d = 2 ∧ predIs v' c false) ∧
    (∀ l, limit = some l → l ≤ s.now i - n → (s.now i - n = l → st.queue = [] ∨ i ∉ st.waiters) →
      s.inputClosedNow st = false → st.state = .running →
      WaitEnds (exec (.deqtTimeout i) s) i v fun _ v' => v'.held = v.held ∧ v'.rs d = 0 ∧ predIs v' c false)

/-- R200, R201, R204, R205, R240: COMMIT performs the log of the item at one instant, adds its ENQs and frees the strand of the item. With
space-D writes it first sends them HELD and waits; then it publishes and sends PERFORM to every target, or, where a target refuses, ends
the held parts and raises REMOTE with the item still held; logged SPACCs leave for their homes, and the COMMIT waits for them.
ABORT gives the item back with one more REPLAY, or retires it; SWITCH logs a token; CHSTAT reads the item, an input or CONFIG.
Model choices it rests on: log entries 13, 51 and 52. -/
def Obligations.CommitAndAbort : Prop :=
  (∀ (s : State) (u : Strand) (h : Held) (st : Stage) (n : Nat), s.strand? u.at_ = some u → u.held = some h →
    s.stage? u.inst = some st → memWf s.mem = true → s.loggedAll u = true → s.enqsFit st h.log = true → s.outsFit st h = true →
    s.owesPkg u = false → u.refusals = [] → st.countsOk h.log = true → h.log.pod = [] → h.log.spaccs = [] → u.frame = none →
    u.pending = [] → (h.log.mem.map (·.1)).Nodup →
    ∃ s' u' st', s.commitStep u [] none 0 n = s' ∧ s'.strand? u.at_ = some u' ∧ u'.held = none ∧ u'.workid = 0 ∧
      u'.pc = u.pc + 8 ∧ u'.regs.s = u.regs.s ∧ s'.stage? u.inst = some st' ∧ st'.committed = st.committed + 1 ∧
      st'.queue = st.queue ++ h.log.enqs.map (fun id => ⟨id, none, 0⟩) ∧
      (∀ b ∈ h.log.mem, memGet s'.mem b.1 = b.2) ∧ ∀ pa, (∀ b ∈ h.log.mem, b.1 ≠ pa) → memGet s'.mem pa = memGet s.mem pa) ∧
  (∀ (s : State) (u : Strand) (h : Held) (st : Stage) (p : PodWorld) (n : Nat), s.strand? u.at_ = some u → u.held = some h →
    s.stage? u.inst = some st → s.podWorldOf u.world = some p →
    let goes := s.loggedAll u = true ∧ s.enqsFit st h.log = true ∧ s.outsFit st h = true ∧ u.refusals = [] ∧ st.countsOk h.log = true
    let sent := fun (s' : State) (kind : RemoteKind) => s'.fabric.outbox = s.fabric.outbox ++ h.log.targets.map fun d =>
      ⟨s.deviceId, d, p.num, kind, 0, 0, u.lastTag, []⟩
    (goes → h.log.pod ≠ [] → s.owesAt u .pod allStreams = false →
      (∀ w ∈ h.log.pod, s.unreachableTo w.dev = false ∧ s.fabric.member ≠ some w.dev) →
      let s' := s.commitStep u [] none 0 n
      s'.mem = s.mem ∧ s'.stages = s.stages ∧ s'.strand? u.at_ = some { u with
        nextReq := u.nextReq + 1, wait := some (.commit (h.log.pod.map PodWrite.dev) none 1 false n) } ∧
      s'.fabric.outbox = s.fabric.outbox ++ h.log.pod.map fun w =>
        ⟨s.deviceId, w.dev, p.num, .held, w.va, w.data.length, u.lastTag + 1, toNats w.data⟩) ∧
    (h.log.targets ≠ [] → (∀ d ∈ h.log.targets, s.fabric.member ≠ some d) →
      (memWf s.mem = true → (h.log.mem.map (·.1)).Nodup → ∃ u' st', let s' := s.commitStep u [] none 1 n
        s'.strand? u.at_ = some u' ∧ u'.held = none ∧ u'.workid = 0 ∧ u'.pc = u.pc ∧
        u'.wait = some (.commit h.log.targets none 2 true n) ∧ s'.stage? u.inst = some st' ∧ st'.committed = st.committed + 1 ∧
        (∀ b ∈ h.log.mem, memGet s'.mem b.1 = b.2) ∧ (∀ pa, (∀ b ∈ h.log.mem, b.1 ≠ pa) → memGet s'.mem pa = memGet s.mem pa) ∧
        sent s' .perform) ∧
      (∀ va c, c < 256 → u.super = false → ∃ u' f, let s' := s.commitStep u [] (some (va, c)) 1 n
        s'.strand? u.at_ = some u' ∧ u'.held = some h ∧ u'.frame = some f ∧ f.cause = 0x14 ∧ f.addr = BitVec.ofNat 64 va ∧
        f.info = BitVec.ofNat 64 c ∧ s'.mem = s.mem ∧ sent s' .discard)) ∧
    (goes → h.log.pod = [] → h.log.spaccs ≠ [] → s.owesPkg u = false → ∃ u', let s' := s.commitStep u [] none 0 n
      s'.strand? u.at_ = some u' ∧ u'.held = none ∧ u'.wait = some (.commit [] none 2 true n) ∧
      s'.posted = s.posted ++ h.log.spaccs.map fun x => ⟨u.at_, u.launch, x.1, .acc x.2⟩)) ∧
  ∀ (g : Guard) (d a : Nat) (s : State) (t u : Strand) (st : Stage), s.stage? u.inst = some st →
    (∀ i v n, s.strand? i = some v → v.wait = some (.commit [] none 2 true n) → v.frame = none → s.postedBy v = false →
      exec (.commitPublish i) s = .next (s.finishWait v)) ∧
    (∀ h, Admits (.commit g) s t u → u.held = some h →
      exec (.commit g) s = .next ((s.clearStalls st u.at_).commitStep u [] none 0 (s.now u.at_))) ∧
    (u.held = none → (Admits (.commit g) s t u → exec (.commit g) s = .next (s.trap u ⟨causeBounds, 0, 13⟩)) ∧
      (∀ drop, Admits (.abort g drop) s t u → exec (.abort g drop) s = .next (s.trap u ⟨causeBounds, 0, 13⟩))) ∧
    (∀ i v n, s.strand? i = some v → v.wait = some (.commit [] none 0 false n) → s.waitMoves v = true →
      exec (.commitPublish i) s = .next (s.commitStep v [] none 0 n)) ∧
    (∀ h, Admits (.abort g false) s t u → u.held = some h → Completes (exec (.abort g false) s) u fun s' u' =>
      u'.held = none ∧ u'.workid = 0 ∧ u'.regs.s = u.regs.s ∧ s'.mem = s.mem ∧ ∃ st', s'.stage? u.inst = some st' ∧
        st'.queue = { h.item with replay := min 65535 (h.item.replay + 1) } :: st.queue) ∧
    (∀ h, Admits (.abort g true) s t u → u.held = some h → st.channelFed = false → Completes (exec (.abort g true) s) u
      fun s' u' => u'.held = none ∧ u'.regs.s = u.regs.s ∧ s'.mem = s.mem ∧ s'.stages = s.stages) ∧
    (∀ h, Admits (.switch g a) s t u → u.held = some h → st.channelFed = false → Completes (exec (.switch g a) s) u fun s' u' =>
      s'.stages = s.stages ∧ ∃ h', u'.held = some h' ∧ h'.log.switch = some (u.rs a) ∧ h'.log.mem = h.log.mem) ∧
    (Admits (.switch g a) s t u → st.channelFed = true → exec (.switch g a) s = .next (s.trap u ⟨causeBounds, 0, 16⟩)) ∧
    (∀ sel, Admits (.chstat g d sel) s t u → exec (.chstat g d sel) s = .next (s.complete (u.setN d (match sel with
      | .item => (if u.held.isSome then 2 ^ 63 else 0) + (if s.inputClosedNow st then 2 ^ 62 else 0) +
          (match u.held with | some h => h.item.replay * 2 ^ 32 + min 4096 h.log.sectors.length | none => 0)
      | .inp n => s.inputWord u n
      | .cfg => (match u.held with | some h => h.config.toNat | none => st.currentConfig.toNat)))))

/-- R206 to R208, R309: barriers count arrivals and complete generations; SIGWAIT completes when its location differs from the
comparand or its bound has passed, and SIGWAKE wakes the sleepers on its sector; WATCHDOG ends a wait of 2^32 local cycles.
Model choices it rests on: log entry 47. -/
def Obligations.BarriersAndSignals : Prop :=
  (∀ (g : Guard) (d a c : Nat) (s : State) (t u : Strand) (l : Launch), u.held = none → s.launch? u.launch = some l →
    (Admits (.bari g a c) s t u → (l.bar c).arrived = 0 → 1 ≤ u.rn a → u.rn a ≤ 65535 → exec (.bari g a c) s =
      .next ((s.putLaunch (l.setBar c { l.bar c with count := u.rn a })).complete u)) ∧
    (Admits (.bari g a c) s t u → ((l.bar c).arrived ≠ 0 ∨ u.rn a = 0 ∨ 65535 < u.rn a) →
      exec (.bari g a c) s = .next (s.trap u ⟨causeBounds, 0, 17⟩)) ∧
    (Admits (.bara g d c) s t u → (l.bar c).count ≠ 0 → s.owesPkg u = false → exec (.bara g d c) s =
      .next ((s.putLaunch (l.setBar c (if (l.bar c).arrived + 1 = (l.bar c).count
        then { l.bar c with arrived := 0, gen := ((l.bar c).gen + 1) % 2 ^ 32 }
        else { l.bar c with arrived := (l.bar c).arrived + 1 }))).complete (u.setN d (l.bar c).gen))) ∧
    (Admits (.barw g a c) s t u → (l.bar c).gen < 2 ^ 32 →
      let ahead := (BitVec.ofNat 32 (l.bar c).gen - (u.rs a).setWidth 32).toNat
      (1 ≤ ahead → ahead ≤ 2 ^ 31 → exec (.barw g a c) s = .next (s.complete u)) ∧
      (ahead = 0 ∨ 2 ^ 31 < ahead → exec (.barw g a c) s =
        .next (s.putStrand { u with wait := some (.barw c (u.rn a % 2 ^ 32) (s.now u.at_)) })))) ∧
  (∀ (x : MemForm) (acq : Bool) (s s1 : State) (t u : Strand) (bs : List Byte), ea0 x u % szBytes x.sz = 0 →
    (Admits (.sigwait x acq) s t u → s.owesSector u x.sp 0 = false →
      s.loadBytes u checkLoad x.sp (ea0 x u) (szBytes x.sz) = (s1, .ok bs) →
      let want := u.rn x.b % 2 ^ (8 * szBytes x.sz)
      (leValue bs ≠ want → u.frame = none → u.pending = [] → u.wait = none → x.d < 16 → 0 < x.d →
        Completes (exec (.sigwait x acq) s) u fun s' u' => u'.wait = none ∧ predIs u' x.d true ∧ s'.mem = s1.mem) ∧
      (leValue bs = want → exec (.sigwait x acq) s = .next (s1.putStrand
        { u with wait := some (.sigwait x.sp x.d (ea0 x u) (szBytes x.sz) want acq false (s.now u.at_)) }))) ∧
    (∀ ls, Admits (.sigwake x) s t u → s.owesAt u (spaceScope x.sp) allStreams = false →
      checkAccess s u.party checkSigwake x.sp (ea0 x u) 1 = (s1, .ok ls) → Completes (exec (.sigwake x) s) u fun s' u' =>
        u'.regs = u.regs ∧ s'.mem = s1.mem ∧ ∀ v, v.at_ ≠ u.at_ → s1.strand? v.at_ = some v → v.world = u.world →
          s1.sleepsOn v (s1.sectorOf u.party x.sp (ea0 x u)) = true → s'.strand? v.at_ = some v.woken)) ∧
  ∀ (i : SlotId) (s : State) (v : Strand), s.strand? i = some v → v.pending = [] → s.waitMoves v = true →
    (∀ b n m l, v.wait = some (.barw b n m) → s.launch? v.launch = some l → (l.bar b).passed n = true →
      WaitEnds (exec (.barwComplete i) s) i v fun _ v' => v'.regs = v.regs) ∧
    (∀ sp d e n want acq m s1 bs, v.wait = some (.sigwait sp d e n want acq true m) → s.loadBytes v checkLoad sp e n = (s1, .ok bs) →
      leValue bs ≠ want → 0 < d → d < 16 → WaitEnds (exec (.sigwaitWake i) s) i v fun _ v' => predIs v' d true) ∧
    (∀ sp d e n want acq w m s1 bs, v.wait = some (.sigwait sp d e n want acq w m) →
      s.loadBytes v checkLoad sp e n = (s1, .ok bs) → 2 ^ 20 ≤ s.now i - m → 0 < d → d < 16 →
      WaitEnds (exec (.sigwaitTimeout i) s) i v fun _ v' => predIs v' d (decide (leValue bs ≠ want))) ∧
    (∀ w op m, v.wait = some w → w.watched = some (op, m) → 2 ^ 32 ≤ s.now i - m → exec (.watchdogExpiry i) s =
      .next ((s.dropWaiter v).trap { v with wait := none } ⟨0x16, 0, op⟩))

/-- R193, R203, R204, R24, R305: a ready firing enters the queue in order; its packets arrive one by one; a stalled channel detaches
the consumers that lag; a token arrives behind its bytes; banks retain and wake; a strand that waits 48 cycles is urgent.
Model choices it rests on: log entry 35. -/
def Obligations.ChannelsAndBanks : Prop :=
  (∀ (inst : Nat) (s : State) (st : Stage), s.stage? inst = some st → st.channelFed = true → st.state = .running →
    st.nextFiring < s.readyFirings st → st.queue.length < 4096 → exec (.firingReady inst) s = .next (s.putStage { st with
      queue := st.queue ++ [⟨BitVec.ofNat 64 st.nextFiring, some st.nextFiring, 0⟩], nextFiring := st.nextFiring + 1 })) ∧
  (∀ (i : SlotId) (q n : Nat) (s : State) (v : Strand) (h : Held) (st : Stage) (c : Chan) (k : Consumer), q < 16 →
    s.strand? i = some v → v.held = some h → s.stage? v.inst = some st → h.item.firing = some n → s.inChan st q = some c →
    c.consumerOf st.id q = some k → v.phase = .live → k.detached = false → v.consumed = [] → ((v.regs.q[q]?).getD []) = [] →
    0 < k.packets → exec (.channelPacketArrival i q) s = .next (s.putStrand (({ v with regs := { v.regs with
      q := v.regs.q.setIfInBounds q [BitVec.ofNat 2048 (leValue ((c.buf.drop (n * k.bytes - c.base)).take (min 256 k.bytes)))] } } :
      Strand).unstall .packets (s.now i)))) ∧
  (∀ (ch : Nat) (s : State) (c : Chan) (k : Consumer), s.chan? ch = some c → 2 ≤ c.consumers.length → k ∈ c.consumers →
    c.lags k = true → s.stalledOut c k = true → ∃ s' c', exec (.channelDetach ch) s = .next s' ∧ s'.chan? ch = some c' ∧
      c'.consumers = c.consumers.map (fun y => if c.lags y && s.stalledOut c y then { y with detached := true } else y) ∧
      s'.mem = s.mem) ∧
  (∀ (inst q : Nat) (s : State) (st : Stage) (c : Chan) (k : Consumer) (pos : Nat) (v : Word) (r : List (Nat × Word)),
    s.stage? inst = some st → s.inChan st q = some c → c.consumerOf inst q = some k → k.tokens = (pos, v) :: r →
    k.arrived = [] → pos ≤ c.total → st.id = inst → 1 < st.decls.nin →
    (∀ y ∈ (s.inputs st), y.2.arrived = []) → (st.ins.map (·.1)).Nodup →
    exec (.switchTokenArrival inst q) s =
      .next (s.putChan (c.mapConsumer inst q fun k => { k with tokens := r, arrived := [(pos, v)] }))) ∧
  (∀ (c : CoreId) (n : Nat) (s : State) (b : Bank), (s.core c).banks[n]? = some b →
    (b.state = .powered → s.retentionAfter ≤ (s.core c).cycle.toNat - b.last → exec (.bankRetentionEntry c n) s =
      .next (s.putCore { s.core c with banks := (s.core c).banks.setIfInBounds n { b with state := .retention } })) ∧
    (∀ m, b.state = .waking m → ∃ s', exec (.bankWake c n) s = .next s' ∧ s'.cores = (s.putCore { s.core c with
      banks := (s.core c).banks.setIfInBounds n ⟨.powered, (s.core c).cycle.toNat⟩ }).cores ∧
      ∀ i v, coreOf i = c → s'.strand? i = some v → v.bankStall = false)) ∧
  (∀ (i : SlotId) (s : State) (v : Strand), s.strand? i = some v → v.phase = .live → v.wait = none → v.frame = none →
    v.bankStall = false → v.heldUp = false → s.engineHalted v = false → 48 ≤ s.now i - max v.readyAt v.lastIssue →
    exec (.strandUrgent i) s = .next (s.putStrand { v with urgent := true }))

/-! ## Stipple -/

/-- R227: the visit order is a bijection on the items below N: every position visits an item below N, and no two visit the same. -/
def Obligations.VisitOrder : Prop :=
  ∀ n seed : Nat, 1 ≤ n → n ≤ 2 ^ 40 →
    (∀ p, p < n → permAt n seed p < n) ∧ ∀ p q, p < n → q < n → permAt n seed p = permAt n seed q → p = q

/-- R230 to R238, R240: the Stipple instructions post or send their operation, or log it under an item; each arrives at the
estimator's home and has its effect there: a new run, a parameter, a position, a value accepted or discarded, a register read, a stop;
SPWAIT ends with the stop, or with its limit. Model choices it rests on: log entry 42. -/
def Obligations.StippleUnit : Prop :=
  (∀ (g : Guard) (d a b c : Nat) (fin f32 : Bool) (par : EstParam) (sel : EstReg) (s : State) (t u : Strand) (e : Est),
    s.est? u.launch c = some e →
    let v := if f32 then convert .f32 .f64 .rne false (u.rn a % 2 ^ 32) else (u.rn a, 0)
    let posts := fun (op : StipOp) =>
      (.next (({ s with posted := s.posted ++ [⟨u.at_, u.launch, c, op⟩] } : State).complete u) : Out)
    (Admits (.spinit g a b c fin) s t u → 1 ≤ u.rn a → u.rn a ≤ 2 ^ 40 →
      exec (.spinit g a b c fin) s = posts (.init (u.rn a) (u.rn b) fin)) ∧
    (Admits (.spinit g a b c fin) s t u → u.rn a = 0 ∨ 2 ^ 40 < u.rn a →
      exec (.spinit g a b c fin) s = .next (s.trap u ⟨causeBounds, 0, 18⟩)) ∧
    (Admits (.sptol g a c par) s t u → exec (.sptol g a c par) s = posts (.tol par (u.rn a))) ∧
    (Admits (.spstop g c) s t u → exec (.spstop g c) s = posts .stop) ∧
    (Admits (.spnext g d b c) s t u → exec (.spnext g d b c) s =
      .next (s.putStrand { u with wait := some (.spnext c d b) })) ∧
    (Admits (.spstat g d c sel) s t u → exec (.spstat g d c sel) s =
      .next (s.putStrand { u with wait := some (.spstat c d sel) })) ∧
    (s.owesOwn u allStreams = false → u.held = none →
      (Admits (.spacc g 0 a c f32) s t u → exec (.spacc g 0 a c f32) s =
        .next (({ s with posted := s.posted ++ [⟨u.at_, u.launch, c, .acc v.1⟩] } : State).complete (u.orFlags v.2))) ∧
      (Admits (.spacc g d a c f32) s t u → d ≠ 0 → ∃ s' u', exec (.spacc g d a c f32) s = .next s' ∧
        s'.strand? u.at_ = some u' ∧ u'.wait = some (.spacc c d v.1) ∧ u'.pc = u.pc)) ∧
    (∀ h, s.owesOwn u allStreams = false → u.held = some h →
      (Admits (.spacc g 0 a c f32) s t u → Completes (exec (.spacc g 0 a c f32) s) u fun s' u' =>
        s'.posted = s.posted ∧ ∃ h', u'.held = some h' ∧ h'.log.spaccs = h.log.spaccs ++ [(c, v.1)]) ∧
      (Admits (.spacc g d a c f32) s t u → d ≠ 0 → exec (.spacc g d a c f32) s = .next (s.trap u ⟨causeBounds, 0, 20⟩))) ∧
    (s.owesOwn u allStreams = true → Admits (.spacc g d a c f32) s t u →
      exec (.spacc g d a c f32) s = .next (s.stall u .other)) ∧
    (Admits (.spwait g d a c) s t u → s.ownOnWay u c = false → e.init = true →
      (e.stop = true → exec (.spwait g d a c) s = .next (s.complete (u.setP d (2 ^ u.vlmax - 1)))) ∧
      (e.stop = false → exec (.spwait g d a c) s = .next (s.putStrand { u with wait := some (.spwait c d e.epoch
        (if u.rn a = 0 then none else some (min (u.rn a) (2 ^ 32))) (s.now u.at_)) })))) ∧
  (∀ (i : SlotId) (n : Nat) (s : State) (p : Posted) (e : Est) (t : Strand), s.nextPosted i n = some p →
    s.est? p.launch n = some e →
    let after := fun (o : Out) (f : Est → Prop) => ∃ s' e', o = .next s' ∧ s'.est? p.launch n = some e' ∧ f e' ∧
      s'.posted = s.posted.erase p ∧ s'.mem = s.mem
    (∀ k seed fin, p.op = .init k seed fin → after (exec (.spinitArrive i n) s) fun e' =>
      e'.count = 0 ∧ e'.mean = 0 ∧ e'.m2 = 0 ∧ e'.pos = 0 ∧ e'.disc = 0 ∧ e'.issued = 0 ∧ e'.seed = seed ∧ e'.dom = k ∧
      e'.stop = false ∧ e'.init = true ∧ e'.fin = fin ∧ e'.epoch = (e.epoch + 1) % 2 ^ 32) ∧
    (∀ v, p.op = .tol .tol v → after (exec (.sptolArrive i n) s) fun e' => e' = { e with tol := v }) ∧
    (∀ v, p.op = .tol .nmin v → after (exec (.sptolArrive i n) s) fun e' => e' = { e with nmin := max 2 (min v (2 ^ 40)) }) ∧
    (p.op = .stop → e.init = true → after (exec (.spstopArrive i n) s) fun e' => e'.stop = true ∧ e'.count = e.count ∧
      (e.stop = false → e'.cause = 2)) ∧
    (∀ v, p.op = .acc v → e.init = true → s.strand? i = some t → t.wait = none → after (exec (.spaccArrive i n) s) fun e' =>
      (e.stop = true → e' = { e with disc := (e.disc + 1) % 2 ^ 64 }) ∧ (e.stop = false → e'.count = e.count + 1))) ∧
  ∀ (i : SlotId) (s : State) (v : Strand) (e : Est) (n d b : Nat), s.strand? i = some v → v.pending = [] → v.frame = none →
    s.est? v.launch n = some e → s.ownOnWay v n = false →
    (v.wait = some (.spnext n d b) → e.init = true → 0 < d → d < 64 → 0 < b → b < 16 →
      (e.stop = true → WaitEnds (exec (.spnextArrive i) s) i v fun s' v' =>
        v'.rs d = BitVec.allOnes 64 ∧ predIs v' b false ∧ s'.est? v.launch n = some e) ∧
      (e.stop = false → e.pos ≠ e.dom → WaitEnds (exec (.spnextArrive i) s) i v fun s' v' =>
        v'.rn d = permAt e.dom e.seed e.pos % 2 ^ 64 ∧ predIs v' b true ∧ s'.est? v.launch n =
          some { e with pos := e.pos + 1, issued := (e.issued + 1) % 2 ^ 64 }) ∧
      (e.stop = false → e.pos = e.dom → WaitEnds (exec (.spnextArrive i) s) i v fun _ v' =>
        v'.rn d = 2 ^ 64 - 2 ∧ predIs v' b false)) ∧
    (∀ sel, v.wait = some (.spstat n d sel) → exec (.spstatArrive i) s = .next (s.finishWait (v.setN d (e.get sel)))) ∧
    (∀ x, v.wait = some (.spacc n d x) → s.postedBy v = false → e.init = true → 0 < d → d < 16 →
      WaitEnds (exec (.spaccArrive i n) s) i v fun _ v' => predIs v' d (!e.stop)) ∧
    (∀ ep l m, v.wait = some (.spwait n d ep (some l) m) → s.waitMoves v = true → l < s.now i - m → 0 < d → d < 16 →
      WaitEnds (exec (.spwaitTimeout i) s) i v fun _ v' => predIs v' d false) ∧
    (∀ ep l m, v.wait = some (.spwait n d ep l m) → e.casts = [(i.die, ep, false)] → 0 < d → d < 16 →
      (∀ w ∈ s.strands, w ≠ v → w.spwaits v.launch n ep = none) →
      WaitEnds (exec (.stopBroadcastReceive v.launch n i.die) s) i v fun s' v' =>
        predIs v' d (l.all fun l' => decide (s.now i - m ≤ l')) ∧
        ∃ e', s'.est? v.launch n = some e' ∧ e'.casts = [] ∧ e'.count = e.count)

/-! ## Sessions -/

/-- R275 to R286: a record that CENC makes decrypts to its plaintext. The session instructions check their operands and wait for the
session engine; CDEC accepts a fresh counter and a right tag and else writes zeros with a false predicate; CENC writes the record under the
next counter; USAGE adds, saturating; SESSINFO reads; GRCHK answers; the Hallmark opens, keys, closes and collects slots, and signs 96
bytes over a record. Model choices it rests on: log entries 5, 44 and 61. -/
def Obligations.Sessions : Prop :=
  (∀ (x : Session) (ctr : Nat) (plain : List Byte), ctr < 2 ^ 64 → x.decrypt (x.record ctr plain) plain.length = some plain) ∧
  (∀ (g : Guard) (d a b c p q sel : Nat) (sp : Space) (s s1 : State) (t u : Strand) (x : Session) (ls : List Loc × List Loc),
    (s.slotFor u.world (u.rn c) = some x → 0 < u.rn b → u.rn b ≤ 65536 → s.owesOwn u allStreams = false →
      s.cdecChecks u (u.rn d) (u.rn a) (u.rn b) = (s1, .ok ls) → Admits (.cdec g d a b c p q) s t u →
      exec (.cdec g d a b c p q) s = .next (s1.putStrand
        { u with wait := some (.cdec (u.rn d) (u.rn a) (u.rn b) x.slot p q s.nextCopy) })) ∧
    (s.slotFor u.world (u.rn c) = some x → 0 < u.rn b → u.rn b ≤ 65536 → x.bufferFits (u.rn d) (u.rn b) = true → u.held = none →
      s.owesOwn u allStreams = false → s.cencChecks u (u.rn d) (u.rn a) (u.rn b) = (s1, .ok ls) → Admits (.cenc g d a b c q) s t u →
      exec (.cenc g d a b c q) s = .next (s1.putStrand
        { u with wait := some (.cenc (u.rn d) (u.rn a) (u.rn b) x.slot q s.nextCopy) })) ∧
    (s.owesOwn u allStreams = false → s.slotFor u.world (u.rn c) = none → (Admits (.cdec g d a b c p q) s t u →
        exec (.cdec g d a b c p q) s = .next (s.trap u ⟨causeBounds, 0, 21⟩)) ∧
      (Admits (.cenc g d a b c q) s t u → exec (.cenc g d a b c q) s = .next (s.trap u ⟨causeBounds, 0, 21⟩))) ∧
    (s.slotFor u.world (u.rn a) = some x →
      (Admits (.usage g d a b) s t u → u.held = none → exec (.usage g d a b) s =
        .next (s.putStrand { u with wait := some (.usage d x.slot (u.rn b)) })) ∧
      (∀ h, Admits (.usage g 0 a b) s t u → u.held = some h → Completes (exec (.usage g 0 a b) s) u fun s' u' =>
        s'.sessions = s.sessions ∧ ∃ h', u'.held = some h' ∧ h'.log.sess = h.log.sess ++ [.usage x.slot u.world (u.rn b)]) ∧
      (Admits (.usage g d a b) s t u → d ≠ 0 → u.held.isSome = true →
        exec (.usage g d a b) s = .next (s.trap u ⟨causeBounds, 0, 23⟩)) ∧
      (Admits (.sessinfo g d a sel) s t u → exec (.sessinfo g d a sel) s =
        .next (s.putStrand { u with wait := some (.sessinfo d x.slot sel) }))) ∧
    (Admits (.grchk g d a sp) s t u → exec (.grchk g d a sp) s =
      .next (s.complete (u.setP d (if s.grottoUsable u sp (u.rn a) then 2 ^ u.vlmax - 1 else 0))))) ∧
  (∀ (i : SlotId) (s s1 : State) (v : Strand) (x : Session) (n d a p q before sl m : Nat) (src dst : List Loc), s.strand? i = some v →
    v.pending = [] → v.frame = none → s.slotFor v.world sl = some x → x.pendKey = none → x.state = .opened →
    s.queueBusy v q before = false → x.invoc < 2 ^ 31 → v.held = none →
    let req := src.map (s1.byteAt [])
    let ctr := beNat (req.take 8)
    let writes := fun (s' : State) (bs : List Byte) => ∀ l, s'.byteAt [] l = (s1.storeAt dst bs).byteAt [] l
    let refused := fun (s' : State) (v' : Strand) => predIs v' p false ∧ (s'.session sl).rxhi = x.rxhi ∧ writes s' (List.replicate n 0)
    (v.wait = some (.cdec d a n sl p q before) → s.cdecChecks v d a n = (s1, .ok (src, dst)) → 0 < p → p < 16 →
      (∀ text, x.rxhi < ctr → ctr < 2 ^ 63 → x.decrypt req n = some text → WaitEnds (exec (.cdecService i) s) i v fun s' v' =>
        predIs v' p true ∧ v'.regs.s = v.regs.s ∧ (s'.session sl).rxhi = ctr ∧ (s'.session sl).invoc = x.invoc + 1 ∧ writes s' text) ∧
      (x.rxhi < ctr → ctr < 2 ^ 63 → x.decrypt req n = none → WaitEnds (exec (.cdecService i) s) i v fun s' v' =>
        refused s' v' ∧ (s'.session sl).invoc = x.invoc + 1) ∧
      (ctr ≤ x.rxhi ∨ 2 ^ 63 ≤ ctr → WaitEnds (exec (.cdecService i) s) i v fun s' v' =>
        refused s' v' ∧ (s'.session sl).invoc = x.invoc)) ∧
    (v.wait = some (.cenc d a n sl q before) → s.cencChecks v d a n = (s1, .ok (src, dst)) →
      WaitEnds (exec (.cencService i) s) i v fun s' v' => v'.regs = v.regs ∧ (s'.session sl).txctr = x.txctr + 1 ∧
        (s'.session sl).invoc = x.invoc + 1 ∧ writes s' (x.record (2 ^ 63 + (x.txctr + 1)) req)) ∧
    (v.wait = some (.usage d sl m) → d < 64 → 0 < d → WaitEnds (exec (.usageService i) s) i v fun s' v' =>
      v'.rn d = min (x.usage + m) (2 ^ 64 - 1) ∧ (s'.session sl).usage = min (x.usage + m) (2 ^ 64 - 1)) ∧
    (v.wait = some (.sessinfo d sl m) → exec (.sessinfoService i) s = .next (s.finishWait (v.setN d
      (if m = 0 then x.word else if m = 1 then x.usage else if m = 2 then x.rxhi else x.txctr))))) ∧
  ∀ (s : State) (sl k f va cap w : Nat), sl < 1024 →
    let x := s.session sl;
    (x.state = .free → (s.world? w).isSome = true → exec (.sessionOpen sl w k f) s = .next (s.putSession { Session.reset sl with
      state := .opened, world := w, key := k % 2 ^ 256, fixed := f % 2 ^ 32, kepoch := 1, seq := x.seq })) ∧
    (x.state = .opened → exec (.pendingKeyProgram sl k true) s = .next (s.putSession { x with pendKey := some (k % 2 ^ 256) })) ∧
    exec (.pendingKeyProgram sl k false) s = .next s ∧
    (x.state = .opened → x.buffers.length < 4 → 40 ≤ cap → cap ≤ 2 ^ 20 →
      (worldRuns s x.world windowPage (cap / 65536 + 2) va cap).isSome = true → exec (.replyBufferRegister sl va cap) s =
        .next (s.putSession { x with buffers := x.buffers ++ [(va, cap)] })) ∧
    (x.state = .opened → ∃ s', exec (.sessionClose sl) s = .next s' ∧ (s'.session sl).state = .closed ∧
      (s'.session sl).key = 0 ∧ s'.mem = s.mem) ∧
    (x.state = .opened → x.final = false → ∃ s', exec (.usageRecordRequest sl) s = .next s' ∧
      (s'.session sl).seq = x.seq + 1 ∧ ∃ bs, bs.length = 24 ∧
        s'.hallmark.signed = s.hallmark.signed ++ [bs ++ beBytes 96 (Config.identitySign bs)]) ∧
    (x.state = .closed → exec (.usageRecordCollect sl) s = .next (s.putSession { Session.reset sl with seq := x.seq }))

/-! ## Pod, leases and links -/

/-- R331, R335, R339 to R346: a manifest that the Hallmark accepts forms the pod; pod worlds and groups are registered. LEASE grants at
most what is asked for, what the quota leaves and what is free, and UNLEASE gives back; LEASEQ and PODID read. The controller serves the oldest
entry, marks ended terms revocable, and revokes. Model choices it rests on: log entry 27. -/
def Obligations.PodAndLeases : Prop :=
  (∀ (g : Guard) (d a b : Nat) (nw : Bool) (s : State) (t u : Strand) (p : PodWorld),
    let dst := u.rn a % 2048
    let port := s.portTo dst
    let k := u.rn b
    (s.podTarget u.world dst = some p → dst ≠ s.deviceId → s.leaseStopped port = false → port ≠ noPort →
      (1 ≤ k → k ≤ 128 → Admits (.lease g d a b nw) s t u → ∃ q n, exec (.lease g d a b nw) s =
        .next ((s.settlePort q).complete (u.setN d n)) ∧ n ≤ k ∧ n ≤ (s.port port).quota - (s.port port).claimed u.world ∧
        n = min (min k ((s.port port).quota - (s.port port).claimed u.world))
          (if (s.port port).pendList.isEmpty && !s.unreachableTo dst then ((s.port port).freeWaves (s.pool port)).length else 0)) ∧
      (k = 0 ∨ 128 < k → Admits (.lease g d a b nw) s t u →
        exec (.lease g d a b nw) s = .next (s.trap u ⟨causeBounds, 0, 26⟩)) ∧
      (∀ l, Admits (.unlease g d a b) s t u → (s.port port).lease u.world dst = some l →
        (k = 0 → ∃ q, exec (.unlease g d a b) s = .next ((s.settlePort q).complete (u.setN d 0))) ∧
        (0 < k → l.waves.Nodup →
          ∃ q, exec (.unlease g d a b) s = .next ((s.settlePort q).complete (u.setN d (l.waves.length - k))))) ∧
      (∀ l, Admits (.leaseq g d a) s t u → (s.port port).lease u.world dst = some l →
        exec (.leaseq g d a) s = .next (s.complete (u.setN d (l.word port s.pkgCycle))))) ∧
    (s.podTarget u.world dst = none ∨ dst = s.deviceId →
      (Admits (.lease g d a b nw) s t u → exec (.lease g d a b nw) s = .next (s.trap u ⟨causeBounds, 0, 25⟩)) ∧
      (Admits (.unlease g d a b) s t u → exec (.unlease g d a b) s = .next (s.trap u ⟨causeBounds, 0, 25⟩)) ∧
      (Admits (.leaseq g d a) s t u → exec (.leaseq g d a) s = .next (s.trap u ⟨causeBounds, 0, 25⟩))) ∧
    (∀ m, s.fabric.member = some m → s.podWorldOf u.world = some p →
      (Admits (.podid g d a 0) s t u → exec (.podid g d a 0) s = .next (s.complete (u.setN d (2 ^ 32 + s.fabric.podId)))) ∧
      (∀ r, Admits (.podid g d a 1) s t u → s.routeTo dst = some r →
        exec (.podid g d a 1) s = .next (s.complete (u.setN d r.word))) ∧
      (Admits (.podid g d a 2) s t u → exec (.podid g d a 2) s =
        .next (s.complete (u.setN d (if p.members.contains dst then 1 else 0)))) ∧
      (Admits (.podid g d a 3) s t u → exec (.podid g d a 3) s = .next (s.complete (u.setN d p.members.length))))) ∧
  (∀ (m : Manifest) (e : ManifestEntry) (s : State), manifestOk m = true → s.fabric.off = false →
    manifestEntry m m.self = some e → ∃ s', exec (.manifestDelivery m) s = .next s' ∧ s'.fabric.member = some e.dev ∧
      s'.fabric.podId = Config.sha384 (Config.manifestBytes (m.entries.flatMap entryNumbers)) % 2 ^ 32 ∧ s'.fabric.worlds = [] ∧ s'.fabric.ports.length = 33 ∧ s'.mem = s.mem ∧
      ∀ q ∈ s'.fabric.ports, q.leases = []) ∧
  (∀ (num w group root : Nat) (ms : List Nat) (p : PodWorld) (s : State),
    (s.fabric.member.isSome = true → 1 ≤ num → num ≤ 65535 → (s.world? w).isSome = true → s.fabric.worlds.length < 64 →
      s.podWorldOf w = none → s.localWorld num = none → ms.contains s.deviceId = true → ms.all s.inPod = true →
      allDistinct ms = true → ∃ s', exec (.podWorldRegister num w ms) s = .next s' ∧
        s'.fabric.worlds = s.fabric.worlds ++ [⟨num, w, ms⟩] ∧ s'.fabric.groups = s.fabric.groups) ∧
    (s.localWorld num = some p → group ≤ 2047 → ms.contains root = true → ms.all p.members.contains = true →
      allDistinct ms = true → s.groupRoot p group = none → ∃ s', exec (.mcastGroupRegister num group root ms true) s = .next s' ∧
        s'.fabric.groups = s.fabric.groups ++ [⟨num, group, root, ms⟩] ∧ s'.fabric.worlds = s.fabric.worlds)) ∧
  ∀ (n w v dst : Nat) (s : State) (e : Nat × Nat × Nat) (l : Lease),
    let p := s.port n
    (p.pendList.head? = some e → (p.freeWaves (s.pool n)).contains w = true → exec (.leaseWavelengthFree n w) s =
      .next (s.settlePort (p.grantTo e.1 e.2.1 w s.pkgCycle))) ∧
    (p.lease v dst = some l → l.ended s.pkgCycle = true → exec (.leaseTermExpiry n v dst) s =
      .next (s.putPort (p.putLease { l with revocable := true }))) ∧
    (p.leases = [l] → l.revocable = true → l.waves.getLast? = some w → p.pendList = [e] → othersEntry l e = true →
      exec (.leaseTermTake n) s =
        .next (s.settlePort ((p.putLease (l.giveBack [w])).grantTo e.1 e.2.1 w s.pkgCycle))) ∧
    (p.pendList.head? = some e → s.pkgCycle - e.2.2 < 2 ^ 20 → exec (.leaseStarvationRevoke n) s = .next s) ∧
    (p.pendList = [e] → 2 ^ 20 ≤ s.pkgCycle - e.2.2 → p.leases = [l] → l.waves ≠ [] → othersEntry l e = true →
      ∃ q, exec (.leaseStarvationRevoke n) s = .next (s.settlePort (Port.handOut s.pkgCycle (l.waves.filter p.txUp) q)) ∧
        q.pendList = [(e.1, e.2.1, s.pkgCycle)] ∧ ∀ x ∈ q.leases, x.waves = [])

/-- R334, R347 to R358: the bytes of a flit give its header and, under its key, its payload back. Bring-up gives each direction a key
and a fixed part; a lost codeword and a bad flit count, an IDLE is dropped, a SEQ that has come is not delivered again, and a whole
message is, a notice among them; an acknowledged flit leaves the retry buffer; ACK and NACK leave in turn; a lost flit is replayed; wavelengths retrain, fail
and return; a dark module gives way to the spare it was promised, and a far end's module darkens and relights the receive side; keys
warn, switch and stop; a destination that stays cut off is unreachable. Model choices it rests on: log entries 5, 27 and 51. -/
def Obligations.LinkEvents : Prop :=
  (∀ (key iv : Nat) (f : Flit), f.dst < 2 ^ 11 → f.src < 2 ^ 11 → f.stream < 2 ^ 12 → f.seq < 2 ^ 24 → f.payload.length = 64 →
    (∀ b ∈ f.payload, b < 256) → (flitBytes key iv f).length = 80 ∧ openFlit key iv (flitBytes key iv f) = some f.payload ∧
      flitOf (payloadNat (flitBytes key iv f) 0 8) f.payload = f) ∧
  (∀ (n : Nat) (s : State), (s.port n).peer.isSome = true → ((s.port n).link .tx).up = false →
    exec (.linkBringup n false) s = .next (s.postEvent 0x0303 noDie [BitVec.ofNat 8 n])) ∧
  (∀ (n : Nat) (s : State), (s.port n).peer.isSome = true → ((s.port n).link .tx).up = false → n < 33 →
    ∃ s', exec (.linkBringup n true) s = .next s' ∧ s'.freeCount = s.freeCount + 4 ∧ s'.mem = s.mem ∧
      (let l := (s'.port n).link .tx
       l.up = true ∧ l.key = Config.freeValue s.freeCount ∧ l.fixed = Config.freeValue (s.freeCount + 2) % 2 ^ 32) ∧
      let l := (s'.port n).link .rx
      l.up = true ∧ l.key = Config.freeValue (s.freeCount + 1) ∧ l.fixed = Config.freeValue (s.freeCount + 3) % 2 ^ 32) ∧
  (∀ (n pw via start w : Nat) (bytes : List Nat) (s : State), ((s.port n).link .rx).up = true →
    let f := flitOf (payloadNat bytes 0 8) []
    let o := exec (.flitReceive n ⟨pw, via, start, w, bytes⟩) s
    (bytes.length ≠ 80 → o = .next (s.putPort ((s.port n).loseCodeword w start via))) ∧
    (bytes.length = 80 → f.type = .idle → o = .next s) ∧
    (bytes.length = 80 → f.type ≠ .idle → (s.port n).phaseOf w f.phase = none →
      o = .next (s.putPort ((s.port n).discard w f.phase))) ∧
    (((s.port n).discard w f.phase).link .rx).key = ((s.port n).link .rx).key ∧
    ∀ l key c, bytes.length = 80 → f.type ≠ .idle → (s.port n).phaseOf w f.phase = some (l, key, c) →
      (f.type = .reserved ∨ openFlit key (l.iv w c) bytes = none → o = .next (s.putPort ((s.port n).discard w f.phase))) ∧
      ∀ payload, openFlit key (l.iv w c) bytes = some payload →
        (∀ nm, f.type = .ack → (s.port n).streamAt (ackOf payload).1 = some nm → (s.port n).backlog = [] → ∃ s', o = .next s' ∧
          ((s'.port n).retry = (s.port n).retry.filter fun x =>
            !(x.name == nm && (ackOf payload).2.any fun q => seqBehind x.seq q)) ∧
          ∀ k, ((s.port n).link .rx).oldKey = none → ((s.port n).link .rx).pending = some k →
            f.phase ≠ ((s.port n).link .rx).phase → ((s'.port n).link .rx).key = k) ∧
        (f.type ∈ [.read, .write, .data, .atomic, .reply, .release, .perform] →
          ((s.port n).rxStream f.stream (streamName via pw f.src f.dst) start).has f.seq = true → ∃ s', o = .next s' ∧
            s'.fabric.inbox = s.fabric.inbox ∧ s'.fabric.repliesIn = s.fabric.repliesIn ∧ s'.mem = s.mem)) ∧
  (∀ (s : State) (flow : Nat) (f g : Flit) (r : List Flit), let x := s.orderOf flow
    seqAhead f.seq x.delivered = 1 → x.waiting = [] → f.last = true → x.part ++ [f] = g :: r →
    (g.type = .reply → s.replyWanted (replyOf g r).reqid = true →
      (s.accept flow f).fabric.repliesIn = s.fabric.repliesIn ++ [replyOf g r]) ∧
    (∀ t y tag dev, g.type = .control → g.payload = noticePayload tag dev false → tag < 2 ^ 64 → dev < 2 ^ 11 → s.strands = [t] →
      t.unacked = [y] → y.tag = tag → y.dev = dev → (s.accept flow f).strands = [{ t with unacked := [] }]) ∧
    (g.type ∈ [.read, .write, .atomic, .perform] →
      (s.accept flow f).fabric.inbox = s.fabric.inbox ++ [accessOf (nameWorld flow) g r])) ∧
  (∀ (n st : Nat) (s : State),
    (∀ x, (s.port n).rx.find? (fun y => y.stream == st) = some x → (s.port n).mayAck = true →
      let l := ((s.port n).link .tx).switch
      let w := (s.port n).upWaves.headD 0
      let sends := fun (o : Out) (type : FlitType) (seqs : List Nat) => ∃ q bytes, o = .next (s.putPort q) ∧
        q.line = (s.port n).line ++ [(w, bytes)] ∧ q.retry = (s.port n).retry ∧ (flitOf (payloadNat bytes 0 8) []).type = type ∧
        openFlit l.key (l.iv w (assocD l.counts w 0)) bytes = some (ackPayload st seqs)
      (64 ≤ x.sinceAck → sends (exec (.ackSend n st) s) .ack [x.delivered]) ∧
      (∀ m, x.gapSince = some m → 2048 ≤ s.pkgCycle - m → sends (exec (.nackSend n st) s) .nack x.missing)) ∧
    (∀ nm f w, (s.port n).streamAt st = some nm → (s.port n).retry.find? (fun y => y.name == nm && s.replayDue y) = some f →
      ((s.port n).link .tx).up = true → ((s.port n).link .tx).isStopped = false → ((s.port n).link .tx).invoc < 2 ^ 32 →
      (s.wavesFor n f.world (nameDst f.name)).contains w = true → (s.port n).backlog = [] →
      ∃ s', exec (.flitReplay n st f.seq w) s = .next s' ∧
        ((s'.port n).retry = (s.port n).retry.map fun y =>
          if y == f then { f with wave := w, replay := false, sentAt := s.pkgCycle } else y) ∧
        ∀ x ∈ s'.launches, x.world = s.streamWorld (nameWorld f.name) → x.hops.contains n = true → x.void = true)) ∧
  (∀ (n w k : Nat) (dir : LinkDir) (s : State) (x : Wave), (s.port n).wave w dir = x → x.w = w → x.dir = dir →
    (k ≤ 3068 → exec (.fecWindowEnd n w k dir) s = .next (s.putPort ((s.port n).putWave { x with corrwin := min k (2 ^ 24 - 1) }))) ∧
    (3068 < k → x.state = .up → exec (.fecWindowEnd n w k dir) s = .next ((s.wavesChanged ((s.port n).putWave
      { x with corrwin := min k (2 ^ 24 - 1), state := .retrain, fails := 0 })).voidPort n)) ∧
    (let l := (s.port n).link .rx
     ∀ phase, x.state = .retrain → dir = .rx → exec (.trainingDone n w (.rx k phase)) s = .next (s.wavesChanged
      (((s.port n).putLink (if phase = l.phase then { l with counts := assocSet l.counts w k }
        else { l with nextCounts := assocSet l.nextCounts w k })).putWave { x with state := .up, fails := 0 }))) ∧
    (x.state = .retrain → dir = .tx → s.fabric.lasers = [] → exec (.trainingDone n w .tx) s =
      .next (s.wavesChanged ((s.port n).putWave { x with state := .up, fails := 0 }))) ∧
    (x.state = .retrain → exec (.trainingFail n w dir) s = .next (s.wavesChanged ((s.port n).putWave
      { x with retrains := min (x.retrains + 1) 255, fails := x.fails + 1, state := if 3 ≤ x.fails + 1 then .failed else .retrain }))) ∧
    (x.state = .failed → dir = .tx → n < 33 → w < 128 → exec (.retrainwWrite n (w + 1)) s =
      .next (s.wavesChanged ((s.port n).putWave { x with state := .retrain, fails := 0 })))) ∧
  (∀ (m : Nat) (r : List Nat) (s : State) (l : LaserSlot),
    (s.fabric.failedModules.contains m = true → exec (.lossOfLight none m) s = .next s) ∧
    (s.fabric.failedModules.contains m = false → s.fabric.spares.contains m = true → ∃ s', exec (.lossOfLight none m) s = .next s' ∧
      s'.fabric.spares = s.fabric.spares.filter (· != m) ∧ s'.fabric.failedModules = s.fabric.failedModules ++ [m]) ∧
    (s.fabric.failedModules.contains l.modl = false → s.fabric.spares.contains l.modl = false →
      s.fabric.lasers = [l] → l.lit = true → ∃ s' l', exec (.lossOfLight none l.modl) s = .next s' ∧ s'.fabric.lasers = [l'] ∧
        l'.slot = l.slot ∧ l'.lit = false ∧ l'.detect = s.pkgCycle ∧ s'.fabric.failedModules = s.fabric.failedModules ++ [l.modl]) ∧
    (∀ x, s.fabric.lasers = [l] → l.lit = false → l.restoring = some x →
      let takes := fun k => ∃ s', exec (.spareSwitchIn l.slot) s = .next s' ∧
        s'.fabric.spares = s.fabric.spares.filter (· != k) ∧
        s'.fabric.lasers = [{ l with modl := k, lit := true, restoring := some (x.1, k, x.2.2.1, x.2.2.2) }]
      (s.fabric.spares.contains x.2.1 = true → x.2.1 ≠ 0xFF → takes x.2.1) ∧
      (s.fabric.spares.contains x.2.1 = false → s.fabric.spares = m :: r → m ≠ 0xFF → takes m)) ∧
    (∀ p, s.fabric.lasers = [l] → l.lit = true → s.fabric.ports = [p] → ∃ s', exec (.lightRestored none l.slot) s = .next s' ∧
      (s'.port p.port).waves = p.waves.map fun x => x.relight .tx l.slot) ∧
    (∀ n, n < 33 → (s.port n).peer.isSome = true → (∃ s', exec (.lossOfLight (some n) m) s = .next s' ∧
        (s'.port n).waves = (s.port n).waves.map (fun x => x.darken .rx m) ∧
        ∀ x ∈ s'.launches, x.hops.contains n = true → x.void = true) ∧
      ∃ s', exec (.lightRestored (some n) m) s = .next s' ∧
        (s'.port n).waves = (s.port n).waves.map fun x => x.relight .rx m)) ∧
  (∀ (n : Nat) (dir : LinkDir) (s : State) (l : LinkState), (s.port n).link dir = l → l.up = true →
    let record := [BitVec.ofNat 8 n, if dir = .tx then 0 else 1]
    (∀ ok, 2 ^ 32 - 2 ^ 20 ≤ l.invoc → l.pending = none → l.warned = false → exec (.linkKeyWarning n ⟨dir, ok⟩) s =
      .next ((s.postEvent 0x0304 noDie record).drawFree.putPort ((s.port n).putLink { l with
        warned := true, pending := if ok then some (Config.freeValue s.freeCount) else none }))) ∧
    (∀ k, l.pending = some k → dir = .tx → exec (.linkKeySwitch n dir) s = .next ((s.putPort ((s.port n).putLink { l with
      key := k, pending := none, phase := !l.phase, warned := false, stopped := false, invoc := 0, counts := [] })).drainPort n)) ∧
    (2 ^ 32 - 2 ^ 16 ≤ l.invoc → l.pending = none → l.stopped = false → exec (.linkDataStop n dir) s =
      .next ((s.putPort ((s.port n).putLink { l with stopped := true })).postEvent 0x0305 noDie record))) ∧
  ∀ (dst : Nat) (s : State),
    (s.cutOff dst = false → exec (.unreachableDetect dst) s = .next s) ∧
    (s.cutOff dst = true → s.fabric.unreachable.contains dst = false →
      (s.strands = [] → ∃ s', exec (.unreachableDetect dst) s = .next s' ∧
        s'.fabric.unreachable = s.fabric.unreachable ++ [dst]) ∧
      (∀ t tag va dest, s.strands = [t] → t.unacked = [] → t.wait = some (.remote tag dst [va] dest [tag] []) →
        (∀ p ∈ s.fabric.ports, p.openParts s.deviceId dst = []) →
        exec (.unreachableDetect dst) s = .next (({ s with fabric := { s.fabric with
          unreachable := s.fabric.unreachable ++ [dst], ports := s.fabric.ports.map fun p => p.dropUnsent dst } } : State).trap
            { t with wait := none } ⟨0x14, va, 0⟩)) ∧
      (∀ t x, s.strands = [t] → t.wait = none → t.unacked = [x] →
        (x.root = some dst ∨ x.dev = dst ∧ (x.root = none ∨ x.root = some s.deviceId)) → ∃ s',
        exec (.unreachableDetect dst) s = .next s' ∧
          s'.strand? t.at_ = some { t with unacked := [], refusals := t.refusals ++ [(x.va, 0)] }))

/-- R93, R95, R102, R103, R107 to R110, R200, R273, R348: the flits of an access or a reply give it back. An access delivered to
this device is checked as the world that its pod world names here: a read answers the bytes, a store or a member's part writes them, its
issuer hears of it and the release that counts it has one less to wait for; an ATOM or CAS updates and answers the old value, and its
reissue the kept one; a PIN answers the POLICY; a failing check is answered with its cause. A release waits for its counted stores and is
performed with the last, an access waits for earlier ones of its strand to its sectors, and held writes wait for PERFORM or are discarded.
The root sends each member its part of an MCAST; a refusal of a posted store is kept for its strand.
Model choices it rests on: log entries 4, 26, 33 and 51. -/
def Obligations.SpaceDTarget : Prop :=
  (∀ (r : RemoteAccess) (f : Flit) (rest : List Flit), accessFlits r = f :: rest → r.va < 2 ^ 64 → r.len < 2 ^ 32 → r.reqid < 2 ^ 64 →
    accessCount r < 2 ^ 16 → r.data.length = kindCarries r.kind r.len → (∀ b ∈ r.data, b < 256) → accessOf r.podWorld f rest = r) ∧
  (∀ (r : RemoteReply) (f : Flit) (rest : List Flit), r.flits = f :: rest → r.reqid < 2 ^ 64 → r.status < 256 →
    r.data.length < 2 ^ 32 → (∀ b ∈ r.data, b < 256) → replyOf f rest = r) ∧
  (∀ (r : RemoteAccess) (s : State), s.mayPerform r = true → 1 ≤ r.len → r.len ≤ 65536 →
    let o := exec (.remoteAccessArrival r) s
    (r.kind = .read → s.targetWorld r = none → o = .next ((s.takeInbox r).reply r 0x14 [])) ∧
    (r.kind = .discard → o = .next ((s.takeInbox r).dropHeld r.src r.reqid)) ∧
    (∀ group g, r.kind = .mcast group → s.fabric.groups.find? (fun g => g.num == r.podWorld && g.group == group) = some g →
      o = .next (g.members.foldl (fun s d => if d ≠ s.deviceId ∧ s.unreachableTo d = true
        then s.sendNotice r.podWorld r.src r.reqid d true else s.send { r with dst := d, kind := .part s.deviceId }) (s.takeInbox r))) ∧
    (∀ group, r.kind = .mcast group → s.fabric.groups.find? (fun g => g.num == r.podWorld && g.group == group) = none →
      o = .next ((s.takeInbox r).reply r 0x14 [1])) ∧
    ∀ w s1, s.targetWorld r = some w →
      let answers := fun (s' : State) (status : Nat) (bs : List Byte) => s.fabric.member ≠ some r.src →
        s'.fabric.replies = s.fabric.replies ++ [⟨s.deviceId, r.src, r.reqid, status, bs.map BitVec.toNat⟩]
      let bytes := r.data.map (BitVec.ofNat 8)
      (∀ ls, s.targetCheck w checkLoad r.va r.len = (s1, .ok ls) → r.kind = .read →
        o = .next ((s1.takeInbox r).reply r 0 (ls.map (s1.byteAt [])))) ∧
      (∀ x, s.targetCheck w checkLoad r.va r.len = (s1, .error x) → r.kind = .read →
        o = .next ((s1.takeInbox r).reply r x.cause [])) ∧
      (∀ x, s.targetCheck w checkStore r.va r.len = (s1, .error x) →
        (r.kind = .write ∨ r.kind = .held ∨ r.kind = .release 0 ∨ ∃ root, r.kind = .part root) →
        ∃ s', o = .next s' ∧ s'.mem = s1.mem ∧ s'.fabric.held = s.fabric.held ∧ answers s' x.cause []) ∧
      (∀ ls, s.targetCheck w checkStore r.va r.len = (s1, .ok ls) →
        (r.kind = .write ∨ r.kind = .release 0 ∨ ∃ root, r.kind = .part root) → ∃ s', o = .next s' ∧
        s'.mem = (s1.storeAt ls bytes).mem ∧
        (∀ q c, r.kind ≠ .release 0 → s.fabric.inbox = [r, q] → sameKey q r = true → r.reqid < q.reqid → q.kind = .release (c + 1) →
          s'.fabric.inbox = [{ q with kind := .release c }]) ∧
        ∀ t x, s.fabric.member = some r.src → s.strands = [t] → t.unacked = [x] → x.tag = r.reqid → x.dev = s.deviceId →
          s'.strands = [{ t with unacked := [] }]) ∧
      (∀ ls, s.targetCheck w checkStore r.va r.len = (s1, .ok ls) → r.kind = .held → ∃ s' h, o = .next s' ∧ s'.mem = s1.mem ∧
        s'.fabric.held = s.fabric.held ++ [h] ∧ h.src = r.src ∧ h.reqid = r.reqid ∧
        (∀ pa b, (pa, b) ∈ h.cells ↔ (Loc.phys pa, b) ∈ ls.zip bytes) ∧ answers s' 0 []) ∧
      (∀ ls, s.targetCheck w checkAtomic r.va r.len = (s1, .ok ls) → r.va % r.len = 0 → s.keptAnswer r = none →
        let old := leValue (ls.map (s1.byteAt []))
        let first := leValue (bytes.take r.len)
        let leaves := fun (s2 : State) => ∃ s', o = .next s' ∧ s'.mem = s2.mem ∧ answers s' 0 (leBytes r.len old)
        (∀ op, r.kind = .atomic op → leaves (s1.storeAt ls (leBytes r.len (atomNew op (8 * r.len) old first)))) ∧
        (r.kind = .cas → old = first → leaves (s1.storeAt ls (leBytes r.len (leValue ((bytes.drop r.len).take r.len))))) ∧
        (r.kind = .cas → old ≠ first → leaves s1)) ∧
      (∀ old, (r.kind = .cas ∨ ∃ op, r.kind = .atomic op) → r.va % r.len = 0 → s.keptAnswer r = some old →
        o = .next ((s.takeInbox r).reply r 0 (old.map (BitVec.ofNat 8)))) ∧
      (∀ ls, s.targetCheck w checkProbe r.va r.len = (s1, .ok ls) → r.kind = .probe →
        o = .next ((s1.takeInbox r).reply r 0 [BitVec.ofNat 8 (s1.policyAt w r.va)]))) ∧
  (∀ (r : RemoteAccess) (s : State) (c : Nat), r.kind = .release (c + 1) → exec (.remoteAccessArrival r) s = .next s) ∧
  (∀ (a r : RemoteAccess) (s : State), s.fabric.inbox = [a, r] → a ≠ r → sameStrand a r = true → s.sectorsMeet a r = true →
    exec (.remoteAccessArrival r) s = .next s) ∧
  (∀ (src tag : Nat) (s : State) (h : HeldWrite) (r : RemoteAccess), s.performFor src tag = some r → s.fabric.held = [h] →
    h.src = src → h.reqid = tag → ∃ s', exec (.performArrival src tag) s = .next s' ∧
      s'.mem = ((s.takeInbox r).storeAt (h.cells.map fun c => .phys c.1) (h.cells.map (·.2))).mem ∧ s'.fabric.held = []) ∧
  ∀ (i : SlotId) (tag c : Nat) (s : State) (t : Strand), s.strand? i = some t →
    (∀ x r, t.unacked = [x] → s.fabric.repliesIn = [r] → r.reqid = tag → r.status = c → x.tag = tag → r.data = [] → x.dev = r.src →
      ∃ s', exec (.postedRefusalArrival i tag c) s = .next s' ∧ s'.fabric.repliesIn = [] ∧
        s'.strand? i = some { t with unacked := [], refusals := t.refusals ++ [(x.va, c)] }) ∧
    (∀ x y r, t.unacked = [x, y] → s.fabric.repliesIn = [r] → r.reqid = tag → r.status = c → x.tag = tag → y.tag = tag →
      r.data ≠ [] → x.root = some r.src → y.root = some r.src →
      ∃ s', exec (.postedRefusalArrival i tag c) s = .next s' ∧ s'.fabric.repliesIn = [] ∧
        s'.strand? i = some { t with unacked := [], refusals := t.refusals ++ [(x.va, c), (y.va, c)] }) ∧
    (s.refusalFor t tag c = none → exec (.postedRefusalArrival i tag c) s = .next s)

/-! ## Launches, queues and schedulers -/

/-- R290, R296 to R298: LAUNCH_ARRIVAL fetches the entry at HEAD and makes the checks in their order: each failure refuses with its code, and a
record whose CPLADDR cannot be written is refused by the entry alone; otherwise the launch is admitted with its energy debited.
Model choices it rests on: log entries 22 and 23. -/
def Obligations.LaunchAdmission : Prop :=
  (∀ (q : Nat) (arm : List ArmChoice) (s : State), (s.queue q).mayFetch = false → exec (.launchArrival q arm) s = .next s) ∧
  (∀ (q : Nat) (arm : List ArmChoice) (s : State) (e : SubEntry), (s.queue q).mayFetch = true →
    s.entryAt (s.queue q) = some e →
    let s1 : State := { s.setQueue (s.queue q).fetched with nextSerial := s.nextSerial + 1 }
    let a : Arrival := ⟨q, e, s.nextSerial⟩
    let o := exec (.launchArrival q arm) s
    let alone : Out := .next (s1.postCpl q ⟨s.nextSerial, e.tag, 0x41, false⟩)
    (e.len < 64 ∨ s1.read0 e.lrec e.len = none → o = alone) ∧
    ∀ b, 64 ≤ e.len → s1.read0 e.lrec e.len = some b →
      let r := launchRecOf b
      (s1.cplWritable r.cpladdr (40 + 8 * r.ngraph + 8 * r.nstage) = false → o = alone) ∧
      (s1.cplWritable r.cpladdr (40 + 8 * r.ngraph + 8 * r.nstage) = true →
        (launchRecOk b = false → o = .next (s1.refuse a r 0x41 (uncheckedWords r))) ∧
        (launchRecOk b = true → s1.world? r.world = none → o = .next (s1.refuse a r 0x42 (uncheckedWords r))) ∧
        (launchRecOk b = true → s1.world? r.world ≠ none →
          let checks := s1.checkGraphs r
          let words := graphWordsOf checks
          let s2 := s1.rememberModules r
          let some_ := ∃ ms es caps, GraphCheck.accepted ms es caps ∈ checks
          (¬ some_ → o = .next (s2.refuse a r 0x47 words)) ∧
          (some_ → s2.placement r (capsOf checks) (candidatesOf r checks) = none → o = .next (s2.refuse a r 0x49 words)) ∧
          ∀ l, some_ → s2.placement r (capsOf checks) (candidatesOf r checks) = some l →
            (1024 < s2.stages.length + l.length → o = .next (s2.refuse a r 0x46 words)) ∧
            (s2.stages.length + l.length ≤ 1024 → s2.level < 8 * (r.energy : Int) → o = .next (s2.refuse a r 0x43 words)) ∧
            (s2.stages.length + l.length ≤ 1024 → 8 * (r.energy : Int) ≤ s2.level →
              (s2.bandwidthFits r l = false → o = .next (s2.refuse a r 0x44 words)) ∧
              (s2.bandwidthFits r l = true →
                let after := s2.afterOf r
                let n := newcomerOf s2 a r l after
                (s2.plan n = none → o = .next (s2.refuse a r 0x45 words)) ∧
                ∀ p, s2.plan n = some p →
                  (n.limit < p.start + p.delay + n.span → o = .next (s2.refuse a r 0x45 words)) ∧
                  ∀ s3, p.start + p.delay + n.span ≤ n.limit →
                    s2.admitLaunch a r l checks (after.map Launch.serial) n.span p arm = some s3 → o = .next s3 ∧
                      (p.victims = [] → s3.level = s.level - 8 * r.energy ∧ ∃ x, s3.launch? a.serial = some x ∧
                        x.status = 0x40 ∧ x.arrive = s.pkgCycle ∧ x.energy = r.energy ∧ x.used = 0 ∧ x.tag = e.tag)))))) ∧
  ∀ (s : State) (q : Nat) (e : CplEntry), (s.queue q).cplRoom = true → (s.queue q).waiting = [] →
    ((s.postCpl q e).queue q).cqTail = ((s.queue q).cqTail + 1) % 2 ^ 32

/-- R209, R210, R290, R295, R299, R300, R303, R304, R309, R320, R321: STAGE_BIND starts the strands of the READY stage that is next on its die; a checkpoint saves the strands and
frees their slots, and STAGE_RESUME gives them back; a kill gives items back to the queue or ends the stage; a stage without strands ends,
its items discarded and counted with those that saved strands hold; LAUNCH_COMPLETE returns unused energy, frees the entries and writes the
completion entry; an overrunning stage is checkpointed or killed for a waiting one.
Model choices it rests on: log entries 17, 21, 22, 48, 49 and 54. -/
def Obligations.StageLifecycle : Prop :=
  ∀ (n : Nat) (s : State) (g : Stage),
    (s.promote.stage? n = some g → s.promote.nextToBind g = true → (s.die g.die).released = true →
      ∀ l, placeStage s.occupancy g = some l →
      (g.saved = none → ∃ s' g', exec (.stageBind n) s = .next s' ∧ s'.stage? n = some g' ∧ g'.state = .running ∧
        g'.queue = g.queue ∧ s'.mem = s.mem ∧ ∀ i ∈ l, ∃ t, s'.strand? i = some t ∧ t.inst = n ∧ t.launch = g.launch ∧
          t.world = g.world ∧ t.super = false ∧ t.pc = BitVec.ofNat 64 g.entry ∧ t.regs = Regs.reset ∧ t.held = none ∧
          t.wait = none ∧ t.frame = none) ∧
      (∀ v i t, g.saved = some v → v.strands = [t] → t.frame = none → t.pending = [] → t.ops = [] →
        s.promote.resumePlace g v = some [(t.at_, i)] → ∃ s' g' t', exec (.stageResume n) s = .next s' ∧ s'.stage? n = some g' ∧
          g'.state = .running ∧ g'.saved = none ∧ s'.strand? i = some t' ∧ t'.regs = t.regs ∧ t'.held = t.held ∧
          t'.pc = t.pc ∧ t'.wait = t.wait ∧ t'.phase = .live)) ∧
    (s.stage? n = some g →
      let ts := s.strandsOf n
      let kept := (((g.saved.map Saved.strands).getD []).filterMap Strand.held).length
      (∀ f, g.state = .stoppingSave f → ts ≠ [] → (∀ t ∈ ts, s.unsettled t = false) →
        ∃ s' g' v, exec (.checkpointComplete n) s = .next s' ∧ s'.stage? n = some g' ∧ g'.saved = some v ∧
          v.strands = ts ∧ ((s.world? g.world).any (fun w => w.saveSize != 0) = false → s'.mem = s.mem) ∧
          (f = none → g'.state = .ready) ∧ (∀ h ∈ s.stages, f = some h.launch → h.id ≠ n → h.die = g.die → h.mode ≠ 2 →
            h.state = .ready → h.since ≤ g.since → g'.state = .saved f) ∧ ∀ t ∈ ts, s'.strand? t.at_ = none) ∧
      (g.state = .stoppingKill → (∀ t ∈ ts, t.wait.any Wait.isSession = false) → ∀ x, s.launch? g.launch = some x →
        (x.killed = false → ts ≠ [] → (∀ t ∈ ts, s.postedBy t = false) → ∃ s' g', exec (.killComplete n) s = .next s' ∧
          s'.mem = s.mem ∧ s'.stage? n = some g' ∧ g'.state = .ready ∧ g'.saved = none ∧
          g'.queue.map Item.id = (ts.filterMap Strand.held).map (fun h => h.item.id) ++ g.queue.map Item.id ∧
          ∀ t ∈ ts, s'.strand? t.at_ = none) ∧
        (x.killed = true → ∃ s' g', exec (.killComplete n) s = .next s' ∧ s'.mem = s.mem ∧ s'.stage? n = some g' ∧
          g'.state = .done ∧ g'.queue = [] ∧ g'.discardedItems = g.discardedItems + (ts.filterMap Strand.held).length +
            kept + g.queue.length ∧ ∀ t ∈ ts, s'.strand? t.at_ = none)) ∧
      (ts = [] → ∀ i, (i = Instr.drainComplete n ∧ g.state = .stoppingDrain) ∨ (i = Instr.stageComplete n ∧ g.state = .running) →
        ∃ s' g', exec i s = .next s' ∧ s'.mem = s.mem ∧ s'.stage? n = some g' ∧ g'.state = .done ∧ g'.queue = [] ∧
          g'.discardedItems = g.discardedItems + kept + g.queue.length) ∧
      (∀ k r x, s.overran g = true → s.waitsFor g = k :: r → s.launch? g.launch = some x →
        ∃ s' x', exec (.overrunPreempt n) s = .next s' ∧ s'.launch? g.launch = some x' ∧ x'.void = true ∧ s'.mem = s.mem ∧
          (s.debugHeld g = false → ∃ g', s'.stage? n = some g' ∧
            g'.state = (if s.saveHolds g.world [g] then .stoppingSave (some k) else .stoppingKill)))) ∧
    (∀ x, s.launch? n = some x → s.launchDone n = true →
      ∃ s', exec (.launchComplete n) s = .next s' ∧ s'.launch? n = none ∧ (∀ y ∈ s'.stages, y.launch ≠ n) ∧
        (∀ y ∈ s'.chans, y.launch ≠ n) ∧
        ((s.queue x.queue).cplWaits = false → (s'.queue x.queue).cqTail = ((s.queue x.queue).cqTail + 1) % 2 ^ 32) ∧
        ((s.queue x.queue).cplWaits = true → (s'.queue x.queue).waiting =
          (s.queue x.queue).waiting ++ [⟨n, x.tag, x.status, true⟩]) ∧ ∃ used, x.used ≤ used ∧ s'.level = min (8 * 2 ^ 24)
          (s.level + 8 * ((x.energy : Int) - (used : Int))))

/-- R290 to R292, R299, R300, R302, R374: SQ_TAIL of a queue in a context, and the shadow tail of another; contexts are taken and left in the order of
QPRIO; a waiting completion entry is written when the ring has room; the reservoir rises by CAP a cycle in eighths up to 2^24; a port's
window starts with its shares, an access spends a token a line, and a boundary hands out no more tokens than there were.
Model choices it rests on: log entries 7 and 22. -/
def Obligations.QueuesAndWindows : Prop :=
  (∀ (q v : Nat) (s : State),
    let x := s.queue q;
    (s.tdiOpen = false → exec (.sqTailWrite q v) s = .next s ∧ exec (.cqHeadWrite q v) s = .next s) ∧
    (s.tdiOpen = true → q < 64 → v < 2 ^ 32 → ∃ s', exec (.sqTailWrite q v) s = .next s' ∧ s'.mem = s.mem ∧ (s'.queue q).head = x.head ∧
      (x.inContext.isSome = true → (s'.queue q).tail = v ∧ (s'.queue q).shadow = x.shadow) ∧
      (x.inContext = none → (s'.queue q).tail = x.tail ∧ (s'.queue q).shadow = some v)) ∧
    (s.tdiOpen = true → q < 64 → v < 2 ^ 32 → exec (.cqHeadWrite q v) s = .next (s.putQueue { x with cqHead := v })) ∧
    (∀ e r, x.waiting = e :: r → (x.cplRoom = true → exec (.completionEntryWrite q) s =
        .next (s.writeCpl { x with waiting := r } e)) ∧
      (x.cplRoom = false → exec (.completionEntryWrite q) s = .next s)) ∧
    (s.inContexts.length < 16 → x.inContext = none → x.pending = true →
      (∀ y ∈ s.queues, y.inContext = none → y.pending = true → y.qprio < x.qprio ∨
        (y.qprio = x.qprio ∧ y.pendingFor s.pkgCycle ≤ x.pendingFor s.pkgCycle)) →
      ∃ s', exec (.queueSwitchIn q) s = .next s' ∧ (s'.queue q).inContext = some s.pkgCycle ∧ (s'.queue q).shadow = none ∧
        (s'.queue q).tail = x.lastTail ∧ (s'.queue q).swout = false ∧ s'.mem = s.mem) ∧
    (∀ y ∈ s.queues, y.inContext = none → y.pending = true → 16 ≤ s.inContexts.length ∨ x.qprio < y.qprio →
      x.inContext = none → exec (.queueSwitchIn q) s = .next s) ∧
    (∀ y ∈ s.queues, y.q ≠ x.q → y.pending = true →
      (∀ m, x.inContext.isSome = true → x.emptySince = some m → (s.pkgCycle - m < 2 ^ 16 → exec (.queueIdleSwitchOut q) s = .next s) ∧
        (2 ^ 16 ≤ s.pkgCycle - m → ∃ s', exec (.queueIdleSwitchOut q) s = .next s' ∧ (s'.queue q).inContext = none ∧
          (s'.queue q).tail = x.tail ∧ (s'.queue q).head = x.head ∧ (s'.queue q).swout = true)) ∧
      (∀ c, x.inContext = some c → x.qprio ≤ y.qprio → 2 ^ 20 ≤ y.pendingFor s.pkgCycle →
        (∀ z ∈ s.queues, ∀ d, z.inContext = some d → x.qprio < z.qprio ∨ (x.qprio = z.qprio ∧ c ≤ d)) →
        ∃ s', exec (.queueFairSwitchOut q) s = .next s' ∧ (s'.queue q).inContext = none ∧ (s'.queue q).head = x.head ∧
          (s'.queue q).swout = true))) ∧
  (∀ (n : Nat) (s : State), s.level ≤ 8 * 2 ^ 24 → ∃ s', exec (.reservoirRefill n) s = .next s' ∧ s'.pkgCycle = s.pkgCycle + n ∧
    s'.level ≤ 8 * 2 ^ 24 ∧ s.level ≤ s'.level ∧ (s.level + n * min s.hallmark.hostcap s.hallmark.thermcap ≤ 8 * 2 ^ 24 →
      s'.level = s.level + n * min s.hallmark.hostcap s.hallmark.thermcap) ∧ s'.mem = s.mem) ∧
  ∀ (die port cycle : Nat) (requests : List (Nat × Nat × Nat)) (inFlight : List Nat) (s : State),
    let p := s.bwPort die port
    (∃ s', exec (.bwWindowStart die ⟨port, requests⟩) s = .next s' ∧ s'.mem = s.mem ∧
      (s'.bwPort die port).pool + sumSnd (s.sharesOn die) = max 256 (sumSnd (s.sharesOn die)) ∧
      (s'.bwPort die port).buckets.map (·.1) = (s.sharesOn die).map (·.1) ∧ ((s'.bwPort die port).buckets.map (·.1)).Nodup ∧
      sumSnd (s'.bwPort die port).buckets ≤ sumSnd (s.sharesOn die) ∧
      (p.held = [] → requests = [] → (s'.bwPort die port).buckets = s.sharesOn die)) ∧
    (isBoundary cycle = true → (p.buckets.map (·.1)).Nodup → ∃ s', exec (.bwBoundary die port cycle requests inFlight) s = .next s' ∧ s'.mem = s.mem ∧
      (s'.bwPort die port).pool + sumSnd (s'.bwPort die port).buckets ≤ p.pool + sumSnd p.buckets ∧
      ((s'.bwPort die port).buckets.map (·.1)).Nodup) ∧
    (∀ w b pa n, isBoundary cycle = true → p.held = [] → p.buckets = [(w, b)] → linesBehind die port pa n ≤ b → inFlight.contains w = true →
      ∃ s', exec (.bwBoundary die port cycle [(w, pa, n)] inFlight) s = .next s' ∧ (s'.bwPort die port).pool = p.pool ∧
        (s'.bwPort die port).buckets = [(w, b - linesBehind die port pa n)] ∧ (s'.bwPort die port).held = [])

/-! ## The host, the debugger and the Hallmark -/

/-- R265, R290, R300, R318, R324, R339, R361, R372, R374: writes of HOSTCAP, TLBCMD, the ring registers, a port's configuration and the
debug window keep the fields that may be written, once the link has trained, and those of the submission, completion and event registers
while their TDI lets them through; a write to any other offset but HOSTCAP and TLBCMD, which have steps of their own, changes nothing; the ring of event
records gives its reserve first; CXL.mem reads and writes frames of world 0 alone.
Model choices it rests on: log entries 22, 25, 28, 45, 46 and 59. -/
def Obligations.HostRegisters : Prop :=
  (∀ (i : Instr) (c : CoreId) (v pa : Nat) (drain : Bool) (data : List Nat) (s : State), s.hallmark.linkUp = false →
    i ∈ [.tlbcmdWrite v, .hostcapWrite v, .eqHeadWrite v, .eqOverflowClear, .registerWrite pa v, .hostMemRead pa v, .hostMemWrite pa data,
      .retrainwWrite pa v, .dbgHaltSet c drain, .dbgHaltClear c, .dbgStep c, .dbgAttach c, .dbgDataRead c, .dbgDataWrite c v] →
    exec i s = .next s) ∧
  (∀ (v : Nat) (s : State), s.hallmark.linkUp = true →
    (∃ s', exec (.tlbcmdWrite v) s = .next s' ∧ s'.mem = s.mem ∧ s'.tlbcmd = false ∧
      (∀ c ∈ s'.cores, ∀ e ∈ c.tlb, e.world = 0 → e.covers 0 (v % 2 ^ 56) = false) ∧
      ∀ d ∈ s'.dies, ∀ e ∈ d.tlb, e.world = 0 → e.covers 0 (v % 2 ^ 56) = false) ∧
    (1 ≤ v % 16 → v % 16 ≤ 8 → exec (.hostcapWrite v) s = .next { s with hallmark := { s.hallmark with hostcap := v % 16 } }) ∧
    (v % 16 = 0 ∨ 8 < v % 16 → exec (.hostcapWrite v) s = .next s) ∧
    (s.tdiOpen = false → exec (.eqHeadWrite v) s = .next s ∧ exec .eqOverflowClear s = .next s) ∧
    (s.tdiOpen = true → exec (.eqHeadWrite v) s = .next (s.setRing { s.hallmark.events with head := v % 2 ^ 64 }) ∧
      exec .eqOverflowClear s = .next (s.setRing { s.hallmark.events with overflow := false, lost := 0 }))) ∧
  (∀ (b : List Byte) (r : List (List Byte)) (s : State), s.hallmark.events.reserve = b :: r →
    (s.hallmark.events.room = false → exec .eventReserveWrite s = .next s) ∧
    (s.hallmark.events.room = true → ∃ s', exec .eventReserveWrite s = .next s' ∧ s'.hallmark.events.reserve = r ∧
      ∀ x, s.write0 (s.hallmark.events.base + 32 * (s.hallmark.events.tail % s.hallmark.events.size)) b = some x →
        s'.mem = x.mem ∧ s'.hallmark.events.tail = (s.hallmark.events.tail + 1) % 2 ^ 64)) ∧
  (∀ (q n v off : Nat) (s : State), q < 64 → n < 256 → v < 2 ^ 64 → s.hallmark.linkUp = true →
   (s.tdiOpen = true →
    exec (.registerWrite (0x1000 + 64 * q) v) s = .next (s.putQueue { s.queue q with base := v / 64 * 64 }) ∧
    exec (.registerWrite (0x1020 + 64 * q) v) s = .next (s.putQueue { s.queue q with cqBase := v / 64 * 64 }) ∧
    (∃ s', exec (.registerWrite (0x1008 + 64 * q) v) s = .next s' ∧ (s'.queue q).size = v ∧ (s'.queue q).head = (s.queue q).head ∧
      s'.mem = s.mem) ∧
    (∃ s', exec (.registerWrite (0x1038 + 64 * q) v) s = .next s' ∧ (s'.queue q).qprio = v / 16 % 4 ∧ s'.mem = s.mem ∧
      bitAt (s'.queue q).qctl 0 = bitAt v 0 ∧ (s'.queue q).size = (s.queue q).size) ∧
    exec (.registerWrite 0x0900 v) s = .next (s.setRing { s.hallmark.events with base := v / 64 * 64 }) ∧
    exec (.registerWrite 0x0908 v) s = .next (s.setRing { s.hallmark.events with size := v }) ∧
    (s.readReg (0x1010 + 64 * q)).2 = (s.queue q).lastTail ∧
    (s.readReg (0x1018 + 64 * q)).2 = (s.queue q).head + if (s.queue q).swout then 2 ^ 63 else 0) ∧
   (s.tdiOpen = false → (0x1000 ≤ off ∧ off < 0x2000) ∨ (0x0900 ≤ off ∧ off < 0x0928) → exec (.registerWrite off v) s = .next s) ∧
    exec (.registerWrite (0x4000 + 64 * n) v) s = .next (s.setDebug ⟨n / 32, n % 32⟩ fun d =>
      { d with stepslot := v / 4 % 16, drain := bitAt v 1 }) ∧
    exec (.registerWrite (0x4018 + 64 * n) v) s = .next (s.setDebug ⟨n / 32, n % 32⟩ fun d =>
      { d with addr := BitVec.ofNat 64 (if v / 2 ^ 60 ≤ 6 then v else d.kind * 2 ^ 60 + v % 2 ^ 60) }) ∧
    (∀ p, p < 33 → v / 256 % 256 ≤ 128 → 20 ≤ v % 32 → v % 32 ≤ 30 → exec (.registerWrite (0x30000 + 64 * p) v) s =
      .next ((s.putPort { s.port p with quota := v / 256 % 256, termlog := v % 32 }).retrain p (v / 65536 % 256)) ∧
      (s.readReg (0x30000 + 64 * p)).2 = (s.port p).quota * 256 + (s.port p).termlog) ∧
    (off < 0x0900 → off ≠ 0x0800 → off ≠ 0x0810 → exec (.registerWrite off v) s = .next s) ∧
    (∀ rest, s.agenda = .barRead off :: rest → ∃ s', step s = .next s' ∧ s'.mem = s.mem ∧ s'.answer =
      some ⟨(leBytes 8 (s.readReg off).2).map BitVec.toNat, false⟩)) ∧
  ∀ (pa len : Nat) (data : List Nat) (s : State), s.hallmark.linkUp = true → s.hostMapped pa len = true → data.length = len → memWf s.mem = true →
    ((∀ i, i < len → s.frameOwner (pa + i) = 0) →
      (∃ s' a, exec (.hostMemRead pa len) s = .next s' ∧ s'.mem = s.mem ∧ s'.answer = some a ∧
        a.data = (List.range len).map (fun i => (memGet s.mem (pa + i)).toNat)) ∧
      ∃ s', exec (.hostMemWrite pa data) s = .next s' ∧
        (∀ i, i < len → (memGet s'.mem (pa + i)).toNat = ((data[i]?).getD 0) % 256) ∧
        ∀ k, k < pa ∨ pa + len ≤ k → memGet s'.mem k = memGet s.mem k) ∧
    ((∃ i, i < len ∧ s.frameOwner (pa + i) ≠ 0) → s.hallmark.events.room = false →
      (∃ s', exec (.hostMemRead pa len) s = .next s' ∧ s'.mem = s.mem ∧ s'.answer = some ⟨List.replicate len 0, true⟩ ∧
        s'.hallmark.events.overflow = true) ∧
      ∃ s', exec (.hostMemWrite pa data) s = .next s' ∧ s'.mem = s.mem ∧ s'.hallmark.events.overflow = true)

/-- R89, R308, R324 to R326: HALT stops issue on the core at once; a write to HALT sets VOID for the core's launches; QUIET and HALTED come with quiescence, STEP
lets one instruction issue; DBGDATA reads what DBGADDR names, the registers only of a parked strand or a halted core, answers GROTTO for a
grotto byte in any world, refuses a confidential world otherwise, and writes only a halted quiet core.
Model choices it rests on: log entry 25. -/
def Obligations.DebuggerAccess : Prop :=
  ∀ (c : CoreId) (v : Nat) (s : State), s.hallmark.linkUp = true →
    let d := (s.core c).dbg
    (∀ drain, ∃ s', exec (.dbgHaltSet c drain) s = .next s' ∧ s'.mem = s.mem ∧ (s'.core c).dbg.halt = true ∧
      (drain = false → (s'.core c).dbg.halted = true) ∧ (drain = true → (s'.core c).dbg.halted = (d.halted || d.quiet)) ∧
      (d.stepping = false → ∀ t ∈ s'.strandsOn c, t.super = false → s'.canIssue t = false) ∧
      (∀ t ∈ s.strandsOn c, t.super = false → ∀ l, s'.launch? t.launch = some l → l.void = true) ∧
      ∀ i t, s.strand? i = some t → ∃ t', s'.strand? i = some t' ∧ t'.regs = t.regs ∧ t'.held = t.held ∧ t'.frame = t.frame) ∧
    (∃ s', exec (.dbgHaltClear c) s = .next s' ∧ s'.mem = s.mem ∧ (s'.core c).dbg.halt = false ∧
      (s'.core c).dbg.halted = false ∧ (s'.core c).dbg.quiet = false ∧ (s'.core c).dbg.drain = false ∧
      ∀ t ∈ s.strandsOn c, t.super = false → ∀ l, s'.launch? t.launch = some l → l.void = true) ∧
    (d.halt = true → s.isQuiet c = true → exec (.dbgQuiet c) s =
      .next (s.setDebug c fun d => { d with quiet := true, halted := true })) ∧
    (s.isQuiet c = false → exec (.dbgQuiet c) s = .next s) ∧
    (d.halted = true → exec (.dbgStep c) s = .next (s.setDebug c fun d => { d with stepping := true, quiet := false })) ∧
    (d.halted = false → exec (.dbgStep c) s = .next s) ∧
    (∃ s', exec (.dbgAttach c) s = .next s' ∧ s'.mem = s.mem ∧ (s'.core c).dbg.attach = true ∧
      ∀ t ∈ s.strandsOn c, t.super = false → ∀ l, s'.launch? t.launch = some l → l.void = true) ∧
    (let read := fun (data rstat : Nat) => exec (.dbgDataRead c) s =
      .next ((s.dbgTouch c).setDebug c fun d => { d with data := BitVec.ofNat 64 data, rstat := rstat })
     (∀ t, s.strand? ⟨c.die, c.core, d.slot⟩ = some t →
      (d.halted = true ∨ t.frame.isSome = true →
        (t.world = 0 → d.kind = 0 → d.index < 64 → read (t.regs.s.toList.getD d.index 0).toNat 0) ∧
        (t.world = 0 → d.kind = 0 → 64 ≤ d.index → read 0 8) ∧
        (t.world = 0 → d.kind = 2 → d.index < 32 → read (2 ^ 64 - 1) 0) ∧
        (d.kind = 4 → t.frame = none → read t.pc.toNat 0) ∧
        (∀ f, d.kind = 4 → t.frame = some f → read f.vpc.toNat 0)) ∧
      (d.halted = false → t.frame = none → d.kind ∈ [0, 1, 2, 4] → read 0 2) ∧
      (∀ f, d.kind = 5 → t.frame = some f → read f.cause 0) ∧
      (t.world ≠ 0 → d.kind ∈ [0, 1, 2] → read 0 2)) ∧
     (∀ i, d.kind = 3 → d.index + 8 ≤ 2 ^ 21 → i < 8 → (s.core c).grottoAt (d.index + i) = true → read 0 (if d.quiet then 6 else 7)) ∧
     (s.strand? ⟨c.die, c.core, d.slot⟩ = none → d.kind = 0 → read 0 8) ∧
     (7 ≤ d.kind → read 0 2) ∧
     (d.kind = 3 → (∀ t ∈ s.strandsOn c, t.world = 0) → (∀ l, s.launch? (s.core c).launch = some l → l.world = 0) →
      (s.core c).grotto = [] → d.index + 8 ≤ 2 ^ 21 →
      read (leValue (memBytes (s.core c).spad d.index 8)) (if d.quiet then 0 else 1))) ∧
    (¬ (d.halted = true ∧ d.quiet = true) → exec (.dbgDataWrite c v) s =
      .next (s.setDebug c fun d => { d with data := BitVec.ofNat 64 v, rstat := 2 })) ∧
    (d.halted = true → d.quiet = true → v < 2 ^ 64 → ∀ t, s.strand? ⟨c.die, c.core, d.slot⟩ = some t →
      (t.world = 0 → d.kind = 0 → d.index < 64 → ∃ s', exec (.dbgDataWrite c v) s = .next s' ∧ (s'.core c).dbg.rstat = 0 ∧
        s'.strand? ⟨c.die, c.core, d.slot⟩ = some (t.setN d.index v) ∧ s'.mem = s.mem) ∧
      (t.world = 0 → d.kind = 4 → v % 8 = 0 → t.frame = none → ∃ s', exec (.dbgDataWrite c v) s = .next s' ∧
        (s'.core c).dbg.rstat = 0 ∧ s'.strand? ⟨c.die, c.core, d.slot⟩ =
          some { t with pc := BitVec.ofNat 64 v, again := if BitVec.ofNat 64 v == t.pc then t.again else none }) ∧
      (t.world ≠ 0 → d.kind ≠ 3 → exec (.dbgDataWrite c v) s =
        .next (s.setDebug c fun d => { d with data := BitVec.ofNat 64 v, rstat := 2 })))

/-- R361 to R366, R368, R374, R268 to R274, R262: boot from power-good releases and measures the dies in order, zeroes memory and starts the
runtime, after which the host's link is up; a runtime fault restarts it; quotes are signed and measurement blocks read; a package loads into
grotto pages of its world, or reports which step failed; worlds are created and torn down zeroed; only the repair record survives
POWER_OFF. Model choices it rests on: log entries 3, 28, 29, 30 and 32. -/
def Obligations.HallmarkBoot : Prop :=
  (∀ (b : BootInput) (s : State), s.powerGood = true →
    (runtimeWorldOk b = false → exec (.powerGoodBoot b) s = .next s) ∧
    (runtimeWorldOk b = true →
    (b.firmwareOk = false → exec (.powerGoodBoot b) s = .next s) ∧
    (b.firmwareOk = true → b.ioOk = false → exec (.powerGoodBoot b) s = .next (s.setSlot 0 (bootMs b 0))) ∧
    (b.firmwareOk = true → b.ioOk = true → ∃ s', exec (.powerGoodBoot b) s = .next s' ∧
      s'.hallmark.slots.toList.getD 0 0 = bootMs b 0 ∧ s'.hallmark.slots.toList.getD 1 0 = bootMs b 1 ∧
      (b.opticsOk = false → s'.fabric.off = true) ∧
      (b.opticsOk = true → s'.hallmark.slots.toList.getD 10 0 =
        Config.sha384 ((List.range 3).flatMap fun i => leBytes 48 (b.engines.getD i 0)) % 2 ^ 384) ∧
      (b.runtimeOk = false → ∀ d ∈ s'.dies, d.released = false) ∧
      (b.runtimeOk = true → s'.hallmark.linkUp = true) ∧ s'.poison = [] ∧
      (∀ pa, (∀ x ∈ b.image, pa < x.1 ∨ x.1 + x.2.length ≤ pa) ∨ b.runtimeOk = false → memGet s'.mem pa = 0) ∧
      ∀ d, d < 8 →
        let bad := fun (c : Nat) => (s'.hallmark.repairs.filter fun m => m.die == d && m.chan == c && !m.row).length
        let ok := dieSays b.dieOk d && dieSays b.trainOk d && (List.range 32).any fun c => bad c ≤ 4
        s'.hallmark.slots.toList.getD (2 + d) 0 = (if ok then bootMs b (2 + d) else 0) ∧ (s'.die d).absent = !ok ∧
        (s'.die d).released = (ok && b.runtimeOk) ∧
        (b.runtimeOk = true → s.strands = [] → s'.hallmark.slots.toList.getD 11 0 = Config.imageMeasure b.image % 2 ^ 384 ∧
          (s'.world? 0).map World.root = some b.root0 ∧ (∀ t ∈ s'.strands, t.super = true ∧ t.at_.core = 0 ∧ t.at_.slot = 15) ∧
          (ok = true → ∃ t, s'.strand? ⟨d, 0, 15⟩ = some t ∧ t.world = b.runtimeWorld ∧ t.regs = Regs.reset ∧
            t.pc = BitVec.ofNat 64 (b.runtimeEntry / 8 * 8) ∧ t.phase = .live ∧ t.frame = none))))) ∧
  (∀ (die : Nat) (s : State) (t : Strand), s.strand? ⟨die, 0, 15⟩ = some t → (s.die die).runtimeFault = true →
    (s.die die).released = true → ∃ s' t', exec (.runtimeRestart die) s = .next s' ∧
      s'.hallmark.restarts = s.hallmark.restarts + 1 ∧ (s'.die die).runtimeFault = false ∧ (s'.die die).plate = [] ∧
      (∀ c ∈ s'.cores, c.id.die = die → c.spad = [] ∧ c.cells = [] ∧ c.codebook = [] ∧ (∀ o ∈ c.copies, o.owner ≠ ⟨die, 0, 15⟩) ∧
        ∀ r ∈ c.regions, ∀ h, r.owner ≠ .handle ⟨die, 0, 15⟩ h) ∧
      (∀ g ∈ s.stages, g.die = die → ∀ l, s'.launch? g.launch = some l → l.killed = true ∧ l.status = 0x48) ∧
      s'.strand? ⟨die, 0, 15⟩ = some t' ∧ t'.pc.toNat = t.entry.toNat / 8 * 8 ∧ t'.super = true ∧ t'.regs = Regs.reset ∧ t'.phase = .live) ∧
  (∀ (world nonce : Nat) (s : State) (w : World), s.world? world = some w →
    let bs := s.quoteBytes w nonce
    exec (.quoteRequest world nonce) s = .next { s with hallmark := { s.hallmark with
      signed := s.hallmark.signed ++ [bs ++ beBytes 96 (Config.identitySign bs)] ++ [Config.packageCert s.hallmark.slots[0]] } } ∧
    bs.length = 1400 + 56 * w.quoted.length ∧ w.quoted.length ≤ 64 ∧ leAt bs 0 4 = 0x01515847 ∧ leAt bs 8 32 = nonce % 2 ^ 256 ∧
    leAt bs 40 48 = s.hallmark.slots[0] % 2 ^ 384 ∧ leAt bs 628 4 = s.hallmark.restarts % 2 ^ 32 ∧
    leAt bs 616 8 = (if s.fabric.member.isSome then 2 ^ 32 + s.fabric.podId else 0) % 2 ^ 64 ∧
    ∀ d, d < 8 → bitAt (leAt bs 624 1) d = !(s.die d).released ∧
      leAt bs (40 + 48 * (2 + d)) 48 = if (s.die d).released then s.hallmark.slots.toList.getD (2 + d) 0 % 2 ^ 384 else 0) ∧
  (∀ (i : Nat) (rest : List Choice) (s : State), s.agenda = .measurement i :: rest → s.hallmark.linkUp = true → i < 12 →
    ∃ s', step s = .next s' ∧ s'.mem = s.mem ∧ s'.answer = some ⟨(leBytes 48 (if 2 ≤ i ∧ i < 10 ∧ (s.die (i - 2)).released = false then 0
      else s.hallmark.slots.toList.getD i 0)).map BitVec.toNat, false⟩) ∧
  (∀ (world addr gb size : Nat) (s : State), gb % 65536 = 0 →
    let fails := fun (st : Nat) => exec (.packageLoad world addr gb size) s = .next (s.pkgReply st 0)
    (s.pkgHead addr = none → fails 0x31) ∧
    (∀ head, s.pkgHead addr = some head →
      let pol := (polsOf head).map polEntry
      (leAt head 16 48 ≠ s.hallmark.slots[0] → fails 0x32) ∧
      (leAt head 16 48 = s.hallmark.slots[0] → s.regionOwned world gb size = false → fails 0x36) ∧
      (leAt head 16 48 = s.hallmark.slots[0] → s.regionOwned world gb size = true →
        (s.pkgPlain addr head = none → fails 0x33) ∧
        (∀ text, s.pkgPlain addr head = some text →
          (s.admitsDevice ⟨world, 0, gb, size, pol, false, 0⟩ = false → fails 0x34) ∧
          (s.admitsDevice ⟨world, 0, gb, size, pol, false, 0⟩ = true →
            (weightSegs (text.length / 16 + 1) text = none → fails 0x35) ∧
            ∀ segs, weightSegs (text.length / 16 + 1) text = some segs →
              (segsFit size segs = false → fails 0x35) ∧
              (segsFit size segs = true → ∃ h, (∀ p ∈ s.packages, p.world = world → p.handle ≠ h) ∧
                let zeroed := s.writeWorld world gb (List.replicate (65536 * regionPages size) 0)
                let filled := segs.foldl (fun s g => s.writeWorld world (gb + g.off) g.bytes) zeroed
                let locked := filled.setRegion world gb size fun e => e - field e 1 4 * 2 + 18
                exec (.packageLoad world addr gb size) s = .next (({ locked with packages := s.packages ++
                  [⟨world, h, gb, size, pol, false, Config.freeValue s.freeCount⟩] } : State).drawFree.pkgReply 0x30 h))))))) ∧
  (∀ (world handle : Nat) (s : State) (p : Package), s.packages.find? (fun x => x.world == world && x.handle == handle) = some p →
    (s.pkgBound p = false → ∃ s', exec (.packageUnload world handle) s = .next s' ∧
      s'.mem = ((s.writeWorld p.world p.gb (List.replicate (65536 * regionPages p.size) 0)).setRegion p.world p.gb p.size
        fun e => e - field e 4 1 * 16).mem ∧ ∀ x ∈ s'.packages, x.world = world → x.handle ≠ handle) ∧
    (s.pkgBound p = true → ∃ s', exec (.packageUnload world handle) s = .next s' ∧ s'.mem = s.mem ∧
      ∀ x ∈ s'.packages, x.world = world → x.handle = handle → x.unloading = true)) ∧
  (∀ (w : WorldInput) (s : State), memWf s.mem = true →
    (s.worldOk w = true → ∃ s' x, exec (.worldCreate w) s = .next s' ∧ s'.world? w.world = some x ∧ x.root = w.root ∧
      x.signers = w.signers ∧ x.pinQuota = w.pinQuota ∧
      x.keys.scrambler.toList = (List.range 8).map (fun d => Config.freeValue (s.freeCount + 2 + d)) ∧ (∀ f ∈ w.frames, s'.frameOwner (f * 65536) = w.world ∧
        ∀ k, k < 65536 → memGet s'.mem (f * 65536 + k) = 0) ∧
      ∀ pa, pa / 65536 ∉ w.frames → memGet s'.mem pa = memGet s.mem pa ∧ s'.frameOwner pa = s.frameOwner pa) ∧
    (s.worldOk w = false → exec (.worldCreate w) s = .next s) ∧
    (1 ≤ w.world → w.world ≤ 254 → (s.world? w.world).isSome = true →
      (∀ l ∈ s.launches, l.world ≠ w.world) →
      ∃ s', exec (.worldTeardown w.world) s = .next s' ∧ s'.world? w.world = none ∧
        (∀ pa, s.frameOwner pa = w.world → memGet s'.mem pa = 0 ∧ s'.frameOwner pa = 0) ∧
        (∀ pa, s.frameOwner pa ≠ w.world → s.inMap pa = true → memGet s'.mem pa = memGet s.mem pa) ∧
        (∀ p ∈ s'.packages, p.world ≠ w.world) ∧ (∀ sl, (s.session sl).serves w.world = true → (s'.session sl).key = 0) ∧
        ∀ c ∈ s'.cores, ∀ e ∈ c.tlb, e.world ≠ w.world)) ∧
  ∀ s : State, exec .powerOff s = .next { State.reset with
    agenda := s.agenda, freeCount := s.freeCount, hallmark := { Hallmark.reset with repairs := s.hallmark.repairs } }

/-- R368 to R370, R376, R210, R299: an uncorrectable error poisons the line or sector, traps the strand whose next instruction reads the
register, the packet or the cells, poisons the operation under way, kills the launch of an estimator with its VOID set, ends a lease or stops
a session; a lane with more than 4,096 corrected errors is marked; THERMCAP steps by one, and at 110 degrees every launch is killed, its
strands still holding their items, and every die held in reset. Model choices it rests on: log entries 31 and 32. -/
def Obligations.ErrorsAndHeat : Prop :=
  (∀ (c : CoreId) (slot : SlotId) (die chan row pa off handle : Nat) (s : State),
    (∃ s', exec (.uncorrectableError (.scratch c off)) s = .next s' ∧ off / 32 ∈ (s'.core c).spadPoison) ∧
    (∃ s', exec (.uncorrectableError (.l2 die pa)) s = .next s' ∧ pa / 64 ∈ s'.poison) ∧
    (∃ s', exec (.uncorrectableError (.farDirty die pa)) s = .next s' ∧ pa / 64 ∈ s'.poison) ∧
    (∃ s', exec (.uncorrectableError (.hbm die chan row pa)) s = .next s' ∧ pa / 64 ∈ s'.poison ∧
      (⟨die, chan, true, row⟩ : RepairMark) ∈ s'.hallmark.repairs) ∧
    (∀ i, i = Instr.uncorrectableError (.farClean die pa) ∨ i = Instr.uncorrectableError (.parity die) →
      ∃ s', exec i s = .next s' ∧ s'.strands = s.strands ∧ s'.launches = s.launches ∧ s'.hallmark.repairs = s.hallmark.repairs) ∧
    (∀ t i s1, s.strand? slot = some t → t.super = false → t.world = 0 → s.canIssue t = true →
      fetchDecode s t = (s1, .instr i) →
      let traps := fun (site : ErrorSite) (part : Nat) => ∃ s' t' f, exec (.uncorrectableError site) s = .next s' ∧
        s'.strand? slot = some t' ∧ t'.frame = some f ∧ f.cause = 0x15 ∧ f.info = BitVec.ofNat 64 part ∧ t'.regs = t.regs ∧ t'.pc = t.pc
      (∀ file n, (sourceRefs i t).any (Ref.names file n) = true → traps (.regBank slot file n) 1) ∧
      (∀ file n, (sourceRefs i t).any (Ref.names file n) = false → exec (.uncorrectableError (.regBank slot file n)) s = .next s) ∧
      (∀ f m, .vsrc f m ∈ allRefs i t → 32 ≤ f → traps (.chan slot) 3) ∧
      (chanReads i t = [] → (∀ f m, .vsrc f m ∈ allRefs i t → f < 32) → exec (.uncorrectableError (.chan slot)) s = .next s) ∧
      (∀ g d b tp mp bf16, i = .maccv g d handle b tp mp bf16 → t.ops = [] → traps (.accCell slot handle) 2) ∧
      (∀ g d clr, i = .mstat g d handle false clr → t.ops = [] → traps (.accCell slot handle) 2)) ∧
    (∀ t o, s.strand? slot = some t → t.ops = [o] → o.begun = true → o.handle = some handle → o.poison = none →
      ∃ s' t', exec (.uncorrectableError (.accCell slot handle)) s = .next s' ∧ s'.strand? slot = some t' ∧
        t'.ops = [{ o with poison := some 1 }] ∧ ∀ l, s'.launch? t.launch = some l → l.void = true) ∧
    (∀ n k l e, s.launch? n = some l → l.ests.toList[k]? = some (some e) →
      ∃ s' l', exec (.uncorrectableError (.estimator n k)) s = .next s' ∧ s'.launch? n = some l' ∧ l'.killed = true ∧
        l'.void = true ∧ l'.status = 0x48) ∧
    (∀ port world dst l, (s.port port).lease world dst = some l → exec (.uncorrectableError (.lease port world dst)) s =
      .next ((s.settlePort ((s.port port).putLease (l.giveBack l.waves))).postError noDie 9 0)) ∧
    (∀ sl, (s.session sl).state = .opened → ∃ s', exec (.uncorrectableError (.session sl)) s = .next s' ∧
      (s'.session sl).state = .stopped ∧ (s'.session sl).final = true)) ∧
  (∀ (die : Nat) (lanes : List (Nat × Nat × Nat)) (s : State), ∃ s', exec (.correctedErrorWindow die lanes) s = .next s' ∧
    (∀ l ∈ lanes, 4096 < l.2.2 → (⟨die, l.1, false, l.2.1⟩ : RepairMark) ∈ s'.hallmark.repairs) ∧
    ((∀ l ∈ lanes, l.2.2 ≤ 4096) → s'.hallmark.repairs = s.hallmark.repairs)) ∧
  ∀ (t : Nat) (s : State),
    (∃ s', exec (.thermalStep t) s = .next s' ∧ s'.hallmark.hostcap = s.hallmark.hostcap ∧ s'.hallmark.thermcap =
      (if 100 ≤ t then max 1 (s.hallmark.thermcap - 1) else if t < 95 then min 8 (s.hallmark.thermcap + 1)
        else s.hallmark.thermcap)) ∧
    (t < 110 → exec (.thermalShutdown t) s = .next s) ∧
    (110 ≤ t → ∃ s', exec (.thermalShutdown t) s = .next s' ∧ (∀ u ∈ s'.strands, u.super = false) ∧
      (∀ u ∈ s.strands, u.super = false → ∃ u' ∈ s'.strands, u'.at_ = u.at_ ∧ u'.held = u.held) ∧ (∀ d ∈ s'.dies, d.released = false) ∧
      ∀ n l, s'.launch? n = some l → l.killed = true ∧ l.status = 0x48)


/-! ## The machine as a whole -/

/-- R54, R92, R256, R305: a step with an empty agenda, or whose choice is an issue, takes the strand that the selector names, which is ready and
before which no ready strand issues, reads the eight bytes at its PC as a little-endian word and runs exactly the instruction it decodes
to, with the issue noted; an attempt that finds it must wait is no issue and leaves the machine as it was but for the strand's stall and its
ready time; an event of the agenda runs as itself, and a unit of a matrix operation is performed.
Model choices it rests on: log entries 2 and 19. -/
def Obligations.StepRunsDecoded : Prop :=
  (∀ (s s0 s1 : State) (c : CoreId) (busy : List Nat) (t : Strand) (w : Nat) (i : Instr),
    (s.agenda = [] ∧ s0 = s ∧ c = coreOf s.focus ∧ busy = []) ∨ (∃ r, s.agenda = .issue c busy :: r ∧ s0 = { s with agenda := r }) →
    s0.selected c busy = some t → fetchWord (s0.holdBack c busy) t = (s1, .ok w) → decode w = .instr i →
    ((s1.core (coreOf t.at_)).anyAsleep (banksNeeded i t) = false →
      (∀ s', exec i (s1.markIssue t i) = .next s' → s'.stallAt t.at_ = none → step s = exec i (s1.markIssue t i)) ∧
      (∀ s' x, exec i (s1.markIssue t i) = .next s' → s'.stallAt t.at_ = some x → step s =
        .next (({ s1 with focus := t.at_ } : State).putStrand
          { t with stall := some x, readyAt := s1.now t.at_ + 1, urgent := false })) ∧
      (s1.markIssue t i).focus = t.at_ ∧ (s1.markIssue t i).mem = s1.mem ∧
      (s1.markIssue t i).strand? t.at_ = some { t with
        lastIssue := (s1.core (coreOf t.at_)).cycle.toNat, urgent := false, stall := none } ∧
      ((s1.markIssue t i).core (coreOf t.at_)).cycle = (s1.core (coreOf t.at_)).cycle + 1) ∧
    ((s1.core (coreOf t.at_)).anyAsleep (banksNeeded i t) = true → ∃ s', step s = .next s' ∧
      s'.strand? t.at_ = some { t with bankStall := true } ∧ s'.mem = s1.mem)) ∧
  (∀ (s : State) (c : CoreId) (busy : List Nat) (t : Strand), s.selected c busy = some t →
    t ∈ s.strandsOn c ∧ s.isReady busy t = true ∧
    ∀ u ∈ s.strandsOn c, s.isReady busy u = true → issuesBefore s.isUrgent u t = false) ∧
  (∀ (s s1 : State) (t : Strand) (w : Nat), fetchBytes s t = (s1, .ok w) →
    ∃ l q, translate s (coreOf t.at_) t.world t.pc.toNat = (s1, .leaf l q) ∧ pteX l.pte = true ∧
      w = leValue (memBytes s1.mem (l.pa + t.pc.toNat % l.size) 8)) ∧
  (∀ (s : State), s.agenda = [] → s.selected (coreOf s.focus) [] = none → step s = .next (s.passCycles (coreOf s.focus) 1)) ∧
  (∀ (s : State) (slot : SlotId) (op : Nat) (far : List FarLine) (r : List Choice), s.agenda = .unit slot op far :: r →
    step s = .next (({ s with agenda := r } : State).unitStep slot op far)) ∧
  ∀ (s : State) (i : Instr) (r : List Choice), s.agenda = .event i :: r → isEvent i = true →
    step s = exec i { s with agenda := r }

/-- R55, R56, R60: words of every format, written out field by field, decode to the instructions they stand for; an unlisted opcode and the zero
word are no instruction. -/
def Obligations.DecodedWords : Prop :=
  decode (0x040#10 ++ 3#4 ++ 1#1 ++ 1#6 ++ 2#6 ++ 3#6 ++ 0#6 ++ 0#9 ++ 0#16).toNat =
    .instr (.add ⟨⟨3, true⟩, 1, 2, 3, false, false, false⟩) ∧
  decode (0x042#10 ++ 0#4 ++ 0#1 ++ 5#6 ++ 6#6 ++ 0#5 ++ 0xFFFFFFF8#32).toNat = .instr (.addi ⟨0, false⟩ 5 6 false 0xFFFFFFF8) ∧
  decode (0x002#10 ++ 2#4 ++ 0#1 ++ 0#6 ++ 0#6 ++ 0#5 ++ 0xFFFFFFFD#32).toNat = .instr (.br ⟨2, false⟩ .none 0xFFFFFFFD) ∧
  decode (0x0C0#10 ++ 0#4 ++ 0#1 ++ 4#6 ++ 2#6 ++ 3#6 ++ 0#3 ++ 0#2 ++ 2#3 ++ 0#3 ++ 2#2 ++ 0#1 ++ 8#17).toNat =
    .instr (.ld ⟨⟨0, false⟩, 4, 2, 3, .g, 0, .w, 2, 8⟩ .plain false) ∧
  decode (0x180#10 ++ 0#4 ++ 0#1 ++ 4#6 ++ 5#6 ++ 34#6 ++ 0#6 ++ 1#1 ++ 1#1 ++ 0#1 ++ 0#9 ++ 0#13).toNat =
    .instr (.vfadd ⟨⟨0, false⟩, 4, 5, 34, true, true, false⟩ false .dyn) ∧
  decode (0x204#10 ++ 1#4 ++ 0#1 ++ 2#6 ++ 3#6 ++ 4#6 ++ 5#4 ++ 6#4 ++ 1#3 ++ 0#4 ++ 0#16).toNat =
    .instr (.mma ⟨⟨1, false⟩, 2, 3, 4, 5, 6, .ovw⟩) ∧
  decode (0x244#10 ++ 0#4 ++ 0#1 ++ 0#6 ++ 7#6 ++ 8#6 ++ 0#6 ++ 0#9 ++ 5#6 ++ 0#2 ++ 0#8).toNat =
    .instr (.cmapwt ⟨⟨0, false⟩, 7, 8, 5, false⟩) ∧
  decode (0x00E#10 ++ 0#4 ++ 0#1 ++ 5#6 ++ 0#6 ++ 0x101#12 ++ 0#25).toNat = .instr (.getsr ⟨0, false⟩ 5 0x101) ∧
  decode (0x380#10 ++ 0#54).toNat = .illegalOp ∧ decode 0 = .illegalOp ∧
  decode (0x040#10 ++ 0#4 ++ 0#1 ++ 1#6 ++ 2#6 ++ 3#6 ++ 1#6 ++ 0#9 ++ 0#16).toNat = .illegalEnc

/-- R55 to R60: every well-formed instruction that has a word is read back from it, and every word that decodes is the one word of a well-formed
instruction. -/
def Obligations.EncodeDecode : Prop :=
  (∀ (i : Instr) (w : Nat), i.wf = true → encode i = some w → w < 2 ^ 64 ∧ decode w = .instr i) ∧
  ∀ (w : Nat) (i : Instr), w < 2 ^ 64 → decode w = .instr i → i.wf = true ∧ encode i = some w

/-- Every step keeps memory and every scratchpad in the canonical form (log entry 12). -/
def Obligations.StepKeepsMemory : Prop := ∀ s s' : State, MemoryCanonical s → step s = .next s' → MemoryCanonical s'

/-- R300, R363, R376: every step keeps HOSTCAP and THERMCAP within 1 to 8, and so the effective CAP; only boot and power-off change a measurement
slot, only a host write and power-off HOSTCAP, only a thermal step and power-off THERMCAP, and no step but power-off touches the repair record other
than to add to it. -/
def Obligations.StepKeepsCaps : Prop :=
  (∀ s s' : State, CapsLegal s → step s = .next s' → CapsLegal s' ∧ 1 ≤ s'.cap ∧ s'.cap ≤ 8) ∧
  ∀ (i : Instr) (s s' : State), exec i s = .next s' → i ≠ .powerOff →
    ((∀ b, i ≠ .powerGoodBoot b) → s'.hallmark.slots = s.hallmark.slots) ∧
    ((∀ v, i ≠ .hostcapWrite v) → s'.hallmark.hostcap = s.hallmark.hostcap) ∧
    ((∀ v, i ≠ .thermalStep v) → s'.hallmark.thermcap = s.hallmark.thermcap) ∧
    (∀ m ∈ s.hallmark.repairs, m ∈ s'.hallmark.repairs)

/-- R361, R363, R290, R300, R376: what reset leaves: no strand, no world, every measurement slot zero, rings disabled, a full reservoir, caps of 8, nothing in
memory; the invariants hold there; a strand starts with zero scalars, FPCTL, FPFLAGS and VL.
Model choices it rests on: log entries 1 and 12. -/
def Obligations.ResetState : Prop :=
  State.reset.mem = [] ∧ State.reset.strands = [] ∧ State.reset.worlds = [] ∧ State.reset.dies = [] ∧ State.reset.launches = [] ∧
  State.reset.stages = [] ∧ State.reset.hallmark.slots = Vector.replicate 12 0 ∧ State.reset.hallmark.restarts = 0 ∧
  State.reset.hallmark.events.size = 0 ∧ (∀ q, q < 64 → (State.reset.queue q).qctl = 0 ∧ (State.reset.queue q).head = 0 ∧
    (State.reset.queue q).tail = 0) ∧ State.reset.level = 8 * 2 ^ 24 ∧ State.reset.hallmark.hostcap = 8 ∧
  State.reset.hallmark.thermcap = 8 ∧ State.reset.powerGood = true ∧ State.reset.pkgCycle = 0 ∧
  (∀ n, n < 64 → Regs.reset.s.toList.getD n 1 = 0) ∧ Regs.reset.vl = 0 ∧ Regs.reset.fpctl = 0 ∧ Regs.reset.fpflags = 0 ∧
  MemoryCanonical State.reset ∧ CapsLegal State.reset

/-- R54, R59, R61, R309 to R313: an instruction is checked in order and stops at the first check that fails, with that cause; a false scalar guard only moves the
PC on; a trap parks its strand with its frame or kills a confidential launch; a fetch that fails is a trap of the strand; completion leaves all else alone. -/
def Obligations.TrapsAndFrame : Prop :=
  (∀ (i : Instr) (s : State) (t : Strand), isEvent i = false → s.strand? s.focus = some t →
    (encOk i t = false → exec i s = .next (s.trap t ⟨0x02, 0, 0⟩)) ∧
    (encOk i t = true → refsOk i t = false → exec i s = .next (s.trap t ⟨0x03, 0, 0⟩)) ∧
    (encOk i t = true → refsOk i t = true →
      (elementGuarded i = false → t.guardBit (guardOf i) 0 = false → exec i s = .next (s.complete t)) ∧
      (elementGuarded i = true ∨ t.guardBit (guardOf i) 0 = true → privOk i t = false →
        exec i s = .next (s.trap t ⟨0x04, 0, 0⟩)))) ∧
  (∀ (s : State) (t : Strand) (x : Trap), t.super = false →
    (t.world = 0 ∨ (x.cause ≠ 0x06 ∧ x.cause ≠ 0x09) → ∃ t' f, (s.trap t x).strand? t.at_ = some t' ∧ t'.frame = some f ∧
      t'.wait = none ∧ t'.regs = t.regs ∧ t'.held = t.held ∧ f.cause = x.cause ∧ f.vpc = t.pc ∧ f.addr = BitVec.ofNat 64 x.addr ∧
      f.info = BitVec.ofNat 64 x.info ∧ (∀ l, (s.trap t x).launch? t.launch = some l → l.void = true) ∧
      SameMemory s (s.trap t x)) ∧
    (t.world ≠ 0 → x.cause = 0x06 ∨ x.cause = 0x09 → SameMemory s (s.trap t x) ∧
      ∀ l, (s.trap t x).launch? t.launch = some l → l.killed = true ∧ l.status = 0x48)) ∧
  (∀ (s s1 : State) (t : Strand) (x : Trap) (i : Instr), s.strand? t.at_ = some t → s.canIssue t = true →
    (fetchDecode s t = (s1, .fault x) → exec (.fetchFault t.at_) s = .next ((s1.stopStepping t).trap t x)) ∧
    (fetchDecode s t = (s1, .instr i) → exec (.fetchFault t.at_) s = .next s)) ∧
  ∀ (s : State) (u : Strand), u.at_ = s.focus → ∃ v, (s.complete u).strand? s.focus = some v ∧ v.regs = u.regs ∧
    v.pc = u.pc + 8 ∧ v.held = u.held ∧ v.frame = u.frame ∧ SameMemory s (s.complete u) ∧ OtherStrands s.focus s (s.complete u) ∧
    (s.complete u).stages = s.stages ∧ (s.complete u).launches = s.launches ∧ (s.complete u).dies = s.dies ∧
    (s.complete u).fabric = s.fabric ∧ (s.complete u).sessions = s.sessions ∧ (s.complete u).hallmark = s.hallmark
end

