-- ==== Sys2Proof/Laws/Keyed.lean ====
section
/-! SUPPORT. Keyed records: what is read back after a record is stored. -/

namespace Sys2Proof.Machine

section
variable {α κ : Type} [BEq κ] [LawfulBEq κ] (key : α → κ)

theorem find_upsert_same (x : α) (l : List α) : (upsert key x l).find? (fun y => key y == key x) = some x := by
  induction l with
  | nil => simp [upsert]
  | cons y r ih =>
    unfold upsert
    split
    · simp
    · rename_i h
      simp [h, ih]

theorem find_upsert_other (x : α) (k : κ) (l : List α) (h : k ≠ key x) :
    (upsert key x l).find? (fun y => key y == k) = l.find? (fun y => key y == k) := by
  induction l with
  | nil => simp [upsert, h.symm]
  | cons y r ih =>
    unfold upsert
    split
    · rename_i e
      have e' : key y = key x := by simpa using e
      have h1 : (key x == k) = false := by simpa using h.symm
      simp [e', h1]
    · simp [List.find?_cons, ih]

omit [LawfulBEq κ] in
theorem mem_upsert (x z : α) (l : List α) (h : z ∈ upsert key x l) : z = x ∨ z ∈ l := by
  induction l with
  | nil => simpa [upsert] using h
  | cons y r ih =>
    unfold upsert at h
    split at h
    · rcases List.mem_cons.mp h with h | h
      · exact .inl h
      · exact .inr (List.mem_cons_of_mem _ h)
    · rcases List.mem_cons.mp h with h | h
      · exact .inr (h ▸ List.mem_cons_self)
      · exact (ih h).imp id (List.mem_cons_of_mem _)

end

@[simp] theorem State.strand?_putStrand (s : State) (t : Strand) : (s.putStrand t).strand? t.at_ = some t :=
  find_upsert_same Strand.at_ t s.strands

theorem State.strand?_putStrand_same (s : State) (t : Strand) (i : SlotId) (h : t.at_ = i) :
    (s.putStrand t).strand? i = some t := h ▸ s.strand?_putStrand t

theorem State.strand?_putStrand_other (s : State) (t : Strand) (i : SlotId) (h : i ≠ t.at_) :
    (s.putStrand t).strand? i = s.strand? i := find_upsert_other Strand.at_ t i s.strands h

@[simp] theorem State.strand?_putCore (s : State) (c : Core) (i : SlotId) : (s.putCore c).strand? i = s.strand? i := rfl
@[simp] theorem State.strand?_putDie (s : State) (d : Die) (i : SlotId) : (s.putDie d).strand? i = s.strand? i := rfl
@[simp] theorem State.strand?_putLaunch (s : State) (l : Launch) (i : SlotId) : (s.putLaunch l).strand? i = s.strand? i := rfl
@[simp] theorem State.strand?_putStage (s : State) (g : Stage) (i : SlotId) : (s.putStage g).strand? i = s.strand? i := rfl

@[simp] theorem State.core_putCore (s : State) (c : Core) : (s.putCore c).core c.id = c := by
  simp [State.core, State.putCore, find_upsert_same]

theorem State.core_putCore_other (s : State) (c : Core) (i : CoreId) (h : i ≠ c.id) : (s.putCore c).core i = s.core i := by
  simp [State.core, State.putCore, find_upsert_other Core.id c i s.cores h]

@[simp] theorem State.core_putStrand (s : State) (t : Strand) (c : CoreId) : (s.putStrand t).core c = s.core c := rfl
@[simp] theorem State.core_putDie (s : State) (d : Die) (c : CoreId) : (s.putDie d).core c = s.core c := rfl
@[simp] theorem State.core_putLaunch (s : State) (l : Launch) (c : CoreId) : (s.putLaunch l).core c = s.core c := rfl
@[simp] theorem State.core_mapStrands (s : State) (f : Strand → Strand) (c : CoreId) : (s.mapStrands f).core c = s.core c := rfl

@[simp] theorem State.die_putDie (s : State) (d : Die) : (s.putDie d).die d.id = d := by
  simp [State.die, State.putDie, find_upsert_same]

theorem State.strand?_at (s : State) (i : SlotId) (t : Strand) (h : s.strand? i = some t) : t.at_ = i := by
  simpa using List.find?_some h

/-- A change of every strand that keeps its slot changes what stands there. -/
theorem State.strand?_mapStrands (s : State) (f : Strand → Strand) (i : SlotId) (h : ∀ t, (f t).at_ = t.at_) :
    (s.mapStrands f).strand? i = (s.strand? i).map f := by
  show (s.strands.map f).find? _ = (s.strands.find? _).map f
  rw [List.find?_map]
  simp [Function.comp_def, h]

end Sys2Proof.Machine
end

