-- ==== Sys2Proof/Laws/Gate.lean ====
section
/-! SUPPORT. What the common frame of an instruction can do (03 R61). -/

namespace Sys2Proof.Machine

/-- An admitted instruction has its own effect. -/
theorem gated_of_admits {i : Instr} {s : State} {t u : Strand} (h : Admits i s t u) (body : State → Strand → State) :
    gated i s body = .next (body s u) := by
  unfold gated State.gatedStep
  have hg : (!elementGuarded i && !t.guardBit (guardOf i) 0) = false := by
    rcases h.guard with e | e <;> simp [e]
  simp [h.here, h.enc, h.regs, hg, h.priv, h.packets]

/-- An admitted instruction that is a release toward an engine has its effect once no space-D store to this device is open, and
stalls while one is. -/
theorem released_of_admits {i : Instr} {s : State} {t u : Strand} (h : Admits i s t u) (body : State → Strand → State) :
    released i s body = .next (if s.owesOwn u allStreams then s.stall u .other else body s u) :=
  gated_of_admits h _

/-- Everything an issue can answer: the slot is empty; a trap of steps 2 to 5; a scalar guard that is false; a wait for
packets; or the instruction's own effect. -/
theorem gated_cases (i : Instr) (s : State) (body : State → Strand → State) :
    (s.strand? s.focus = none ∧ gated i s body = .fault .emptySlot) ∨
    ∃ t, s.strand? s.focus = some t ∧
      ((∃ x, gated i s body = .next (s.trap t x)) ∨
        (elementGuarded i = false ∧ t.guardBit (guardOf i) 0 = false ∧ gated i s body = .next (s.complete t)) ∨
        gated i s body = .next (s.stall t .packets) ∨
        ∃ u, Admits i s t u ∧ gated i s body = .next (body s u)) := by
  cases hs : s.strand? s.focus with
  | none => exact .inl ⟨rfl, by simp [gated, hs]⟩
  | some t =>
    refine .inr ⟨t, rfl, ?_⟩
    have e : gated i s body = .next (s.gatedStep t i body) := by simp [gated, hs]
    by_cases h1 : encOk i t = true
    · by_cases h2 : refsOk i t = true
      · by_cases h3 : (!elementGuarded i && !t.guardBit (guardOf i) 0) = true
        · right; left
          refine ⟨by simp at h3; exact h3.1, by simp at h3; exact h3.2, ?_⟩
          rw [e, State.gatedStep]; simp [h1, h2, h3]
        · by_cases h4 : privOk i t = true
          · cases h5 : takeAll s t (chanReads i t) with
            | ready u =>
              right; right; right
              refine ⟨u, ⟨hs, h1, h2, ?_, h4, h5⟩, ?_⟩
              · simp at h3
                by_cases h6 : elementGuarded i = true
                · exact .inl h6
                · exact .inr (h3 (by simpa using h6))
              · rw [e, State.gatedStep]; simp [h1, h2, h3, h4, h5]
            | stall => right; right; left; rw [e, State.gatedStep]; simp [h1, h2, h3, h4, h5]
            | trap x => left; exact ⟨x, by rw [e, State.gatedStep]; simp [h1, h2, h3, h4, h5]⟩
          · left; exact ⟨⟨causePriv, 0, 0⟩, by rw [e, State.gatedStep]; simp [h1, h2, h3, h4]⟩
      · left; exact ⟨⟨causeIllegalReg, 0, 0⟩, by rw [e, State.gatedStep]; simp [h1, h2]⟩
    · left; exact ⟨⟨causeIllegalEnc, 0, 0⟩, by rw [e, State.gatedStep]; simp [h1]⟩

/-- An instruction that reads no channel register is admitted with its strand unchanged. -/
theorem Admits.same {i : Instr} {s : State} {t u : Strand} (h : Admits i s t u) (n : chanReads i t = []) : u = t := by
  have := h.packets
  rw [n] at this
  simpa [takeAll] using this.symm

/-- The strand an admitted instruction leaves stands where it stood. -/
theorem takePackets_at {s : State} {t u : Strand} {q g : Nat} (h : takePackets s t q g = .ready u) : u.at_ = t.at_ := by
  unfold takePackets at h
  split at h
  · cases h; rfl
  · split at h
    · cases h
    · split at h
      · cases h
      · split at h
        · cases h
        · split at h
          · cases h
          · dsimp only at h
            split at h
            · cases h
            · cases h; rfl

theorem takeAll_at {s : State} {t u : Strand} {l : List (Nat × Nat)} (h : takeAll s t l = .ready u) : u.at_ = t.at_ := by
  induction l generalizing t with
  | nil => cases h; rfl
  | cons x r ih =>
    obtain ⟨q, g⟩ := x
    unfold takeAll at h
    cases e : takePackets s t q g with
    | ready t' => rw [e] at h; exact (ih h).trans (takePackets_at e)
    | stall => rw [e] at h; dsimp only at h; split at h <;> cases h
    | trap x => rw [e] at h; cases h

/-- Every instruction, as opposed to an event, has its effect behind the common frame of R61. -/
theorem exec_gated (i : Instr) (s : State) (h : isEvent i = false) : ∃ body, exec i s = gated i s body := by
  cases i <;> first | exact ⟨_, rfl⟩ | exact Bool.noConfusion (h : true = false)

end Sys2Proof.Machine
end

