-- ==== Sys2Proof/Laws/Memory.lean ====
section
/-! SUPPORT. Byte lists: their canonical form is kept, and a read after a write gives what was written and nothing else
changed. -/

namespace Sys2Proof.Machine

theorem memFrom_mono {m : List (Nat × Byte)} {a b : Nat} (h : memFrom b m = true) (le : a ≤ b) : memFrom a m = true := by
  cases m with
  | nil => rfl
  | cons x r =>
    obtain ⟨k, v⟩ := x
    simp only [memFrom, Bool.and_eq_true, decide_eq_true_eq] at h ⊢
    exact ⟨⟨by omega, h.1.2⟩, h.2⟩

theorem memGet_below {m : List (Nat × Byte)} {lo a : Nat} (h : memFrom lo m = true) (lt : a < lo) : memGet m a = 0 := by
  cases m with
  | nil => rfl
  | cons x r =>
    obtain ⟨k, v⟩ := x
    simp only [memFrom, Bool.and_eq_true, decide_eq_true_eq] at h
    have hk : a < k := by omega
    have hne : k ≠ a := by omega
    simp [memGet, hne, hk]

theorem memSet_from {m : List (Nat × Byte)} {lo a : Nat} {b : Byte} (h : memFrom lo m = true) (le : lo ≤ a) :
    memFrom lo (memSet m a b) = true := by
  induction m generalizing lo with
  | nil =>
    by_cases hb : b = 0#8 <;> simp [memSet, memFrom, hb, le]
  | cons x r ih =>
    obtain ⟨k, v⟩ := x
    simp only [memFrom, Bool.and_eq_true, decide_eq_true_eq] at h
    obtain ⟨⟨hlo, hv⟩, hr⟩ := h
    have hv' : ¬v = 0#8 := by simpa using hv
    unfold memSet
    split
    · rename_i hak
      by_cases hb : b = 0#8
      · simp [hb, memFrom, hlo, hv', hr]
      · have : a + 1 ≤ k := hak
        simp [hb, memFrom, le, hv', hr, this]
    · split
      · rename_i h1 h2
        have hak : a = k := by simpa using h2
        by_cases hb : b = 0#8
        · simpa [hb] using memFrom_mono hr (by omega)
        · subst hak; simp [hb, memFrom, hlo, hr]
      · rename_i h1 h2
        have hak : a ≠ k := by simpa using h2
        simp [memFrom, hlo, hv', ih hr (by omega)]

theorem memSet_wf {m : List (Nat × Byte)} (a : Nat) (b : Byte) (h : memWf m = true) : memWf (memSet m a b) = true :=
  memSet_from h (Nat.zero_le a)

theorem memSetBytes_wf {m : List (Nat × Byte)} (a : Nat) (bs : List Byte) (h : memWf m = true) :
    memWf (memSetBytes m a bs) = true := by
  induction bs generalizing m a with
  | nil => exact h
  | cons b r ih => exact ih (a + 1) (memSet_wf a b h)

theorem memFrom_filter {m : List (Nat × Byte)} {lo : Nat} (p : Nat × Byte → Bool) (h : memFrom lo m = true) :
    memFrom lo (m.filter p) = true := by
  induction m generalizing lo with
  | nil => rfl
  | cons x r ih =>
    obtain ⟨k, v⟩ := x
    simp only [memFrom, Bool.and_eq_true, decide_eq_true_eq] at h
    rw [List.filter_cons]
    split
    · simp only [memFrom, Bool.and_eq_true, decide_eq_true_eq]
      exact ⟨h.1, ih h.2⟩
    · exact memFrom_mono (ih h.2) (by omega)

theorem memFilter_wf {m : List (Nat × Byte)} (p : Nat × Byte → Bool) (h : memWf m = true) : memWf (m.filter p) = true :=
  memFrom_filter p h

theorem memGet_memSet_same {m : List (Nat × Byte)} {lo : Nat} (a : Nat) (b : Byte) (h : memFrom lo m = true) :
    memGet (memSet m a b) a = b := by
  induction m generalizing lo with
  | nil => by_cases hb : b = 0#8 <;> simp [memSet, memGet, hb]
  | cons x r ih =>
    obtain ⟨k, v⟩ := x
    simp only [memFrom, Bool.and_eq_true, decide_eq_true_eq] at h
    obtain ⟨⟨hlo, hv⟩, hr⟩ := h
    unfold memSet
    split
    · rename_i hak
      have hne : k ≠ a := by omega
      by_cases hb : b = 0#8
      · simp [hb, memGet, hne, hak]
      · simp [hb, memGet]
    · split
      · rename_i h1 h2
        have hak : a = k := by simpa using h2
        by_cases hb : b = 0#8
        · simpa [hb] using memGet_below hr (by omega)
        · simp [hb, memGet]
      · rename_i h1 h2
        have hne : k ≠ a := fun e => h2 (by simp [e])
        have e := ih hr
        simp only [memGet]
        rw [if_neg (by simpa using hne), if_neg h1, e]

theorem memGet_memSet_other {m : List (Nat × Byte)} {lo a c : Nat} (b : Byte) (h : memFrom lo m = true) (hc : c ≠ a) :
    memGet (memSet m a b) c = memGet m c := by
  induction m generalizing lo with
  | nil =>
    by_cases hb : b = 0#8
    · simp [memSet, hb]
    · by_cases hlt : c < a <;> simp [memSet, memGet, hb, hlt, hc.symm]
  | cons x r ih =>
    obtain ⟨k, v⟩ := x
    simp only [memFrom, Bool.and_eq_true, decide_eq_true_eq] at h
    obtain ⟨⟨hlo, hv⟩, hr⟩ := h
    unfold memSet
    split
    · rename_i hak
      by_cases hb : b = 0#8
      · simp [hb]
      · have hne : a ≠ c := hc.symm
        by_cases hlt : c < a
        · have : k ≠ c := by omega
          have hck : c < k := by omega
          simp [hb, memGet, hne, hlt, this, hck]
        · simp [hb, memGet, hne, hlt]
    · split
      · rename_i h1 h2
        have hak : a = k := by simpa using h2
        subst hak
        have hne : a ≠ c := hc.symm
        by_cases hb : b = 0#8
        · by_cases hlt : c < a
          · simp [hb, memGet, hne, hlt, memGet_below hr (show c < a + 1 by omega)]
          · simp [hb, memGet, hne, hlt]
        · simp [hb, memGet, hne]
      · rename_i h1 h2
        by_cases hkc : k = c
        · simp [memGet, hkc]
        · have e := ih hr
          simp only [memGet]
          rw [e]

theorem memGet_memSetBytes_outside {m : List (Nat × Byte)} (a c : Nat) (bs : List Byte) (h : memWf m = true)
    (out : c < a ∨ a + bs.length ≤ c) : memGet (memSetBytes m a bs) c = memGet m c := by
  induction bs generalizing m a with
  | nil => rfl
  | cons b r ih =>
    simp only [List.length_cons] at out
    unfold memSetBytes
    rw [ih (a + 1) (memSet_wf a b h) (by omega)]
    exact memGet_memSet_other b h (by omega)

theorem memBytes_length (m : List (Nat × Byte)) (a n : Nat) : (memBytes m a n).length = n := by
  induction n generalizing a with
  | zero => rfl
  | succ n ih => simp [memBytes, ih]

theorem memGet_memSetBytes_inside {m : List (Nat × Byte)} (a i : Nat) (bs : List Byte) (h : memWf m = true)
    (lt : i < bs.length) : memGet (memSetBytes m a bs) (a + i) = bs[i] := by
  induction bs generalizing m a i with
  | nil => exact absurd lt (by simp)
  | cons b r ih =>
    cases i with
    | zero =>
      unfold memSetBytes
      rw [memGet_memSetBytes_outside (a + 1) (a + 0) r (memSet_wf a b h) (by omega)]
      simpa using memGet_memSet_same a b h
    | succ j =>
      unfold memSetBytes
      have := ih (m := memSet m a b) (a + 1) j (memSet_wf a b h) (by simpa using lt)
      simpa [Nat.add_assoc, Nat.add_comm 1 j] using this

/-- Writing a byte keeps the canonical form of memory. -/
theorem State.setByteAt_mem_wf (s : State) (l : Loc) (b : Byte) (h : memWf s.mem = true) :
    memWf (s.setByteAt l b).mem = true := by
  cases l with
  | phys pa => exact memSet_wf pa b h
  | spad c off => exact h

/-- Writing bytes keeps the canonical form of memory. -/
theorem State.setBytesAt_mem_wf (s : State) (l : List (Loc × Byte)) (h : memWf s.mem = true) :
    memWf (s.setBytesAt l).mem = true := by
  induction l generalizing s with
  | nil => exact h
  | cons x r ih => exact ih _ (s.setByteAt_mem_wf x.1 x.2 h)

end Sys2Proof.Machine
end

