-- ==== Sys2Proof/Laws/Pod.lean ====
section
/-! SUPPORT. What sending to another device can change (05 R93, R102; 16 R299; 19 R349). -/

namespace Sys2Proof.Machine

/-- Noting a path changes launches alone. -/
theorem State.usePath_eq (s : State) (launch dst : Nat) : ∃ l, s.usePath launch dst = { s with launches := l } := by
  have pick : ∀ (b : Bool) (x : Launch), ∃ l, (if b then s else s.putLaunch x) = { s with launches := l } := fun b x => by
    cases b
    · exact ⟨_, rfl⟩
    · exact ⟨s.launches, rfl⟩
  unfold State.usePath
  split
  · exact pick _ _
  · exact ⟨s.launches, rfl⟩

/-- A backlog grows by changing one port alone. -/
theorem State.addBacklogs_eq {α : Type} (port : Nat) (f : State → α → OutFlit) (l : List α) (s : State) :
    ∃ p, l.foldl (fun s x => s.addBacklog port (f s x)) s = { s with fabric := { s.fabric with ports := p } } := by
  induction l generalizing s with
  | nil => exact ⟨s.fabric.ports, rfl⟩
  | cons x r ih =>
    obtain ⟨p, h⟩ := ih (s.addBacklog port (f s x))
    exact ⟨p, h⟩

/-- Sending flits changes ports and the SEQ values of flows alone. -/
theorem State.sendFlits_eq (s : State) (podWorld src dst tag : Nat) (l : List Flit) :
    ∃ p q, s.sendFlits podWorld src dst tag l = { s with fabric := { s.fabric with ports := p, seqs := q } } := by
  unfold State.sendFlits
  split
  · exact ⟨s.fabric.ports, s.fabric.seqs, rfl⟩
  · dsimp only
    rename_i port path _
    obtain ⟨p, h⟩ := State.addBacklogs_eq port (fun (s : State) (f : Flit) =>
      (⟨streamName path podWorld src dst, none, s.streamWorld podWorld, tag, f⟩ : OutFlit)) l s
    rw [h]
    exact ⟨_, _, rfl⟩

/-- Sending a message to another device adds it to the outbox and changes ports and SEQ values alone; one to this device is
delivered at once (05 R91). -/
theorem State.send_eq (s : State) (r : RemoteAccess) :
    (s.fabric.member = some r.dst ∧ s.send r = s.deliverAccess r) ∨
    (s.fabric.member ≠ some r.dst ∧ ∃ p q, s.send r =
      { s with fabric := { s.fabric with outbox := s.fabric.outbox ++ [r], ports := p, seqs := q } }) := by
  unfold State.send
  split
  · rename_i e; exact .inl ⟨by simpa using e, rfl⟩
  · rename_i e
    obtain ⟨p, q, h⟩ := State.sendFlits_eq { s with fabric := { s.fabric with outbox := s.fabric.outbox ++ [r] } }
      r.podWorld (senderOf r) r.dst (globalTag r.src r.reqid) (accessFlits r)
    exact .inr ⟨by simpa using e, p, q, h⟩

/-- A notice to a strand of this device touches strands and saved strands alone; one to another device changes ports and SEQ values
alone (log entry 51). -/
theorem State.sendNotice_eq (s : State) (podWorld src tag dev : Nat) (lost : Bool) :
    (s.fabric.member = some src ∧ s.sendNotice podWorld src tag dev lost = s.hearNotice tag dev lost) ∨
    (s.fabric.member ≠ some src ∧ ∃ p q, s.sendNotice podWorld src tag dev lost =
      { s with fabric := { s.fabric with ports := p, seqs := q } }) := by
  unfold State.sendNotice
  split
  · rename_i e; exact .inl ⟨by simpa using e, rfl⟩
  · rename_i e; exact .inr ⟨by simpa using e, s.sendFlits_eq _ _ _ _ _⟩

/-- An access that is delivered here enters the inbox; a RELEASE may have its count lowered first, and changes the noted tags of its
stream (05 R102). -/
theorem State.deliverAccess_eq (s : State) (r : RemoteAccess) :
    ∃ c r', s.deliverAccess r = { s with fabric := { s.fabric with counts := c, inbox := s.fabric.inbox ++ [r'] } } ∧
      r'.src = r.src ∧ r'.reqid = r.reqid ∧ r'.va = r.va ∧ r'.data = r.data ∧ ((∀ n, r.kind ≠ .release n) → r' = r ∧ c = s.fabric.counts) := by
  unfold State.deliverAccess
  split
  · rename_i n e
    dsimp only
    split
    · exact ⟨_, _, rfl, rfl, rfl, rfl, rfl, fun h => absurd e (h n)⟩
    · exact ⟨_, _, rfl, rfl, rfl, rfl, rfl, fun h => absurd e (h n)⟩
  · exact ⟨s.fabric.counts, r, rfl, rfl, rfl, rfl, rfl, fun _ => ⟨rfl, rfl⟩⟩

/-- The message of a posted store under the strand's next tag. -/
def storeMessage (s : State) (t : Strand) (p : PodWorld) (m dev ea : Nat) (data : List Byte) : RemoteAccess :=
  ⟨s.deviceId, dev, p.num, .write, ea, data.length, t.nextTag.tagIn m, toNats data⟩

/-- Posting a store sends one message, whose tag stays with the strand, and counts it; toward an unreachable destination it
keeps a refusal for the strand. -/
theorem State.postStore_eq (s : State) (t : Strand) (p : PodWorld) (m dev ea : Nat) (data : List Byte) :
    (s.unreachableTo dev = true ∧ s.postStore t p m dev ea data = (s, { t with refusals := t.refusals ++ [(ea, 0)] })) ∨
    (s.unreachableTo dev = false ∧ ∃ l, s.postStore t p m dev ea data =
      (({ s with launches := l } : State).send (storeMessage s t p m dev ea data), (t.nextTag.posting m dev ea none).countStore m dev)) := by
  unfold State.postStore
  split
  · exact .inl ⟨‹_›, rfl⟩
  · rename_i e
    obtain ⟨l, h⟩ := s.usePath_eq t.launch dev
    exact .inr ⟨by simpa using e, l, by rw [h]; rfl⟩

end Sys2Proof.Machine
end

