-- ==== Sys2Proof/Laws/State.lean ====
section
/-! SUPPORT. What each update of the state leaves alone: one lemma per field per update, true by definition. -/

namespace Sys2Proof.Machine

/-! `putStrand` -/

@[simp] theorem State.putStrand_agenda (s : State) (t : Strand) : (s.putStrand t).agenda = s.agenda := rfl
@[simp] theorem State.putStrand_focus (s : State) (t : Strand) : (s.putStrand t).focus = s.focus := rfl
@[simp] theorem State.putStrand_freeCount (s : State) (t : Strand) : (s.putStrand t).freeCount = s.freeCount := rfl
@[simp] theorem State.putStrand_cores (s : State) (t : Strand) : (s.putStrand t).cores = s.cores := rfl
@[simp] theorem State.putStrand_dies (s : State) (t : Strand) : (s.putStrand t).dies = s.dies := rfl
@[simp] theorem State.putStrand_mem (s : State) (t : Strand) : (s.putStrand t).mem = s.mem := rfl
@[simp] theorem State.putStrand_poison (s : State) (t : Strand) : (s.putStrand t).poison = s.poison := rfl
@[simp] theorem State.putStrand_owners (s : State) (t : Strand) : (s.putStrand t).owners = s.owners := rfl
@[simp] theorem State.putStrand_retired (s : State) (t : Strand) : (s.putStrand t).retired = s.retired := rfl
@[simp] theorem State.putStrand_worlds (s : State) (t : Strand) : (s.putStrand t).worlds = s.worlds := rfl
@[simp] theorem State.putStrand_packages (s : State) (t : Strand) : (s.putStrand t).packages = s.packages := rfl
@[simp] theorem State.putStrand_sessions (s : State) (t : Strand) : (s.putStrand t).sessions = s.sessions := rfl
@[simp] theorem State.putStrand_launches (s : State) (t : Strand) : (s.putStrand t).launches = s.launches := rfl
@[simp] theorem State.putStrand_stages (s : State) (t : Strand) : (s.putStrand t).stages = s.stages := rfl
@[simp] theorem State.putStrand_chans (s : State) (t : Strand) : (s.putStrand t).chans = s.chans := rfl
@[simp] theorem State.putStrand_posted (s : State) (t : Strand) : (s.putStrand t).posted = s.posted := rfl
@[simp] theorem State.putStrand_queues (s : State) (t : Strand) : (s.putStrand t).queues = s.queues := rfl
@[simp] theorem State.putStrand_nextSerial (s : State) (t : Strand) : (s.putStrand t).nextSerial = s.nextSerial := rfl
@[simp] theorem State.putStrand_nextStage (s : State) (t : Strand) : (s.putStrand t).nextStage = s.nextStage := rfl
@[simp] theorem State.putStrand_nextChan (s : State) (t : Strand) : (s.putStrand t).nextChan = s.nextChan := rfl
@[simp] theorem State.putStrand_elemLimit (s : State) (t : Strand) : (s.putStrand t).elemLimit = s.elemLimit := rfl
@[simp] theorem State.putStrand_nextCopy (s : State) (t : Strand) : (s.putStrand t).nextCopy = s.nextCopy := rfl
@[simp] theorem State.putStrand_nextJoin (s : State) (t : Strand) : (s.putStrand t).nextJoin = s.nextJoin := rfl
@[simp] theorem State.putStrand_pkgCycle (s : State) (t : Strand) : (s.putStrand t).pkgCycle = s.pkgCycle := rfl
@[simp] theorem State.putStrand_level (s : State) (t : Strand) : (s.putStrand t).level = s.level := rfl
@[simp] theorem State.putStrand_tlbcmd (s : State) (t : Strand) : (s.putStrand t).tlbcmd = s.tlbcmd := rfl
@[simp] theorem State.putStrand_fabric (s : State) (t : Strand) : (s.putStrand t).fabric = s.fabric := rfl
@[simp] theorem State.putStrand_hallmark (s : State) (t : Strand) : (s.putStrand t).hallmark = s.hallmark := rfl
@[simp] theorem State.putStrand_answer (s : State) (t : Strand) : (s.putStrand t).answer = s.answer := rfl

/-! `dropStrand` -/

@[simp] theorem State.dropStrand_agenda (s : State) (i : SlotId) : (s.dropStrand i).agenda = s.agenda := rfl
@[simp] theorem State.dropStrand_focus (s : State) (i : SlotId) : (s.dropStrand i).focus = s.focus := rfl
@[simp] theorem State.dropStrand_freeCount (s : State) (i : SlotId) : (s.dropStrand i).freeCount = s.freeCount := rfl
@[simp] theorem State.dropStrand_cores (s : State) (i : SlotId) : (s.dropStrand i).cores = s.cores := rfl
@[simp] theorem State.dropStrand_dies (s : State) (i : SlotId) : (s.dropStrand i).dies = s.dies := rfl
@[simp] theorem State.dropStrand_mem (s : State) (i : SlotId) : (s.dropStrand i).mem = s.mem := rfl
@[simp] theorem State.dropStrand_poison (s : State) (i : SlotId) : (s.dropStrand i).poison = s.poison := rfl
@[simp] theorem State.dropStrand_owners (s : State) (i : SlotId) : (s.dropStrand i).owners = s.owners := rfl
@[simp] theorem State.dropStrand_retired (s : State) (i : SlotId) : (s.dropStrand i).retired = s.retired := rfl
@[simp] theorem State.dropStrand_worlds (s : State) (i : SlotId) : (s.dropStrand i).worlds = s.worlds := rfl
@[simp] theorem State.dropStrand_packages (s : State) (i : SlotId) : (s.dropStrand i).packages = s.packages := rfl
@[simp] theorem State.dropStrand_sessions (s : State) (i : SlotId) : (s.dropStrand i).sessions = s.sessions := rfl
@[simp] theorem State.dropStrand_launches (s : State) (i : SlotId) : (s.dropStrand i).launches = s.launches := rfl
@[simp] theorem State.dropStrand_stages (s : State) (i : SlotId) : (s.dropStrand i).stages = s.stages := rfl
@[simp] theorem State.dropStrand_chans (s : State) (i : SlotId) : (s.dropStrand i).chans = s.chans := rfl
@[simp] theorem State.dropStrand_posted (s : State) (i : SlotId) : (s.dropStrand i).posted = s.posted := rfl
@[simp] theorem State.dropStrand_queues (s : State) (i : SlotId) : (s.dropStrand i).queues = s.queues := rfl
@[simp] theorem State.dropStrand_nextSerial (s : State) (i : SlotId) : (s.dropStrand i).nextSerial = s.nextSerial := rfl
@[simp] theorem State.dropStrand_nextStage (s : State) (i : SlotId) : (s.dropStrand i).nextStage = s.nextStage := rfl
@[simp] theorem State.dropStrand_nextChan (s : State) (i : SlotId) : (s.dropStrand i).nextChan = s.nextChan := rfl
@[simp] theorem State.dropStrand_elemLimit (s : State) (i : SlotId) : (s.dropStrand i).elemLimit = s.elemLimit := rfl
@[simp] theorem State.dropStrand_nextCopy (s : State) (i : SlotId) : (s.dropStrand i).nextCopy = s.nextCopy := rfl
@[simp] theorem State.dropStrand_nextJoin (s : State) (i : SlotId) : (s.dropStrand i).nextJoin = s.nextJoin := rfl
@[simp] theorem State.dropStrand_pkgCycle (s : State) (i : SlotId) : (s.dropStrand i).pkgCycle = s.pkgCycle := rfl
@[simp] theorem State.dropStrand_level (s : State) (i : SlotId) : (s.dropStrand i).level = s.level := rfl
@[simp] theorem State.dropStrand_tlbcmd (s : State) (i : SlotId) : (s.dropStrand i).tlbcmd = s.tlbcmd := rfl
@[simp] theorem State.dropStrand_fabric (s : State) (i : SlotId) : (s.dropStrand i).fabric = s.fabric := rfl
@[simp] theorem State.dropStrand_hallmark (s : State) (i : SlotId) : (s.dropStrand i).hallmark = s.hallmark := rfl
@[simp] theorem State.dropStrand_answer (s : State) (i : SlotId) : (s.dropStrand i).answer = s.answer := rfl

/-! `mapStrands` -/

@[simp] theorem State.mapStrands_agenda (s : State) (f : Strand → Strand) : (s.mapStrands f).agenda = s.agenda := rfl
@[simp] theorem State.mapStrands_focus (s : State) (f : Strand → Strand) : (s.mapStrands f).focus = s.focus := rfl
@[simp] theorem State.mapStrands_freeCount (s : State) (f : Strand → Strand) : (s.mapStrands f).freeCount = s.freeCount := rfl
@[simp] theorem State.mapStrands_cores (s : State) (f : Strand → Strand) : (s.mapStrands f).cores = s.cores := rfl
@[simp] theorem State.mapStrands_dies (s : State) (f : Strand → Strand) : (s.mapStrands f).dies = s.dies := rfl
@[simp] theorem State.mapStrands_mem (s : State) (f : Strand → Strand) : (s.mapStrands f).mem = s.mem := rfl
@[simp] theorem State.mapStrands_poison (s : State) (f : Strand → Strand) : (s.mapStrands f).poison = s.poison := rfl
@[simp] theorem State.mapStrands_owners (s : State) (f : Strand → Strand) : (s.mapStrands f).owners = s.owners := rfl
@[simp] theorem State.mapStrands_retired (s : State) (f : Strand → Strand) : (s.mapStrands f).retired = s.retired := rfl
@[simp] theorem State.mapStrands_worlds (s : State) (f : Strand → Strand) : (s.mapStrands f).worlds = s.worlds := rfl
@[simp] theorem State.mapStrands_packages (s : State) (f : Strand → Strand) : (s.mapStrands f).packages = s.packages := rfl
@[simp] theorem State.mapStrands_sessions (s : State) (f : Strand → Strand) : (s.mapStrands f).sessions = s.sessions := rfl
@[simp] theorem State.mapStrands_launches (s : State) (f : Strand → Strand) : (s.mapStrands f).launches = s.launches := rfl
@[simp] theorem State.mapStrands_stages (s : State) (f : Strand → Strand) : (s.mapStrands f).stages = s.stages := rfl
@[simp] theorem State.mapStrands_chans (s : State) (f : Strand → Strand) : (s.mapStrands f).chans = s.chans := rfl
@[simp] theorem State.mapStrands_posted (s : State) (f : Strand → Strand) : (s.mapStrands f).posted = s.posted := rfl
@[simp] theorem State.mapStrands_queues (s : State) (f : Strand → Strand) : (s.mapStrands f).queues = s.queues := rfl
@[simp] theorem State.mapStrands_nextSerial (s : State) (f : Strand → Strand) : (s.mapStrands f).nextSerial = s.nextSerial := rfl
@[simp] theorem State.mapStrands_nextStage (s : State) (f : Strand → Strand) : (s.mapStrands f).nextStage = s.nextStage := rfl
@[simp] theorem State.mapStrands_nextChan (s : State) (f : Strand → Strand) : (s.mapStrands f).nextChan = s.nextChan := rfl
@[simp] theorem State.mapStrands_elemLimit (s : State) (f : Strand → Strand) : (s.mapStrands f).elemLimit = s.elemLimit := rfl
@[simp] theorem State.mapStrands_nextCopy (s : State) (f : Strand → Strand) : (s.mapStrands f).nextCopy = s.nextCopy := rfl
@[simp] theorem State.mapStrands_nextJoin (s : State) (f : Strand → Strand) : (s.mapStrands f).nextJoin = s.nextJoin := rfl
@[simp] theorem State.mapStrands_pkgCycle (s : State) (f : Strand → Strand) : (s.mapStrands f).pkgCycle = s.pkgCycle := rfl
@[simp] theorem State.mapStrands_level (s : State) (f : Strand → Strand) : (s.mapStrands f).level = s.level := rfl
@[simp] theorem State.mapStrands_tlbcmd (s : State) (f : Strand → Strand) : (s.mapStrands f).tlbcmd = s.tlbcmd := rfl
@[simp] theorem State.mapStrands_fabric (s : State) (f : Strand → Strand) : (s.mapStrands f).fabric = s.fabric := rfl
@[simp] theorem State.mapStrands_hallmark (s : State) (f : Strand → Strand) : (s.mapStrands f).hallmark = s.hallmark := rfl
@[simp] theorem State.mapStrands_answer (s : State) (f : Strand → Strand) : (s.mapStrands f).answer = s.answer := rfl

/-! `putCore` -/

@[simp] theorem State.putCore_agenda (s : State) (c : Core) : (s.putCore c).agenda = s.agenda := rfl
@[simp] theorem State.putCore_focus (s : State) (c : Core) : (s.putCore c).focus = s.focus := rfl
@[simp] theorem State.putCore_freeCount (s : State) (c : Core) : (s.putCore c).freeCount = s.freeCount := rfl
@[simp] theorem State.putCore_strands (s : State) (c : Core) : (s.putCore c).strands = s.strands := rfl
@[simp] theorem State.putCore_dies (s : State) (c : Core) : (s.putCore c).dies = s.dies := rfl
@[simp] theorem State.putCore_mem (s : State) (c : Core) : (s.putCore c).mem = s.mem := rfl
@[simp] theorem State.putCore_poison (s : State) (c : Core) : (s.putCore c).poison = s.poison := rfl
@[simp] theorem State.putCore_owners (s : State) (c : Core) : (s.putCore c).owners = s.owners := rfl
@[simp] theorem State.putCore_retired (s : State) (c : Core) : (s.putCore c).retired = s.retired := rfl
@[simp] theorem State.putCore_worlds (s : State) (c : Core) : (s.putCore c).worlds = s.worlds := rfl
@[simp] theorem State.putCore_packages (s : State) (c : Core) : (s.putCore c).packages = s.packages := rfl
@[simp] theorem State.putCore_sessions (s : State) (c : Core) : (s.putCore c).sessions = s.sessions := rfl
@[simp] theorem State.putCore_launches (s : State) (c : Core) : (s.putCore c).launches = s.launches := rfl
@[simp] theorem State.putCore_stages (s : State) (c : Core) : (s.putCore c).stages = s.stages := rfl
@[simp] theorem State.putCore_chans (s : State) (c : Core) : (s.putCore c).chans = s.chans := rfl
@[simp] theorem State.putCore_posted (s : State) (c : Core) : (s.putCore c).posted = s.posted := rfl
@[simp] theorem State.putCore_queues (s : State) (c : Core) : (s.putCore c).queues = s.queues := rfl
@[simp] theorem State.putCore_nextSerial (s : State) (c : Core) : (s.putCore c).nextSerial = s.nextSerial := rfl
@[simp] theorem State.putCore_nextStage (s : State) (c : Core) : (s.putCore c).nextStage = s.nextStage := rfl
@[simp] theorem State.putCore_nextChan (s : State) (c : Core) : (s.putCore c).nextChan = s.nextChan := rfl
@[simp] theorem State.putCore_elemLimit (s : State) (c : Core) : (s.putCore c).elemLimit = s.elemLimit := rfl
@[simp] theorem State.putCore_nextCopy (s : State) (c : Core) : (s.putCore c).nextCopy = s.nextCopy := rfl
@[simp] theorem State.putCore_nextJoin (s : State) (c : Core) : (s.putCore c).nextJoin = s.nextJoin := rfl
@[simp] theorem State.putCore_pkgCycle (s : State) (c : Core) : (s.putCore c).pkgCycle = s.pkgCycle := rfl
@[simp] theorem State.putCore_level (s : State) (c : Core) : (s.putCore c).level = s.level := rfl
@[simp] theorem State.putCore_tlbcmd (s : State) (c : Core) : (s.putCore c).tlbcmd = s.tlbcmd := rfl
@[simp] theorem State.putCore_fabric (s : State) (c : Core) : (s.putCore c).fabric = s.fabric := rfl
@[simp] theorem State.putCore_hallmark (s : State) (c : Core) : (s.putCore c).hallmark = s.hallmark := rfl
@[simp] theorem State.putCore_answer (s : State) (c : Core) : (s.putCore c).answer = s.answer := rfl

/-! `putDie` -/

@[simp] theorem State.putDie_agenda (s : State) (d : Die) : (s.putDie d).agenda = s.agenda := rfl
@[simp] theorem State.putDie_focus (s : State) (d : Die) : (s.putDie d).focus = s.focus := rfl
@[simp] theorem State.putDie_freeCount (s : State) (d : Die) : (s.putDie d).freeCount = s.freeCount := rfl
@[simp] theorem State.putDie_strands (s : State) (d : Die) : (s.putDie d).strands = s.strands := rfl
@[simp] theorem State.putDie_cores (s : State) (d : Die) : (s.putDie d).cores = s.cores := rfl
@[simp] theorem State.putDie_mem (s : State) (d : Die) : (s.putDie d).mem = s.mem := rfl
@[simp] theorem State.putDie_poison (s : State) (d : Die) : (s.putDie d).poison = s.poison := rfl
@[simp] theorem State.putDie_owners (s : State) (d : Die) : (s.putDie d).owners = s.owners := rfl
@[simp] theorem State.putDie_retired (s : State) (d : Die) : (s.putDie d).retired = s.retired := rfl
@[simp] theorem State.putDie_worlds (s : State) (d : Die) : (s.putDie d).worlds = s.worlds := rfl
@[simp] theorem State.putDie_packages (s : State) (d : Die) : (s.putDie d).packages = s.packages := rfl
@[simp] theorem State.putDie_sessions (s : State) (d : Die) : (s.putDie d).sessions = s.sessions := rfl
@[simp] theorem State.putDie_launches (s : State) (d : Die) : (s.putDie d).launches = s.launches := rfl
@[simp] theorem State.putDie_stages (s : State) (d : Die) : (s.putDie d).stages = s.stages := rfl
@[simp] theorem State.putDie_chans (s : State) (d : Die) : (s.putDie d).chans = s.chans := rfl
@[simp] theorem State.putDie_posted (s : State) (d : Die) : (s.putDie d).posted = s.posted := rfl
@[simp] theorem State.putDie_queues (s : State) (d : Die) : (s.putDie d).queues = s.queues := rfl
@[simp] theorem State.putDie_nextSerial (s : State) (d : Die) : (s.putDie d).nextSerial = s.nextSerial := rfl
@[simp] theorem State.putDie_nextStage (s : State) (d : Die) : (s.putDie d).nextStage = s.nextStage := rfl
@[simp] theorem State.putDie_nextChan (s : State) (d : Die) : (s.putDie d).nextChan = s.nextChan := rfl
@[simp] theorem State.putDie_elemLimit (s : State) (d : Die) : (s.putDie d).elemLimit = s.elemLimit := rfl
@[simp] theorem State.putDie_nextCopy (s : State) (d : Die) : (s.putDie d).nextCopy = s.nextCopy := rfl
@[simp] theorem State.putDie_nextJoin (s : State) (d : Die) : (s.putDie d).nextJoin = s.nextJoin := rfl
@[simp] theorem State.putDie_pkgCycle (s : State) (d : Die) : (s.putDie d).pkgCycle = s.pkgCycle := rfl
@[simp] theorem State.putDie_level (s : State) (d : Die) : (s.putDie d).level = s.level := rfl
@[simp] theorem State.putDie_tlbcmd (s : State) (d : Die) : (s.putDie d).tlbcmd = s.tlbcmd := rfl
@[simp] theorem State.putDie_fabric (s : State) (d : Die) : (s.putDie d).fabric = s.fabric := rfl
@[simp] theorem State.putDie_hallmark (s : State) (d : Die) : (s.putDie d).hallmark = s.hallmark := rfl
@[simp] theorem State.putDie_answer (s : State) (d : Die) : (s.putDie d).answer = s.answer := rfl

/-! `putWorld` -/

@[simp] theorem State.putWorld_agenda (s : State) (w : World) : (s.putWorld w).agenda = s.agenda := rfl
@[simp] theorem State.putWorld_focus (s : State) (w : World) : (s.putWorld w).focus = s.focus := rfl
@[simp] theorem State.putWorld_freeCount (s : State) (w : World) : (s.putWorld w).freeCount = s.freeCount := rfl
@[simp] theorem State.putWorld_strands (s : State) (w : World) : (s.putWorld w).strands = s.strands := rfl
@[simp] theorem State.putWorld_cores (s : State) (w : World) : (s.putWorld w).cores = s.cores := rfl
@[simp] theorem State.putWorld_dies (s : State) (w : World) : (s.putWorld w).dies = s.dies := rfl
@[simp] theorem State.putWorld_mem (s : State) (w : World) : (s.putWorld w).mem = s.mem := rfl
@[simp] theorem State.putWorld_poison (s : State) (w : World) : (s.putWorld w).poison = s.poison := rfl
@[simp] theorem State.putWorld_owners (s : State) (w : World) : (s.putWorld w).owners = s.owners := rfl
@[simp] theorem State.putWorld_retired (s : State) (w : World) : (s.putWorld w).retired = s.retired := rfl
@[simp] theorem State.putWorld_packages (s : State) (w : World) : (s.putWorld w).packages = s.packages := rfl
@[simp] theorem State.putWorld_sessions (s : State) (w : World) : (s.putWorld w).sessions = s.sessions := rfl
@[simp] theorem State.putWorld_launches (s : State) (w : World) : (s.putWorld w).launches = s.launches := rfl
@[simp] theorem State.putWorld_stages (s : State) (w : World) : (s.putWorld w).stages = s.stages := rfl
@[simp] theorem State.putWorld_chans (s : State) (w : World) : (s.putWorld w).chans = s.chans := rfl
@[simp] theorem State.putWorld_posted (s : State) (w : World) : (s.putWorld w).posted = s.posted := rfl
@[simp] theorem State.putWorld_queues (s : State) (w : World) : (s.putWorld w).queues = s.queues := rfl
@[simp] theorem State.putWorld_nextSerial (s : State) (w : World) : (s.putWorld w).nextSerial = s.nextSerial := rfl
@[simp] theorem State.putWorld_nextStage (s : State) (w : World) : (s.putWorld w).nextStage = s.nextStage := rfl
@[simp] theorem State.putWorld_nextChan (s : State) (w : World) : (s.putWorld w).nextChan = s.nextChan := rfl
@[simp] theorem State.putWorld_elemLimit (s : State) (w : World) : (s.putWorld w).elemLimit = s.elemLimit := rfl
@[simp] theorem State.putWorld_nextCopy (s : State) (w : World) : (s.putWorld w).nextCopy = s.nextCopy := rfl
@[simp] theorem State.putWorld_nextJoin (s : State) (w : World) : (s.putWorld w).nextJoin = s.nextJoin := rfl
@[simp] theorem State.putWorld_pkgCycle (s : State) (w : World) : (s.putWorld w).pkgCycle = s.pkgCycle := rfl
@[simp] theorem State.putWorld_level (s : State) (w : World) : (s.putWorld w).level = s.level := rfl
@[simp] theorem State.putWorld_tlbcmd (s : State) (w : World) : (s.putWorld w).tlbcmd = s.tlbcmd := rfl
@[simp] theorem State.putWorld_fabric (s : State) (w : World) : (s.putWorld w).fabric = s.fabric := rfl
@[simp] theorem State.putWorld_hallmark (s : State) (w : World) : (s.putWorld w).hallmark = s.hallmark := rfl
@[simp] theorem State.putWorld_answer (s : State) (w : World) : (s.putWorld w).answer = s.answer := rfl

/-! `putLaunch` -/

@[simp] theorem State.putLaunch_agenda (s : State) (l : Launch) : (s.putLaunch l).agenda = s.agenda := rfl
@[simp] theorem State.putLaunch_focus (s : State) (l : Launch) : (s.putLaunch l).focus = s.focus := rfl
@[simp] theorem State.putLaunch_freeCount (s : State) (l : Launch) : (s.putLaunch l).freeCount = s.freeCount := rfl
@[simp] theorem State.putLaunch_strands (s : State) (l : Launch) : (s.putLaunch l).strands = s.strands := rfl
@[simp] theorem State.putLaunch_cores (s : State) (l : Launch) : (s.putLaunch l).cores = s.cores := rfl
@[simp] theorem State.putLaunch_dies (s : State) (l : Launch) : (s.putLaunch l).dies = s.dies := rfl
@[simp] theorem State.putLaunch_mem (s : State) (l : Launch) : (s.putLaunch l).mem = s.mem := rfl
@[simp] theorem State.putLaunch_poison (s : State) (l : Launch) : (s.putLaunch l).poison = s.poison := rfl
@[simp] theorem State.putLaunch_owners (s : State) (l : Launch) : (s.putLaunch l).owners = s.owners := rfl
@[simp] theorem State.putLaunch_retired (s : State) (l : Launch) : (s.putLaunch l).retired = s.retired := rfl
@[simp] theorem State.putLaunch_worlds (s : State) (l : Launch) : (s.putLaunch l).worlds = s.worlds := rfl
@[simp] theorem State.putLaunch_packages (s : State) (l : Launch) : (s.putLaunch l).packages = s.packages := rfl
@[simp] theorem State.putLaunch_sessions (s : State) (l : Launch) : (s.putLaunch l).sessions = s.sessions := rfl
@[simp] theorem State.putLaunch_stages (s : State) (l : Launch) : (s.putLaunch l).stages = s.stages := rfl
@[simp] theorem State.putLaunch_chans (s : State) (l : Launch) : (s.putLaunch l).chans = s.chans := rfl
@[simp] theorem State.putLaunch_posted (s : State) (l : Launch) : (s.putLaunch l).posted = s.posted := rfl
@[simp] theorem State.putLaunch_queues (s : State) (l : Launch) : (s.putLaunch l).queues = s.queues := rfl
@[simp] theorem State.putLaunch_nextSerial (s : State) (l : Launch) : (s.putLaunch l).nextSerial = s.nextSerial := rfl
@[simp] theorem State.putLaunch_nextStage (s : State) (l : Launch) : (s.putLaunch l).nextStage = s.nextStage := rfl
@[simp] theorem State.putLaunch_nextChan (s : State) (l : Launch) : (s.putLaunch l).nextChan = s.nextChan := rfl
@[simp] theorem State.putLaunch_elemLimit (s : State) (l : Launch) : (s.putLaunch l).elemLimit = s.elemLimit := rfl
@[simp] theorem State.putLaunch_nextCopy (s : State) (l : Launch) : (s.putLaunch l).nextCopy = s.nextCopy := rfl
@[simp] theorem State.putLaunch_nextJoin (s : State) (l : Launch) : (s.putLaunch l).nextJoin = s.nextJoin := rfl
@[simp] theorem State.putLaunch_pkgCycle (s : State) (l : Launch) : (s.putLaunch l).pkgCycle = s.pkgCycle := rfl
@[simp] theorem State.putLaunch_level (s : State) (l : Launch) : (s.putLaunch l).level = s.level := rfl
@[simp] theorem State.putLaunch_tlbcmd (s : State) (l : Launch) : (s.putLaunch l).tlbcmd = s.tlbcmd := rfl
@[simp] theorem State.putLaunch_fabric (s : State) (l : Launch) : (s.putLaunch l).fabric = s.fabric := rfl
@[simp] theorem State.putLaunch_hallmark (s : State) (l : Launch) : (s.putLaunch l).hallmark = s.hallmark := rfl
@[simp] theorem State.putLaunch_answer (s : State) (l : Launch) : (s.putLaunch l).answer = s.answer := rfl

/-! `putStage` -/

@[simp] theorem State.putStage_agenda (s : State) (g : Stage) : (s.putStage g).agenda = s.agenda := rfl
@[simp] theorem State.putStage_focus (s : State) (g : Stage) : (s.putStage g).focus = s.focus := rfl
@[simp] theorem State.putStage_freeCount (s : State) (g : Stage) : (s.putStage g).freeCount = s.freeCount := rfl
@[simp] theorem State.putStage_strands (s : State) (g : Stage) : (s.putStage g).strands = s.strands := rfl
@[simp] theorem State.putStage_cores (s : State) (g : Stage) : (s.putStage g).cores = s.cores := rfl
@[simp] theorem State.putStage_dies (s : State) (g : Stage) : (s.putStage g).dies = s.dies := rfl
@[simp] theorem State.putStage_mem (s : State) (g : Stage) : (s.putStage g).mem = s.mem := rfl
@[simp] theorem State.putStage_poison (s : State) (g : Stage) : (s.putStage g).poison = s.poison := rfl
@[simp] theorem State.putStage_owners (s : State) (g : Stage) : (s.putStage g).owners = s.owners := rfl
@[simp] theorem State.putStage_retired (s : State) (g : Stage) : (s.putStage g).retired = s.retired := rfl
@[simp] theorem State.putStage_worlds (s : State) (g : Stage) : (s.putStage g).worlds = s.worlds := rfl
@[simp] theorem State.putStage_packages (s : State) (g : Stage) : (s.putStage g).packages = s.packages := rfl
@[simp] theorem State.putStage_sessions (s : State) (g : Stage) : (s.putStage g).sessions = s.sessions := rfl
@[simp] theorem State.putStage_launches (s : State) (g : Stage) : (s.putStage g).launches = s.launches := rfl
@[simp] theorem State.putStage_chans (s : State) (g : Stage) : (s.putStage g).chans = s.chans := rfl
@[simp] theorem State.putStage_posted (s : State) (g : Stage) : (s.putStage g).posted = s.posted := rfl
@[simp] theorem State.putStage_queues (s : State) (g : Stage) : (s.putStage g).queues = s.queues := rfl
@[simp] theorem State.putStage_nextSerial (s : State) (g : Stage) : (s.putStage g).nextSerial = s.nextSerial := rfl
@[simp] theorem State.putStage_nextStage (s : State) (g : Stage) : (s.putStage g).nextStage = s.nextStage := rfl
@[simp] theorem State.putStage_nextChan (s : State) (g : Stage) : (s.putStage g).nextChan = s.nextChan := rfl
@[simp] theorem State.putStage_elemLimit (s : State) (g : Stage) : (s.putStage g).elemLimit = s.elemLimit := rfl
@[simp] theorem State.putStage_nextCopy (s : State) (g : Stage) : (s.putStage g).nextCopy = s.nextCopy := rfl
@[simp] theorem State.putStage_nextJoin (s : State) (g : Stage) : (s.putStage g).nextJoin = s.nextJoin := rfl
@[simp] theorem State.putStage_pkgCycle (s : State) (g : Stage) : (s.putStage g).pkgCycle = s.pkgCycle := rfl
@[simp] theorem State.putStage_level (s : State) (g : Stage) : (s.putStage g).level = s.level := rfl
@[simp] theorem State.putStage_tlbcmd (s : State) (g : Stage) : (s.putStage g).tlbcmd = s.tlbcmd := rfl
@[simp] theorem State.putStage_fabric (s : State) (g : Stage) : (s.putStage g).fabric = s.fabric := rfl
@[simp] theorem State.putStage_hallmark (s : State) (g : Stage) : (s.putStage g).hallmark = s.hallmark := rfl
@[simp] theorem State.putStage_answer (s : State) (g : Stage) : (s.putStage g).answer = s.answer := rfl

/-! `putChan` -/

@[simp] theorem State.putChan_agenda (s : State) (c : Chan) : (s.putChan c).agenda = s.agenda := rfl
@[simp] theorem State.putChan_focus (s : State) (c : Chan) : (s.putChan c).focus = s.focus := rfl
@[simp] theorem State.putChan_freeCount (s : State) (c : Chan) : (s.putChan c).freeCount = s.freeCount := rfl
@[simp] theorem State.putChan_strands (s : State) (c : Chan) : (s.putChan c).strands = s.strands := rfl
@[simp] theorem State.putChan_cores (s : State) (c : Chan) : (s.putChan c).cores = s.cores := rfl
@[simp] theorem State.putChan_dies (s : State) (c : Chan) : (s.putChan c).dies = s.dies := rfl
@[simp] theorem State.putChan_mem (s : State) (c : Chan) : (s.putChan c).mem = s.mem := rfl
@[simp] theorem State.putChan_poison (s : State) (c : Chan) : (s.putChan c).poison = s.poison := rfl
@[simp] theorem State.putChan_owners (s : State) (c : Chan) : (s.putChan c).owners = s.owners := rfl
@[simp] theorem State.putChan_retired (s : State) (c : Chan) : (s.putChan c).retired = s.retired := rfl
@[simp] theorem State.putChan_worlds (s : State) (c : Chan) : (s.putChan c).worlds = s.worlds := rfl
@[simp] theorem State.putChan_packages (s : State) (c : Chan) : (s.putChan c).packages = s.packages := rfl
@[simp] theorem State.putChan_sessions (s : State) (c : Chan) : (s.putChan c).sessions = s.sessions := rfl
@[simp] theorem State.putChan_launches (s : State) (c : Chan) : (s.putChan c).launches = s.launches := rfl
@[simp] theorem State.putChan_stages (s : State) (c : Chan) : (s.putChan c).stages = s.stages := rfl
@[simp] theorem State.putChan_posted (s : State) (c : Chan) : (s.putChan c).posted = s.posted := rfl
@[simp] theorem State.putChan_queues (s : State) (c : Chan) : (s.putChan c).queues = s.queues := rfl
@[simp] theorem State.putChan_nextSerial (s : State) (c : Chan) : (s.putChan c).nextSerial = s.nextSerial := rfl
@[simp] theorem State.putChan_nextStage (s : State) (c : Chan) : (s.putChan c).nextStage = s.nextStage := rfl
@[simp] theorem State.putChan_nextChan (s : State) (c : Chan) : (s.putChan c).nextChan = s.nextChan := rfl
@[simp] theorem State.putChan_elemLimit (s : State) (c : Chan) : (s.putChan c).elemLimit = s.elemLimit := rfl
@[simp] theorem State.putChan_nextCopy (s : State) (c : Chan) : (s.putChan c).nextCopy = s.nextCopy := rfl
@[simp] theorem State.putChan_nextJoin (s : State) (c : Chan) : (s.putChan c).nextJoin = s.nextJoin := rfl
@[simp] theorem State.putChan_pkgCycle (s : State) (c : Chan) : (s.putChan c).pkgCycle = s.pkgCycle := rfl
@[simp] theorem State.putChan_level (s : State) (c : Chan) : (s.putChan c).level = s.level := rfl
@[simp] theorem State.putChan_tlbcmd (s : State) (c : Chan) : (s.putChan c).tlbcmd = s.tlbcmd := rfl
@[simp] theorem State.putChan_fabric (s : State) (c : Chan) : (s.putChan c).fabric = s.fabric := rfl
@[simp] theorem State.putChan_hallmark (s : State) (c : Chan) : (s.putChan c).hallmark = s.hallmark := rfl
@[simp] theorem State.putChan_answer (s : State) (c : Chan) : (s.putChan c).answer = s.answer := rfl

/-! `putSession` -/

@[simp] theorem State.putSession_agenda (s : State) (x : Session) : (s.putSession x).agenda = s.agenda := rfl
@[simp] theorem State.putSession_focus (s : State) (x : Session) : (s.putSession x).focus = s.focus := rfl
@[simp] theorem State.putSession_freeCount (s : State) (x : Session) : (s.putSession x).freeCount = s.freeCount := rfl
@[simp] theorem State.putSession_strands (s : State) (x : Session) : (s.putSession x).strands = s.strands := rfl
@[simp] theorem State.putSession_cores (s : State) (x : Session) : (s.putSession x).cores = s.cores := rfl
@[simp] theorem State.putSession_dies (s : State) (x : Session) : (s.putSession x).dies = s.dies := rfl
@[simp] theorem State.putSession_mem (s : State) (x : Session) : (s.putSession x).mem = s.mem := rfl
@[simp] theorem State.putSession_poison (s : State) (x : Session) : (s.putSession x).poison = s.poison := rfl
@[simp] theorem State.putSession_owners (s : State) (x : Session) : (s.putSession x).owners = s.owners := rfl
@[simp] theorem State.putSession_retired (s : State) (x : Session) : (s.putSession x).retired = s.retired := rfl
@[simp] theorem State.putSession_worlds (s : State) (x : Session) : (s.putSession x).worlds = s.worlds := rfl
@[simp] theorem State.putSession_packages (s : State) (x : Session) : (s.putSession x).packages = s.packages := rfl
@[simp] theorem State.putSession_launches (s : State) (x : Session) : (s.putSession x).launches = s.launches := rfl
@[simp] theorem State.putSession_stages (s : State) (x : Session) : (s.putSession x).stages = s.stages := rfl
@[simp] theorem State.putSession_chans (s : State) (x : Session) : (s.putSession x).chans = s.chans := rfl
@[simp] theorem State.putSession_posted (s : State) (x : Session) : (s.putSession x).posted = s.posted := rfl
@[simp] theorem State.putSession_queues (s : State) (x : Session) : (s.putSession x).queues = s.queues := rfl
@[simp] theorem State.putSession_nextSerial (s : State) (x : Session) : (s.putSession x).nextSerial = s.nextSerial := rfl
@[simp] theorem State.putSession_nextStage (s : State) (x : Session) : (s.putSession x).nextStage = s.nextStage := rfl
@[simp] theorem State.putSession_nextChan (s : State) (x : Session) : (s.putSession x).nextChan = s.nextChan := rfl
@[simp] theorem State.putSession_elemLimit (s : State) (x : Session) : (s.putSession x).elemLimit = s.elemLimit := rfl
@[simp] theorem State.putSession_nextCopy (s : State) (x : Session) : (s.putSession x).nextCopy = s.nextCopy := rfl
@[simp] theorem State.putSession_nextJoin (s : State) (x : Session) : (s.putSession x).nextJoin = s.nextJoin := rfl
@[simp] theorem State.putSession_pkgCycle (s : State) (x : Session) : (s.putSession x).pkgCycle = s.pkgCycle := rfl
@[simp] theorem State.putSession_level (s : State) (x : Session) : (s.putSession x).level = s.level := rfl
@[simp] theorem State.putSession_tlbcmd (s : State) (x : Session) : (s.putSession x).tlbcmd = s.tlbcmd := rfl
@[simp] theorem State.putSession_fabric (s : State) (x : Session) : (s.putSession x).fabric = s.fabric := rfl
@[simp] theorem State.putSession_hallmark (s : State) (x : Session) : (s.putSession x).hallmark = s.hallmark := rfl
@[simp] theorem State.putSession_answer (s : State) (x : Session) : (s.putSession x).answer = s.answer := rfl

/-! `putQueue` -/

@[simp] theorem State.putQueue_agenda (s : State) (x : SubQueue) : (s.putQueue x).agenda = s.agenda := rfl
@[simp] theorem State.putQueue_focus (s : State) (x : SubQueue) : (s.putQueue x).focus = s.focus := rfl
@[simp] theorem State.putQueue_freeCount (s : State) (x : SubQueue) : (s.putQueue x).freeCount = s.freeCount := rfl
@[simp] theorem State.putQueue_strands (s : State) (x : SubQueue) : (s.putQueue x).strands = s.strands := rfl
@[simp] theorem State.putQueue_cores (s : State) (x : SubQueue) : (s.putQueue x).cores = s.cores := rfl
@[simp] theorem State.putQueue_dies (s : State) (x : SubQueue) : (s.putQueue x).dies = s.dies := rfl
@[simp] theorem State.putQueue_mem (s : State) (x : SubQueue) : (s.putQueue x).mem = s.mem := rfl
@[simp] theorem State.putQueue_poison (s : State) (x : SubQueue) : (s.putQueue x).poison = s.poison := rfl
@[simp] theorem State.putQueue_owners (s : State) (x : SubQueue) : (s.putQueue x).owners = s.owners := rfl
@[simp] theorem State.putQueue_retired (s : State) (x : SubQueue) : (s.putQueue x).retired = s.retired := rfl
@[simp] theorem State.putQueue_worlds (s : State) (x : SubQueue) : (s.putQueue x).worlds = s.worlds := rfl
@[simp] theorem State.putQueue_packages (s : State) (x : SubQueue) : (s.putQueue x).packages = s.packages := rfl
@[simp] theorem State.putQueue_sessions (s : State) (x : SubQueue) : (s.putQueue x).sessions = s.sessions := rfl
@[simp] theorem State.putQueue_launches (s : State) (x : SubQueue) : (s.putQueue x).launches = s.launches := rfl
@[simp] theorem State.putQueue_stages (s : State) (x : SubQueue) : (s.putQueue x).stages = s.stages := rfl
@[simp] theorem State.putQueue_chans (s : State) (x : SubQueue) : (s.putQueue x).chans = s.chans := rfl
@[simp] theorem State.putQueue_posted (s : State) (x : SubQueue) : (s.putQueue x).posted = s.posted := rfl
@[simp] theorem State.putQueue_nextSerial (s : State) (x : SubQueue) : (s.putQueue x).nextSerial = s.nextSerial := rfl
@[simp] theorem State.putQueue_nextStage (s : State) (x : SubQueue) : (s.putQueue x).nextStage = s.nextStage := rfl
@[simp] theorem State.putQueue_nextChan (s : State) (x : SubQueue) : (s.putQueue x).nextChan = s.nextChan := rfl
@[simp] theorem State.putQueue_elemLimit (s : State) (x : SubQueue) : (s.putQueue x).elemLimit = s.elemLimit := rfl
@[simp] theorem State.putQueue_nextCopy (s : State) (x : SubQueue) : (s.putQueue x).nextCopy = s.nextCopy := rfl
@[simp] theorem State.putQueue_nextJoin (s : State) (x : SubQueue) : (s.putQueue x).nextJoin = s.nextJoin := rfl
@[simp] theorem State.putQueue_pkgCycle (s : State) (x : SubQueue) : (s.putQueue x).pkgCycle = s.pkgCycle := rfl
@[simp] theorem State.putQueue_level (s : State) (x : SubQueue) : (s.putQueue x).level = s.level := rfl
@[simp] theorem State.putQueue_tlbcmd (s : State) (x : SubQueue) : (s.putQueue x).tlbcmd = s.tlbcmd := rfl
@[simp] theorem State.putQueue_fabric (s : State) (x : SubQueue) : (s.putQueue x).fabric = s.fabric := rfl
@[simp] theorem State.putQueue_hallmark (s : State) (x : SubQueue) : (s.putQueue x).hallmark = s.hallmark := rfl
@[simp] theorem State.putQueue_answer (s : State) (x : SubQueue) : (s.putQueue x).answer = s.answer := rfl

/-! `putPort` -/

@[simp] theorem State.putPort_agenda (s : State) (x : Port) : (s.putPort x).agenda = s.agenda := rfl
@[simp] theorem State.putPort_focus (s : State) (x : Port) : (s.putPort x).focus = s.focus := rfl
@[simp] theorem State.putPort_freeCount (s : State) (x : Port) : (s.putPort x).freeCount = s.freeCount := rfl
@[simp] theorem State.putPort_strands (s : State) (x : Port) : (s.putPort x).strands = s.strands := rfl
@[simp] theorem State.putPort_cores (s : State) (x : Port) : (s.putPort x).cores = s.cores := rfl
@[simp] theorem State.putPort_dies (s : State) (x : Port) : (s.putPort x).dies = s.dies := rfl
@[simp] theorem State.putPort_mem (s : State) (x : Port) : (s.putPort x).mem = s.mem := rfl
@[simp] theorem State.putPort_poison (s : State) (x : Port) : (s.putPort x).poison = s.poison := rfl
@[simp] theorem State.putPort_owners (s : State) (x : Port) : (s.putPort x).owners = s.owners := rfl
@[simp] theorem State.putPort_retired (s : State) (x : Port) : (s.putPort x).retired = s.retired := rfl
@[simp] theorem State.putPort_worlds (s : State) (x : Port) : (s.putPort x).worlds = s.worlds := rfl
@[simp] theorem State.putPort_packages (s : State) (x : Port) : (s.putPort x).packages = s.packages := rfl
@[simp] theorem State.putPort_sessions (s : State) (x : Port) : (s.putPort x).sessions = s.sessions := rfl
@[simp] theorem State.putPort_launches (s : State) (x : Port) : (s.putPort x).launches = s.launches := rfl
@[simp] theorem State.putPort_stages (s : State) (x : Port) : (s.putPort x).stages = s.stages := rfl
@[simp] theorem State.putPort_chans (s : State) (x : Port) : (s.putPort x).chans = s.chans := rfl
@[simp] theorem State.putPort_posted (s : State) (x : Port) : (s.putPort x).posted = s.posted := rfl
@[simp] theorem State.putPort_queues (s : State) (x : Port) : (s.putPort x).queues = s.queues := rfl
@[simp] theorem State.putPort_nextSerial (s : State) (x : Port) : (s.putPort x).nextSerial = s.nextSerial := rfl
@[simp] theorem State.putPort_nextStage (s : State) (x : Port) : (s.putPort x).nextStage = s.nextStage := rfl
@[simp] theorem State.putPort_nextChan (s : State) (x : Port) : (s.putPort x).nextChan = s.nextChan := rfl
@[simp] theorem State.putPort_elemLimit (s : State) (x : Port) : (s.putPort x).elemLimit = s.elemLimit := rfl
@[simp] theorem State.putPort_nextCopy (s : State) (x : Port) : (s.putPort x).nextCopy = s.nextCopy := rfl
@[simp] theorem State.putPort_nextJoin (s : State) (x : Port) : (s.putPort x).nextJoin = s.nextJoin := rfl
@[simp] theorem State.putPort_pkgCycle (s : State) (x : Port) : (s.putPort x).pkgCycle = s.pkgCycle := rfl
@[simp] theorem State.putPort_level (s : State) (x : Port) : (s.putPort x).level = s.level := rfl
@[simp] theorem State.putPort_tlbcmd (s : State) (x : Port) : (s.putPort x).tlbcmd = s.tlbcmd := rfl
@[simp] theorem State.putPort_hallmark (s : State) (x : Port) : (s.putPort x).hallmark = s.hallmark := rfl
@[simp] theorem State.putPort_answer (s : State) (x : Port) : (s.putPort x).answer = s.answer := rfl

/-! `setPhysNat` -/

@[simp] theorem State.setPhysNat_agenda (s : State) (pa n v : Nat) : (s.setPhysNat pa n v).agenda = s.agenda := rfl
@[simp] theorem State.setPhysNat_focus (s : State) (pa n v : Nat) : (s.setPhysNat pa n v).focus = s.focus := rfl
@[simp] theorem State.setPhysNat_freeCount (s : State) (pa n v : Nat) : (s.setPhysNat pa n v).freeCount = s.freeCount := rfl
@[simp] theorem State.setPhysNat_strands (s : State) (pa n v : Nat) : (s.setPhysNat pa n v).strands = s.strands := rfl
@[simp] theorem State.setPhysNat_cores (s : State) (pa n v : Nat) : (s.setPhysNat pa n v).cores = s.cores := rfl
@[simp] theorem State.setPhysNat_dies (s : State) (pa n v : Nat) : (s.setPhysNat pa n v).dies = s.dies := rfl
@[simp] theorem State.setPhysNat_poison (s : State) (pa n v : Nat) : (s.setPhysNat pa n v).poison = s.poison := rfl
@[simp] theorem State.setPhysNat_owners (s : State) (pa n v : Nat) : (s.setPhysNat pa n v).owners = s.owners := rfl
@[simp] theorem State.setPhysNat_retired (s : State) (pa n v : Nat) : (s.setPhysNat pa n v).retired = s.retired := rfl
@[simp] theorem State.setPhysNat_worlds (s : State) (pa n v : Nat) : (s.setPhysNat pa n v).worlds = s.worlds := rfl
@[simp] theorem State.setPhysNat_packages (s : State) (pa n v : Nat) : (s.setPhysNat pa n v).packages = s.packages := rfl
@[simp] theorem State.setPhysNat_sessions (s : State) (pa n v : Nat) : (s.setPhysNat pa n v).sessions = s.sessions := rfl
@[simp] theorem State.setPhysNat_launches (s : State) (pa n v : Nat) : (s.setPhysNat pa n v).launches = s.launches := rfl
@[simp] theorem State.setPhysNat_stages (s : State) (pa n v : Nat) : (s.setPhysNat pa n v).stages = s.stages := rfl
@[simp] theorem State.setPhysNat_chans (s : State) (pa n v : Nat) : (s.setPhysNat pa n v).chans = s.chans := rfl
@[simp] theorem State.setPhysNat_posted (s : State) (pa n v : Nat) : (s.setPhysNat pa n v).posted = s.posted := rfl
@[simp] theorem State.setPhysNat_queues (s : State) (pa n v : Nat) : (s.setPhysNat pa n v).queues = s.queues := rfl
@[simp] theorem State.setPhysNat_nextSerial (s : State) (pa n v : Nat) : (s.setPhysNat pa n v).nextSerial = s.nextSerial := rfl
@[simp] theorem State.setPhysNat_nextStage (s : State) (pa n v : Nat) : (s.setPhysNat pa n v).nextStage = s.nextStage := rfl
@[simp] theorem State.setPhysNat_nextChan (s : State) (pa n v : Nat) : (s.setPhysNat pa n v).nextChan = s.nextChan := rfl
@[simp] theorem State.setPhysNat_elemLimit (s : State) (pa n v : Nat) : (s.setPhysNat pa n v).elemLimit = s.elemLimit := rfl
@[simp] theorem State.setPhysNat_nextCopy (s : State) (pa n v : Nat) : (s.setPhysNat pa n v).nextCopy = s.nextCopy := rfl
@[simp] theorem State.setPhysNat_nextJoin (s : State) (pa n v : Nat) : (s.setPhysNat pa n v).nextJoin = s.nextJoin := rfl
@[simp] theorem State.setPhysNat_pkgCycle (s : State) (pa n v : Nat) : (s.setPhysNat pa n v).pkgCycle = s.pkgCycle := rfl
@[simp] theorem State.setPhysNat_level (s : State) (pa n v : Nat) : (s.setPhysNat pa n v).level = s.level := rfl
@[simp] theorem State.setPhysNat_tlbcmd (s : State) (pa n v : Nat) : (s.setPhysNat pa n v).tlbcmd = s.tlbcmd := rfl
@[simp] theorem State.setPhysNat_fabric (s : State) (pa n v : Nat) : (s.setPhysNat pa n v).fabric = s.fabric := rfl
@[simp] theorem State.setPhysNat_hallmark (s : State) (pa n v : Nat) : (s.setPhysNat pa n v).hallmark = s.hallmark := rfl
@[simp] theorem State.setPhysNat_answer (s : State) (pa n v : Nat) : (s.setPhysNat pa n v).answer = s.answer := rfl

/-! `drawFree` -/

@[simp] theorem State.drawFree_agenda (s : State) : (s.drawFree).agenda = s.agenda := rfl
@[simp] theorem State.drawFree_focus (s : State) : (s.drawFree).focus = s.focus := rfl
@[simp] theorem State.drawFree_strands (s : State) : (s.drawFree).strands = s.strands := rfl
@[simp] theorem State.drawFree_cores (s : State) : (s.drawFree).cores = s.cores := rfl
@[simp] theorem State.drawFree_dies (s : State) : (s.drawFree).dies = s.dies := rfl
@[simp] theorem State.drawFree_mem (s : State) : (s.drawFree).mem = s.mem := rfl
@[simp] theorem State.drawFree_poison (s : State) : (s.drawFree).poison = s.poison := rfl
@[simp] theorem State.drawFree_owners (s : State) : (s.drawFree).owners = s.owners := rfl
@[simp] theorem State.drawFree_retired (s : State) : (s.drawFree).retired = s.retired := rfl
@[simp] theorem State.drawFree_worlds (s : State) : (s.drawFree).worlds = s.worlds := rfl
@[simp] theorem State.drawFree_packages (s : State) : (s.drawFree).packages = s.packages := rfl
@[simp] theorem State.drawFree_sessions (s : State) : (s.drawFree).sessions = s.sessions := rfl
@[simp] theorem State.drawFree_launches (s : State) : (s.drawFree).launches = s.launches := rfl
@[simp] theorem State.drawFree_stages (s : State) : (s.drawFree).stages = s.stages := rfl
@[simp] theorem State.drawFree_chans (s : State) : (s.drawFree).chans = s.chans := rfl
@[simp] theorem State.drawFree_posted (s : State) : (s.drawFree).posted = s.posted := rfl
@[simp] theorem State.drawFree_queues (s : State) : (s.drawFree).queues = s.queues := rfl
@[simp] theorem State.drawFree_nextSerial (s : State) : (s.drawFree).nextSerial = s.nextSerial := rfl
@[simp] theorem State.drawFree_nextStage (s : State) : (s.drawFree).nextStage = s.nextStage := rfl
@[simp] theorem State.drawFree_nextChan (s : State) : (s.drawFree).nextChan = s.nextChan := rfl
@[simp] theorem State.drawFree_elemLimit (s : State) : (s.drawFree).elemLimit = s.elemLimit := rfl
@[simp] theorem State.drawFree_nextCopy (s : State) : (s.drawFree).nextCopy = s.nextCopy := rfl
@[simp] theorem State.drawFree_nextJoin (s : State) : (s.drawFree).nextJoin = s.nextJoin := rfl
@[simp] theorem State.drawFree_pkgCycle (s : State) : (s.drawFree).pkgCycle = s.pkgCycle := rfl
@[simp] theorem State.drawFree_level (s : State) : (s.drawFree).level = s.level := rfl
@[simp] theorem State.drawFree_tlbcmd (s : State) : (s.drawFree).tlbcmd = s.tlbcmd := rfl
@[simp] theorem State.drawFree_fabric (s : State) : (s.drawFree).fabric = s.fabric := rfl
@[simp] theorem State.drawFree_hallmark (s : State) : (s.drawFree).hallmark = s.hallmark := rfl
@[simp] theorem State.drawFree_answer (s : State) : (s.drawFree).answer = s.answer := rfl

/-! `setRing` -/

@[simp] theorem State.setRing_agenda (s : State) (r : EventRing) : (s.setRing r).agenda = s.agenda := rfl
@[simp] theorem State.setRing_focus (s : State) (r : EventRing) : (s.setRing r).focus = s.focus := rfl
@[simp] theorem State.setRing_freeCount (s : State) (r : EventRing) : (s.setRing r).freeCount = s.freeCount := rfl
@[simp] theorem State.setRing_strands (s : State) (r : EventRing) : (s.setRing r).strands = s.strands := rfl
@[simp] theorem State.setRing_cores (s : State) (r : EventRing) : (s.setRing r).cores = s.cores := rfl
@[simp] theorem State.setRing_dies (s : State) (r : EventRing) : (s.setRing r).dies = s.dies := rfl
@[simp] theorem State.setRing_mem (s : State) (r : EventRing) : (s.setRing r).mem = s.mem := rfl
@[simp] theorem State.setRing_poison (s : State) (r : EventRing) : (s.setRing r).poison = s.poison := rfl
@[simp] theorem State.setRing_owners (s : State) (r : EventRing) : (s.setRing r).owners = s.owners := rfl
@[simp] theorem State.setRing_retired (s : State) (r : EventRing) : (s.setRing r).retired = s.retired := rfl
@[simp] theorem State.setRing_worlds (s : State) (r : EventRing) : (s.setRing r).worlds = s.worlds := rfl
@[simp] theorem State.setRing_packages (s : State) (r : EventRing) : (s.setRing r).packages = s.packages := rfl
@[simp] theorem State.setRing_sessions (s : State) (r : EventRing) : (s.setRing r).sessions = s.sessions := rfl
@[simp] theorem State.setRing_launches (s : State) (r : EventRing) : (s.setRing r).launches = s.launches := rfl
@[simp] theorem State.setRing_stages (s : State) (r : EventRing) : (s.setRing r).stages = s.stages := rfl
@[simp] theorem State.setRing_chans (s : State) (r : EventRing) : (s.setRing r).chans = s.chans := rfl
@[simp] theorem State.setRing_posted (s : State) (r : EventRing) : (s.setRing r).posted = s.posted := rfl
@[simp] theorem State.setRing_queues (s : State) (r : EventRing) : (s.setRing r).queues = s.queues := rfl
@[simp] theorem State.setRing_nextSerial (s : State) (r : EventRing) : (s.setRing r).nextSerial = s.nextSerial := rfl
@[simp] theorem State.setRing_nextStage (s : State) (r : EventRing) : (s.setRing r).nextStage = s.nextStage := rfl
@[simp] theorem State.setRing_nextChan (s : State) (r : EventRing) : (s.setRing r).nextChan = s.nextChan := rfl
@[simp] theorem State.setRing_elemLimit (s : State) (r : EventRing) : (s.setRing r).elemLimit = s.elemLimit := rfl
@[simp] theorem State.setRing_nextCopy (s : State) (r : EventRing) : (s.setRing r).nextCopy = s.nextCopy := rfl
@[simp] theorem State.setRing_nextJoin (s : State) (r : EventRing) : (s.setRing r).nextJoin = s.nextJoin := rfl
@[simp] theorem State.setRing_pkgCycle (s : State) (r : EventRing) : (s.setRing r).pkgCycle = s.pkgCycle := rfl
@[simp] theorem State.setRing_level (s : State) (r : EventRing) : (s.setRing r).level = s.level := rfl
@[simp] theorem State.setRing_tlbcmd (s : State) (r : EventRing) : (s.setRing r).tlbcmd = s.tlbcmd := rfl
@[simp] theorem State.setRing_fabric (s : State) (r : EventRing) : (s.setRing r).fabric = s.fabric := rfl
@[simp] theorem State.setRing_answer (s : State) (r : EventRing) : (s.setRing r).answer = s.answer := rfl

/-! `complete` -/

@[simp] theorem State.complete_agenda (s : State) (t : Strand) : (s.complete t).agenda = s.agenda := rfl
@[simp] theorem State.complete_focus (s : State) (t : Strand) : (s.complete t).focus = s.focus := rfl
@[simp] theorem State.complete_freeCount (s : State) (t : Strand) : (s.complete t).freeCount = s.freeCount := rfl
@[simp] theorem State.complete_cores (s : State) (t : Strand) : (s.complete t).cores = s.cores := rfl
@[simp] theorem State.complete_dies (s : State) (t : Strand) : (s.complete t).dies = s.dies := rfl
@[simp] theorem State.complete_mem (s : State) (t : Strand) : (s.complete t).mem = s.mem := rfl
@[simp] theorem State.complete_poison (s : State) (t : Strand) : (s.complete t).poison = s.poison := rfl
@[simp] theorem State.complete_owners (s : State) (t : Strand) : (s.complete t).owners = s.owners := rfl
@[simp] theorem State.complete_retired (s : State) (t : Strand) : (s.complete t).retired = s.retired := rfl
@[simp] theorem State.complete_worlds (s : State) (t : Strand) : (s.complete t).worlds = s.worlds := rfl
@[simp] theorem State.complete_packages (s : State) (t : Strand) : (s.complete t).packages = s.packages := rfl
@[simp] theorem State.complete_sessions (s : State) (t : Strand) : (s.complete t).sessions = s.sessions := rfl
@[simp] theorem State.complete_launches (s : State) (t : Strand) : (s.complete t).launches = s.launches := rfl
@[simp] theorem State.complete_stages (s : State) (t : Strand) : (s.complete t).stages = s.stages := rfl
@[simp] theorem State.complete_chans (s : State) (t : Strand) : (s.complete t).chans = s.chans := rfl
@[simp] theorem State.complete_posted (s : State) (t : Strand) : (s.complete t).posted = s.posted := rfl
@[simp] theorem State.complete_queues (s : State) (t : Strand) : (s.complete t).queues = s.queues := rfl
@[simp] theorem State.complete_nextSerial (s : State) (t : Strand) : (s.complete t).nextSerial = s.nextSerial := rfl
@[simp] theorem State.complete_nextStage (s : State) (t : Strand) : (s.complete t).nextStage = s.nextStage := rfl
@[simp] theorem State.complete_nextChan (s : State) (t : Strand) : (s.complete t).nextChan = s.nextChan := rfl
@[simp] theorem State.complete_elemLimit (s : State) (t : Strand) : (s.complete t).elemLimit = s.elemLimit := rfl
@[simp] theorem State.complete_nextCopy (s : State) (t : Strand) : (s.complete t).nextCopy = s.nextCopy := rfl
@[simp] theorem State.complete_nextJoin (s : State) (t : Strand) : (s.complete t).nextJoin = s.nextJoin := rfl
@[simp] theorem State.complete_pkgCycle (s : State) (t : Strand) : (s.complete t).pkgCycle = s.pkgCycle := rfl
@[simp] theorem State.complete_level (s : State) (t : Strand) : (s.complete t).level = s.level := rfl
@[simp] theorem State.complete_tlbcmd (s : State) (t : Strand) : (s.complete t).tlbcmd = s.tlbcmd := rfl
@[simp] theorem State.complete_fabric (s : State) (t : Strand) : (s.complete t).fabric = s.fabric := rfl
@[simp] theorem State.complete_hallmark (s : State) (t : Strand) : (s.complete t).hallmark = s.hallmark := rfl
@[simp] theorem State.complete_answer (s : State) (t : Strand) : (s.complete t).answer = s.answer := rfl

/-! `waitIn` -/

@[simp] theorem State.waitIn_agenda (s : State) (t : Strand) (w : Wait) : (s.waitIn t w).agenda = s.agenda := rfl
@[simp] theorem State.waitIn_focus (s : State) (t : Strand) (w : Wait) : (s.waitIn t w).focus = s.focus := rfl
@[simp] theorem State.waitIn_freeCount (s : State) (t : Strand) (w : Wait) : (s.waitIn t w).freeCount = s.freeCount := rfl
@[simp] theorem State.waitIn_cores (s : State) (t : Strand) (w : Wait) : (s.waitIn t w).cores = s.cores := rfl
@[simp] theorem State.waitIn_dies (s : State) (t : Strand) (w : Wait) : (s.waitIn t w).dies = s.dies := rfl
@[simp] theorem State.waitIn_mem (s : State) (t : Strand) (w : Wait) : (s.waitIn t w).mem = s.mem := rfl
@[simp] theorem State.waitIn_poison (s : State) (t : Strand) (w : Wait) : (s.waitIn t w).poison = s.poison := rfl
@[simp] theorem State.waitIn_owners (s : State) (t : Strand) (w : Wait) : (s.waitIn t w).owners = s.owners := rfl
@[simp] theorem State.waitIn_retired (s : State) (t : Strand) (w : Wait) : (s.waitIn t w).retired = s.retired := rfl
@[simp] theorem State.waitIn_worlds (s : State) (t : Strand) (w : Wait) : (s.waitIn t w).worlds = s.worlds := rfl
@[simp] theorem State.waitIn_packages (s : State) (t : Strand) (w : Wait) : (s.waitIn t w).packages = s.packages := rfl
@[simp] theorem State.waitIn_sessions (s : State) (t : Strand) (w : Wait) : (s.waitIn t w).sessions = s.sessions := rfl
@[simp] theorem State.waitIn_launches (s : State) (t : Strand) (w : Wait) : (s.waitIn t w).launches = s.launches := rfl
@[simp] theorem State.waitIn_stages (s : State) (t : Strand) (w : Wait) : (s.waitIn t w).stages = s.stages := rfl
@[simp] theorem State.waitIn_chans (s : State) (t : Strand) (w : Wait) : (s.waitIn t w).chans = s.chans := rfl
@[simp] theorem State.waitIn_posted (s : State) (t : Strand) (w : Wait) : (s.waitIn t w).posted = s.posted := rfl
@[simp] theorem State.waitIn_queues (s : State) (t : Strand) (w : Wait) : (s.waitIn t w).queues = s.queues := rfl
@[simp] theorem State.waitIn_nextSerial (s : State) (t : Strand) (w : Wait) : (s.waitIn t w).nextSerial = s.nextSerial := rfl
@[simp] theorem State.waitIn_nextStage (s : State) (t : Strand) (w : Wait) : (s.waitIn t w).nextStage = s.nextStage := rfl
@[simp] theorem State.waitIn_nextChan (s : State) (t : Strand) (w : Wait) : (s.waitIn t w).nextChan = s.nextChan := rfl
@[simp] theorem State.waitIn_elemLimit (s : State) (t : Strand) (w : Wait) : (s.waitIn t w).elemLimit = s.elemLimit := rfl
@[simp] theorem State.waitIn_nextCopy (s : State) (t : Strand) (w : Wait) : (s.waitIn t w).nextCopy = s.nextCopy := rfl
@[simp] theorem State.waitIn_nextJoin (s : State) (t : Strand) (w : Wait) : (s.waitIn t w).nextJoin = s.nextJoin := rfl
@[simp] theorem State.waitIn_pkgCycle (s : State) (t : Strand) (w : Wait) : (s.waitIn t w).pkgCycle = s.pkgCycle := rfl
@[simp] theorem State.waitIn_level (s : State) (t : Strand) (w : Wait) : (s.waitIn t w).level = s.level := rfl
@[simp] theorem State.waitIn_tlbcmd (s : State) (t : Strand) (w : Wait) : (s.waitIn t w).tlbcmd = s.tlbcmd := rfl
@[simp] theorem State.waitIn_fabric (s : State) (t : Strand) (w : Wait) : (s.waitIn t w).fabric = s.fabric := rfl
@[simp] theorem State.waitIn_hallmark (s : State) (t : Strand) (w : Wait) : (s.waitIn t w).hallmark = s.hallmark := rfl
@[simp] theorem State.waitIn_answer (s : State) (t : Strand) (w : Wait) : (s.waitIn t w).answer = s.answer := rfl

/-! `stall` -/

@[simp] theorem State.stall_agenda (s : State) (t : Strand) (x : Stall) : (s.stall t x).agenda = s.agenda := rfl
@[simp] theorem State.stall_focus (s : State) (t : Strand) (x : Stall) : (s.stall t x).focus = s.focus := rfl
@[simp] theorem State.stall_freeCount (s : State) (t : Strand) (x : Stall) : (s.stall t x).freeCount = s.freeCount := rfl
@[simp] theorem State.stall_cores (s : State) (t : Strand) (x : Stall) : (s.stall t x).cores = s.cores := rfl
@[simp] theorem State.stall_dies (s : State) (t : Strand) (x : Stall) : (s.stall t x).dies = s.dies := rfl
@[simp] theorem State.stall_mem (s : State) (t : Strand) (x : Stall) : (s.stall t x).mem = s.mem := rfl
@[simp] theorem State.stall_poison (s : State) (t : Strand) (x : Stall) : (s.stall t x).poison = s.poison := rfl
@[simp] theorem State.stall_owners (s : State) (t : Strand) (x : Stall) : (s.stall t x).owners = s.owners := rfl
@[simp] theorem State.stall_retired (s : State) (t : Strand) (x : Stall) : (s.stall t x).retired = s.retired := rfl
@[simp] theorem State.stall_worlds (s : State) (t : Strand) (x : Stall) : (s.stall t x).worlds = s.worlds := rfl
@[simp] theorem State.stall_packages (s : State) (t : Strand) (x : Stall) : (s.stall t x).packages = s.packages := rfl
@[simp] theorem State.stall_sessions (s : State) (t : Strand) (x : Stall) : (s.stall t x).sessions = s.sessions := rfl
@[simp] theorem State.stall_launches (s : State) (t : Strand) (x : Stall) : (s.stall t x).launches = s.launches := rfl
@[simp] theorem State.stall_stages (s : State) (t : Strand) (x : Stall) : (s.stall t x).stages = s.stages := rfl
@[simp] theorem State.stall_chans (s : State) (t : Strand) (x : Stall) : (s.stall t x).chans = s.chans := rfl
@[simp] theorem State.stall_posted (s : State) (t : Strand) (x : Stall) : (s.stall t x).posted = s.posted := rfl
@[simp] theorem State.stall_queues (s : State) (t : Strand) (x : Stall) : (s.stall t x).queues = s.queues := rfl
@[simp] theorem State.stall_nextSerial (s : State) (t : Strand) (x : Stall) : (s.stall t x).nextSerial = s.nextSerial := rfl
@[simp] theorem State.stall_nextStage (s : State) (t : Strand) (x : Stall) : (s.stall t x).nextStage = s.nextStage := rfl
@[simp] theorem State.stall_nextChan (s : State) (t : Strand) (x : Stall) : (s.stall t x).nextChan = s.nextChan := rfl
@[simp] theorem State.stall_elemLimit (s : State) (t : Strand) (x : Stall) : (s.stall t x).elemLimit = s.elemLimit := rfl
@[simp] theorem State.stall_nextCopy (s : State) (t : Strand) (x : Stall) : (s.stall t x).nextCopy = s.nextCopy := rfl
@[simp] theorem State.stall_nextJoin (s : State) (t : Strand) (x : Stall) : (s.stall t x).nextJoin = s.nextJoin := rfl
@[simp] theorem State.stall_pkgCycle (s : State) (t : Strand) (x : Stall) : (s.stall t x).pkgCycle = s.pkgCycle := rfl
@[simp] theorem State.stall_level (s : State) (t : Strand) (x : Stall) : (s.stall t x).level = s.level := rfl
@[simp] theorem State.stall_tlbcmd (s : State) (t : Strand) (x : Stall) : (s.stall t x).tlbcmd = s.tlbcmd := rfl
@[simp] theorem State.stall_fabric (s : State) (t : Strand) (x : Stall) : (s.stall t x).fabric = s.fabric := rfl
@[simp] theorem State.stall_hallmark (s : State) (t : Strand) (x : Stall) : (s.stall t x).hallmark = s.hallmark := rfl
@[simp] theorem State.stall_answer (s : State) (t : Strand) (x : Stall) : (s.stall t x).answer = s.answer := rfl

end Sys2Proof.Machine
end

