-- ==== Sys2Proof/Laws/Words.lean ====
section
/-! SUPPORT. The number functions of the model are the bit-vector functions of the same width. -/

namespace Sys2Proof.Machine

theorem signedOf_toInt {n : Nat} (hn : 0 < n) (a : BitVec n) : signedOf a.toNat n = a.toInt := by
  obtain ⟨m, rfl⟩ : ∃ m, n = m + 1 := ⟨n - 1, by omega⟩
  have hlt := a.isLt
  have hp : 2 ^ (m + 1) = 2 * 2 ^ m := by rw [Nat.pow_succ]; omega
  have hmod : a.toNat % 2 ^ (m + 1) = a.toNat := Nat.mod_eq_of_lt hlt
  simp only [signedOf, hmod, BitVec.toInt_eq_toNat_cond, Nat.add_sub_cancel]
  by_cases h : a.toNat < 2 ^ m
  · rw [if_pos h, if_pos (by omega)]
  · rw [if_neg h, if_neg (by omega)]

theorem signedOf_mod {n : Nat} (a : Nat) : signedOf (a % 2 ^ n) n = signedOf a n := by
  simp [signedOf]

/-- A value wrapped to 64 bits is that integer as a word. -/
theorem ofNat_wrap64 (x : Int) : BitVec.ofNat 64 (wrapTo 64 x) = BitVec.ofInt 64 x := by
  apply BitVec.eq_of_toNat_eq
  have h : (0 : Int) ≤ x % (2 ^ 64 : Nat) := Int.emod_nonneg _ (by decide)
  have h2 : x % (2 ^ 64 : Nat) < (2 ^ 64 : Nat) := Int.emod_lt_of_pos _ (by decide)
  rw [BitVec.toNat_ofNat, BitVec.toNat_ofInt, wrapTo]
  exact Nat.mod_eq_of_lt (by omega)

theorem ofNat_wrapTo (n : Nat) (x : Int) : BitVec.ofNat n (wrapTo n x) = BitVec.ofInt n x := by
  apply BitVec.eq_of_toNat_eq
  have hp : (0 : Int) < (2 ^ n : Nat) := by have := Nat.two_pow_pos n; omega
  have h : (0 : Int) ≤ x % (2 ^ n : Nat) := Int.emod_nonneg _ (by omega)
  have h2 : x % (2 ^ n : Nat) < (2 ^ n : Nat) := Int.emod_lt_of_pos _ hp
  rw [BitVec.toNat_ofNat, BitVec.toNat_ofInt, wrapTo]
  exact Nat.mod_eq_of_lt (by omega)

/-- Sign extension of a wrapped integer to a register. -/
theorem ofNat_sext_wrapTo {n : Nat} (hn : 0 < n) (x : Int) :
    BitVec.ofNat 64 (sext n (wrapTo n x)) = (BitVec.ofInt n x).signExtend 64 := by
  have e : signedOf (wrapTo n x) n = (BitVec.ofInt n x).toInt := by
    rw [← ofNat_wrapTo, ← signedOf_toInt hn, BitVec.toNat_ofNat, signedOf_mod]
  rw [sext, e, ofNat_wrap64]
  rfl

end Sys2Proof.Machine
end

