-- ==== Sys2Proof/Tests/Slice0.lean ====
section
/-! SUPPORT. Tests of this model: ill-formed terms, words that the spec writes out, and single steps whose results the spec
states. -/

namespace Sys2Proof.Tests

-- One theorem after another: many kernel evaluations at once take too many threads.
set_option Elab.async false

open Sys2Proof Sys2Proof.Machine

/-! ## Short names for operands -/

def g0 : Guard := ⟨0, false⟩
def alu : AluForm := ⟨g0, 5, 6, 7, false, false, false⟩
def fpf : FpForm := ⟨g0, 5, 6, 7, .dyn, .f32⟩
def mem : MemForm := ⟨g0, 4, 2, 0, .g, 0, .w, 0, 0⟩
def vec : VecForm := ⟨g0, 1, 2, 3, false, false, false⟩
def un : VecUn := ⟨g0, 4, 2, false, false⟩
def red : RedForm := ⟨g0, 5, 2, 0, false⟩
def mmf : MmaForm := ⟨g0, 0, 1, 2, 0, 1, .acc⟩
def cpf : CopyForm := ⟨g0, 4, 5, 6, 0, false, 5, 0⟩
def mapf : MapForm := ⟨g0, 7, 8, 5, false⟩
def slot0 : SlotId := ⟨0, 0, 0⟩
def core0 : CoreId := ⟨0, 0⟩

/-! ## Ill-formed terms, one for each check -/

/-- Guards, register fields, immediates and the other numbers of control and system instructions. -/
theorem test_wf_control : ([.nop ⟨16, false⟩, .br g0 .none (2 ^ 32), .brx g0 64 .none, .call g0 64 .none 0,
    .callx g0 0 64 .none, .loop g0 0 .none 1, .trap g0 (2 ^ 32), .getsr g0 5 4096, .setsr g0 64 0, .tlbinv g0 5 3,
    .plateinv g0 64 0, .chkpt g0 5 4, .energy g0 5 3] : List Instr).all (fun i => !i.wf) = true := by decide

/-- Scalar instructions: flags that a row does not allow, fields out of range. -/
theorem test_wf_scalar : ([.add { alu with u := true }, .mul { alu with u := true }, .mulh { alu with sat := true },
    .and { alu with w := true }, .add { alu with d := 64 }, .addi g0 5 6 false (2 ^ 32), .shi g0 5 6 .shl true 32,
    .shi g0 5 6 .shl false 64, .clz g0 64 6 false, .sel g0 5 6 7 64 false, .extr g0 5 6 false 60 5, .insr g0 5 6 64 1,
    .extr g0 5 6 false 0 0, .cmp g0 5 6 64 .eq false .set, .fma fpf 64 .none, .fcvt g0 5 6 .f32 .f32 .dyn,
    .pset g0 1 1 .all 0, .pset g0 1 0 .none 1, .pmov g0 1 2 3 .pp, .pcount g0 64 1 false] : List Instr).all
    (fun i => !i.wf) = true := by decide

/-- Memory instructions: sizes, spaces, orders and index scales. -/
theorem test_wf_memory : ([.ld { mem with m := 4 } .plain false, .ld { mem with off := 2 ^ 17 } .plain false,
    .ld { mem with sp := .d, xs := 1 } .plain false, .ld { mem with sz := .d } .plain true, .ld mem .rel false, .st mem .acq,
    .lda { mem with sz := .qd } .die, .lda { mem with sp := .d } .die, .atom { mem with xs := 1 } .plain .add,
    .atom { mem with b := 3 } .plain .add, .cas { mem with sz := .sec } .plain, .fence g0 .full .die 0, .sbar g0 16,
    .pref { mem with sz := .w, d := 0 }, .pin { mem with sp := .l, sz := .b }, .mcast mem false] : List Instr).all
    (fun i => !i.wf) = true := by decide

/-- Vector instructions. -/
theorem test_wf_vector : ([.vsetl g0 4 0 4 0 8, .vsetl g0 4 1 0 0 8, .vld { mem with sz := .sec }, .vlds { mem with sp := .d },
    .vldx { mem with sp := .d }, .vadd { vec with a := 64 }, .vmerge vec 64, .vredsum { red with b := 1 } false,
    .vredmax red .s true, .vargmax g0 5 2 .u true, .vslideup un 64, .vcompress 64 2 3 false, .vbcast g0 64 5 false false,
    .vfcvt un .f32 .f32 .dyn] : List Instr).all (fun i => !i.wf) = true := by decide

/-- Matrix, copy and map instructions. -/
theorem test_wf_engines : ([.tdset g0 1 0 .cols (2 ^ 32), .kset g0 2 1 .uni 127, .kset g0 2 0 .uni 256, .mma { mmf with ka := 16 },
    .mmaq mmf 16, .maccst g0 2 0 true .vq2x, .mcode g0 5 .d, .mstat g0 5 1 true true, .mstat g0 5 1 false true,
    .cpy { cpf with q := 4 } .l .g, .cpy { cpf with nm := true } .l .g, .cpy { cpf with c := 9 } .l .g, .cpy cpf .d .d,
    .cpym cpf 16 .acc true, .cgather cpf .d, .cscatter cpf .d, .cmapwt { mapf with map := 64 }, .cfill { cpf with c := 1 } .l,
    .qfence g0 0] : List Instr).all (fun i => !i.wf) = true := by decide

/-- Stage, Stipple, fabric and session instructions. -/
theorem test_wf_stages : ([.deq g0 64 2, .deqt g0 7 64 2, .widx g0 5 6 32, .bara g0 6 16, .barw g0 6 16,
    .sigwait { mem with sp := .d } true, .sigwait { mem with sz := .b } true, .sigwake mem, .chstat g0 5 (.inp 64),
    .spinit g0 4 5 4 false, .spnext g0 6 2 4, .spacc g0 3 7 4 false, .spstat g0 8 4 .mean, .sptol g0 9 4 .tol, .spstop g0 4,
    .lease g0 5 9 64 false, .podid g0 7 0 4, .podid g0 7 1 0, .cdec g0 8 10 11 12 16 0, .cenc g0 8 10 11 12 4,
    .sessinfo g0 5 9 4, .grchk g0 5 6 .d] : List Instr).all (fun i => !i.wf) = true := by decide

/-- Events: the die, core, slot, port, queue and table numbers exist. -/
theorem test_wf_events : ([.tpopRead 8 5, .bankWake ⟨0, 32⟩ 0, .bankRetentionEntry core0 8, .channelPacketArrival slot0 16,
    .copyBegin core0 4, .waitpEnd ⟨0, 0, 16⟩, .spinitArrive slot0 4, .switchTokenArrival 1 16, .stopBroadcastReceive 1 0 8,
    .sessionOpen 1024 0 0 0, .sqTailWrite 64 0, .bwWindowStart 8 ⟨0, []⟩, .linkBringup 33 true, .trainingDone 0 128 .tx, .lossOfLight none 18, .lossOfLight (some 33) 0, .lightRestored (some 0) 16,
    .spareSwitchIn 16, .runtimeRestart 8] : List Instr).all (fun i => !i.wf) = true := by decide

/-! ## Words that the spec writes out, family by family -/

/-- Control (03 R62; 04 R83, R86, R88). -/
theorem test_words_control : decode 0x0040000000000000 = .instr (.nop g0) ∧ decode 0x0240000000000000 = .instr (.yield g0) ∧
    decode 0x0200000000000000 = .instr (.exit g0) ∧ decode 0x0280008000000000 = .instr (.waitp g0 4) ∧
    decode 0x0088_0000_FFFF_FFFD = .instr (.br ⟨2, false⟩ .none 0xFFFFFFFD) ∧
    decode 0x0100_0800_0000_0008 = .instr (.call g0 1 .none 8) ∧ decode 0x01C0_0120_FFFF_FFFC = .instr (.loop g0 9 .none 0xFFFFFFFC) ∧
    decode 0x02C0_0000_0000_002A = .instr (.trap g0 0x2A) ∧ decode 0x0300_0000_0000_0003 = .instr (.svc g0 3) ∧
    decode 0x0340_0000_0000_0000 = .instr (.brk g0 0) ∧ decode 0x020A_0000_0000_0000 = .instr (.exit ⟨2, true⟩) := by decide

/-- System (01 R27; 16 R301; 17 R311 to R319). -/
theorem test_words_system : decode 0x0380_2000_0400_0000 = .instr (.getsr g0 4 2) ∧ decode 0x03C0_00A0_8000_0000 = .instr (.setsr g0 5 0x40) ∧
    decode 0x0380_2002_2000_0000 = .instr (.getsr g0 4 0x110) ∧ decode 0x0380_2802_0200_0000 = .instr (.getsr g0 5 0x101) ∧
    decode 0x03C0_00C2_0400_0000 = .instr (.setsr g0 6 0x102) ∧ decode 0x0400_0080_0000_0000 = .instr (.tret g0 4) ∧
    decode 0x0440_00A0_0200_0000 = .instr (.tlbinv g0 5 1) ∧ decode 0x0480_00A0_0000_0000 = .instr (.plateinv g0 5 0) ∧
    decode 0x0500_3000_0200_0000 = .instr (.energy g0 6 1) := by decide

/-- Scalar integer (04 R70 to R74). -/
theorem test_words_scalar : decode 0x1140_28C3_8002_0000 = .instr (.div { alu with u := true }) ∧
    decode 0x1140_28C3_8001_0000 = .instr (.div { alu with w := true }) ∧
    decode 0x1000_28C3_8005_0000 = .instr (.add { alu with w := true, sat := true }) ∧
    decode 0x100E_0841_8000_0000 = .instr (.add ⟨⟨3, true⟩, 1, 2, 3, false, false, false⟩) ∧
    decode 0x1080_28C0_FFFF_FFF8 = .instr (.addi g0 5 6 false 0xFFFFFFF8) ∧ decode 0x1440_1880_0001_0000 = .instr (.clz g0 3 4 true) ∧
    decode 0x1500_28C3_8400_0000 = .instr (.sel g0 5 6 7 2 false) ∧ decode 0x1540_2000_4238_0000 = .instr (.movi g0 4 false 0x42380000) ∧
    decode 0x1580_2080_4000_4000 = .instr (.movhi g0 4 4 0x40004000) ∧
    decode 0x15C0_28C1_0000_0308 = .instr (.extr g0 5 6 true 8 4) ∧
    decode 0x1680_10E0_0000_0000 = .instr (.cmpi g0 2 7 .eq false 0) := by decide

/-- Predicates (04 R82). -/
theorem test_words_predicate : decode 0x2440_0882_0000_0000 = .instr (.pset g0 1 4 .first 0) ∧
    decode 0x24C0_2820_0000_0000 = .instr (.pcount g0 5 1 false) := by decide

/-- Scalar memory (03 R62; 05 R98 to R109). -/
theorem test_words_memory : decode 0x3000_2860_1082_0006 = .instr (.ld ⟨g0, 5, 3, 0, .l, 0, .h, 0, 6⟩ .plain true) ∧
    decode 0x3000_2041_8108_0008 = .instr (.ld ⟨g0, 4, 2, 3, .g, 0, .w, 2, 8⟩ .plain false) ∧
    decode 0x3040_2840_0920_0000 = .instr (.st ⟨g0, 5, 2, 0, .g, 2, .w, 0, 0⟩ .rel) ∧
    decode 0x3040_2044_B980_0010 = .instr (.st ⟨g0, 4, 2, 9, .d, 2, .d, 0, 16⟩ .plain) ∧
    decode 0x3080_3060_0140_0000 = .instr (.lda ⟨g0, 6, 3, 0, .g, 0, .w, 0, 0⟩ .pkg) ∧
    decode 0x30C0_2044_B5D0_0000 = .instr (.strel ⟨g0, 4, 2, 9, .d, 1, .d, 0, 0⟩ .pod) ∧
    decode 0x3100_2840_0182_0008 = .instr (.atom ⟨g0, 5, 2, 0, .g, 0, .d, 0, 8⟩ .plain .add) ∧
    decode 0x3140_3040_01B0_0000 = .instr (.cas ⟨g0, 6, 2, 0, .g, 0, .d, 0, 0⟩ .sc) ∧
    decode 0x3180_0000_015F_0000 = .instr (.fence g0 .rel .pod 15) ∧ decode 0x31C0_0000_0005_0000 = .instr (.sbar g0 5) ∧
    decode 0x3200_0040_0000_0040 = .instr (.pref ⟨g0, 0, 2, 0, .g, 0, .b, 0, 64⟩) ∧
    decode 0x3240_1040_0000_0000 = .instr (.pin ⟨g0, 2, 2, 0, .g, 0, .b, 0, 0⟩) ∧
    decode 0x3280_0040_0000_0000 = .instr (.unpin ⟨g0, 0, 2, 0, .g, 0, .b, 0, 0⟩) := by decide

/-- Vector (06 R111 to R140). -/
theorem test_words_vector : decode 0x4000_48E2_0000_0000 = .instr (.vsetl g0 9 7 0 2 0) ∧
    decode 0x4040_1060_0080_0000 = .instr (.vld ⟨g0, 2, 3, 0, .g, 0, .h, 0, 0⟩) ∧
    decode 0x4080_1062_8100_0000 = .instr (.vlds ⟨g0, 2, 3, 5, .g, 0, .w, 0, 0⟩) ∧
    decode 0x41C0_3062_0108_0000 = .instr (.vstx ⟨g0, 6, 3, 4, .g, 0, .w, 2, 0⟩) ∧
    decode 0x53C0_0842_8040_2000 = .instr (.vadds ⟨g0, 1, 2, 5, false, false, true⟩ true) ∧
    decode 0x5340_1080_0040_4000 = .instr (.vcmp ⟨g0, 2, 4, 0, false, false, true⟩ .lt) ∧
    decode 0x5380_0841_8800_0000 = .instr (.vmerge vec 4) ∧ decode 0x5440_1080_0000_2000 = .instr (.vnarrow ⟨g0, 2, 4, false, false⟩ .ssat) ∧
    decode 0x6000_20B1_0180_0000 = .instr (.vfadd ⟨g0, 4, 5, 34, true, true, false⟩ false .dyn) ∧
    decode 0x60C0_20A3_0E00_0000 = .instr (.vfma ⟨g0, 4, 5, 6, false, false, false⟩ 7 .none false .dyn) ∧
    decode 0x6240_2040_0001_4000 = .instr (.vfcvt un .bf16 .f32 .dyn) ∧ decode 0x7080_3040_0000_4000 = .instr (.vredmax ⟨g0, 6, 2, 0, false⟩ .f false) ∧
    decode 0x7180_2042_8040_0000 = .instr (.vslidedn un 5) ∧ decode 0x7200_3040_0600_0000 = .instr (.vcompress 6 2 3 false) ∧
    decode 0x7280_20C2_8040_0000 = .instr (.vmvsv g0 4 6 5) ∧ decode 0x72C0_2843_0040_0000 = .instr (.vmvvs g0 5 2 6 false) := by decide

/-- Matrix and copy engine (07 R152 to R165; 09 R183 to R188). -/
theorem test_words_engines : decode 0x8000_08C5_FFFF_FFF0 = .instr (.tdset g0 1 6 .scalebase 0xFFFFFFF0) ∧
    decode 0x8040_2823_0000_0000 = .instr (.tdget g0 5 1 .cols) ∧ decode 0x8080_18A6_0000_0040 = .instr (.kset g0 3 5 (.addr .l) 0x40) ∧
    decode 0x8180_0860_0000_0000 = .instr (.maccld g0 1 3) ∧ decode 0x81C0_1000_0015_0000 = .instr (.maccst g0 2 0 true .mxfp8) ∧
    decode 0x8280_0800_0000_0000 = .instr (.mwait g0 1 0) ∧ decode 0x82C0_3000_0003_0000 = .instr (.mstat g0 6 0 true true) ∧
    decode 0x9000_20A3_1219_0100 = .instr (.cpy ⟨g0, 4, 5, 6, 9, false, 0, 1⟩ .l .d) ∧
    decode 0x9240_2003_0001_0400 = .instr (.cfill ⟨g0, 4, 0, 6, 0, false, 1, 0⟩ .l) ∧
    decode 0x9080_20A3_0E01_0800 = .instr (.cgather ⟨g0, 4, 5, 6, 7, false, 2, 0⟩ .g) ∧
    decode 0x90C0_20A3_0E08_0800 = .instr (.cscatter ⟨g0, 4, 5, 6, 7, false, 2, 0⟩ .g) ∧
    decode 0x9140_10E4_0000_1400 = .instr (.cmaptst mapf 2) ∧ decode 0x9180_00E4_0001_1400 = .instr (.cmapclr { mapf with wd := true }) ∧
    decode 0x9200_0000_000F_0000 = .instr (.qfence g0 15) ∧ decode 0x91C0_0800_0000_0000 = .instr (.cdrain g0 1 .all) := by decide

/-- Stages, Stipple, fabric and sessions (10 R196 to R208; 12 R231 to R237; 19 R340 to R345; 15 R279 to R284). -/
theorem test_words_stages : decode 0xA000_4800_0400_0000 = .instr (.deq g0 9 2) ∧ decode 0xA040_38A0_0400_0000 = .instr (.deqt g0 7 5 2) ∧
    decode 0xA0C0_0040_0000_0000 = .instr (.chw g0 0 2) ∧ decode 0xA100_00A3_0000_0000 = .instr (.chws g0 0 5 6) ∧
    decode 0xA140_0000_0000_0000 = .instr (.commit g0) ∧ decode 0xA180_0000_0001_0000 = .instr (.abort g0 true) ∧
    decode 0xA280_00A0_0600_0000 = .instr (.bari g0 5 3) ∧ decode 0xA200_3000_0600_0000 = .instr (.bara g0 6 3) ∧
    decode 0xA2C0_0862_8190_0000 = .instr (.sigwait ⟨g0, 1, 3, 5, .g, 0, .d, 0, 0⟩ true) ∧
    decode 0xA340_2800_0001_0000 = .instr (.chstat g0 5 (.inp 0)) ∧ decode 0xB000_0082_8001_0000 = .instr (.spinit g0 4 5 0 true) ∧
    decode 0xB080_00E0_0200_0000 = .instr (.spacc g0 0 7 1 false) ∧ decode 0xB0C0_4000_0001_0000 = .instr (.spstat g0 8 0 .mean) ∧
    decode 0xB100_0140_0002_0000 = .instr (.sptol g0 10 0 .nmin) ∧ decode 0xB140_0000_0400_0000 = .instr (.spstop g0 2) ∧
    decode 0xC000_2925_0001_0000 = .instr (.lease g0 5 9 10 true) ∧ decode 0xC0C0_3920_0002_0000 = .instr (.podid g0 7 9 2) ∧
    decode 0xD000_4145_9803_0000 = .instr (.cdec g0 8 10 11 12 3 0) ∧ decode 0xD080_0126_0000_0000 = .instr (.usage g0 0 9 12) := by decide

/-- An unlisted opcode and the zero word; a reserved field; opcode 0x055 with a nonzero A field (03 R58, R60; 04 R74). -/
theorem test_words_refused : decode 0 = .illegalOp ∧ decode 0xE000_0000_0000_0000 = .illegalOp ∧
    decode 0x0040_0000_0000_0001 = .illegalEnc ∧ decode 0x1540_2020_0000_0000 = .illegalEnc ∧
    decode 0x3000_2860_4082_0006 = .illegalEnc := by decide

/-! ## Small states -/

/-- A strand at a placed word, on an otherwise reset machine. -/
def base : State := State.reset.placeWord 0

/-- Changes the placed strand. -/
def strandIs (f : Strand → Strand) (s : State) : State := s.mapStrands f

/-- Sets scalar registers; the others are zero. -/
def scalars (l : List (Nat × Nat)) (s : State) : State :=
  strandIs (fun t => { t with regs := { t.regs with s := Vector.ofFn fun i => BitVec.ofNat 64 (assocD l i.val 0) } }) s

/-- Sets one predicate register. -/
def predicate (n v : Nat) (s : State) : State :=
  strandIs (fun t => { t with regs := { t.regs with p := t.regs.p.setIfInBounds n (BitVec.ofNat 2048 v) } }) s

/-- Sets VL and VTYPE. -/
def vectors (vl lg lew : Nat) (s : State) : State :=
  strandIs (fun t => { t with regs := { t.regs with vl := BitVec.ofNat 64 vl, vtype := BitVec.ofNat 64 (4 * lg + lew) } }) s

/-- Sets the elements of one vector register, `w` bits each. -/
def elements (n w : Nat) (l : List Nat) (s : State) : State :=
  strandIs (fun t => { t with regs := { t.regs with
    v := t.regs.v.setIfInBounds n (BitVec.ofNat 2048 (l.foldr (fun x acc => x + 2 ^ w * acc) 0)) } }) s

/-- A readable and writable page of world 0 at 0x20000, cached in the TLB of core 0. -/
def paged (s : State) : State :=
  s.putCore { s.core core0 with tlb := ⟨0, 0x20000, 65536, 0x20000, 1 + 2 + 4 + 0x20000, 3⟩ :: (s.core core0).tlb }

/-- The placed strand runs at supervisor level. -/
def super (s : State) : State := strandIs (fun t => { t with super := true }) s

/-- The placed strand after one instruction. -/
def afterExec (i : Instr) (s : State) : Option Strand := (nextOf (exec i s)).bind fun s' => s'.strand? slot0

/-- A scalar after one instruction. -/
def scalarAfter (i : Instr) (s : State) (n : Nat) : Option Nat := (afterExec i s).map fun t => t.rn n

/-- The cause of the trap that one instruction takes. -/
def causeAfter (i : Instr) (s : State) : Option Nat := (afterExec i s).bind fun t => t.frame.map Frame.cause

/-! ## Single steps whose results the spec states -/

/-- 04 R71: division by zero, the least 32-bit value by −1, and 32-bit saturation. -/
theorem test_div_u_by_zero : scalarAfter (.div { alu with u := true }) (scalars [(6, 100)] base) 5 = some 0xFFFFFFFFFFFFFFFF := by
  decide +kernel
theorem test_div_w_least : scalarAfter (.div { alu with w := true })
    (scalars [(6, 0xFFFFFFFF80000000), (7, 2 ^ 64 - 1)] base) 5 = some 0xFFFFFFFF80000000 := by decide +kernel
theorem test_add_w_sat : scalarAfter (.add { alu with w := true, sat := true }) (scalars [(6, 0x7FFFFFFF), (7, 1)] base) 5 =
    some 0x7FFFFFFF := by decide +kernel

/-- 04 R72, R74: the worked values of CLZ, ADDI and EXTR. -/
theorem test_clz_w : scalarAfter (.clz g0 3 4 true) (scalars [(4, 0xF0)] base) 3 = some 24 := by decide +kernel
theorem test_addi_negative : scalarAfter (.addi g0 5 6 false 0xFFFFFFF8) (scalars [(6, 3)] base) 5 = some (2 ^ 64 - 5) := by decide +kernel
theorem test_extr_sx : scalarAfter (.extr g0 5 6 true 8 4) (scalars [(6, 0xA00)] base) 5 = some 0xFFFFFFFFFFFFFFFA := by decide +kernel

/-- 04 R80: FCVT of 500.0 to E4M3 overflows to NaN with OF and NX, and to 448 under SAT. -/
theorem test_fcvt_overflow : (afterExec (.fcvt g0 4 5 .f32 .e4m3 .dyn) (scalars [(5, 0x43FA0000)] base)).map
    (fun t => (t.rn 4, t.regs.fpflags.toNat)) = some (0x7F, 5) := by decide +kernel
theorem test_fcvt_saturates : scalarAfter (.fcvt g0 4 5 .f32 .e4m3 .dyn) (strandIs (fun t => { t with regs := { t.regs with fpctl := 8 } })
    (scalars [(5, 0x43FA0000)] base)) 4 = some 0x7E := by decide +kernel

/-- 04 R82: PSET.first and PCOUNT at VLMAX = 64. -/
theorem test_pset_first : (afterExec (.pset g0 1 4 .first 0) (scalars [(4, 36)] (vectors 64 0 2 base))).map (fun t => t.rp 1) =
    some (2 ^ 36 - 1) := by decide +kernel
theorem test_pcount : scalarAfter (.pcount g0 5 1 false) (predicate 1 (2 ^ 36 - 1) (vectors 64 0 2 base)) 5 = some 36 := by decide +kernel

/-- 03 R54; 04 R83: a misaligned target traps and writes no link; LOOP of 0 wraps and branches. -/
theorem test_callx_misaligned : (afterExec (.callx g0 1 2 .none) (scalars [(2, 0x10004)] base)).map
    (fun t => (t.frame.map Frame.cause, t.rn 1)) = some (some 0x05, 0) := by decide +kernel
theorem test_loop_wraps : (afterExec (.loop g0 9 .none 0xFFFFFFFC) base).map (fun t => (t.rn 9, t.pc.toNat)) =
    some (2 ^ 64 - 1, 0x10000 - 32) := by decide +kernel

/-- 06 R111, R123: VSETL, and saturation at EW = 8. -/
theorem test_vsetl_clips : (afterExec (.vsetl g0 9 7 0 2 0) (scalars [(7, 100)] base)).map (fun t => (t.vl, t.rn 9)) = some (64, 64) := by
  decide +kernel
theorem test_vadds_u : (afterExec (.vadds ⟨g0, 1, 2, 5, false, false, true⟩ true) (elements 2 8 [250, 3] (scalars [(5, 10)] (vectors 1 0 0 base)))).map
    (fun t => (t.elems 1 8 0, t.elems 1 8 1)) = some (255, 0) := by decide +kernel

/-- 06 R135, the worked reductions: FP32 14, 26, 30, 34, 26, 30, 34, 46. -/
def eight : State := elements 2 32 [0x41600000, 0x41D00000, 0x41F00000, 0x42080000, 0x41D00000, 0x41F00000, 0x42080000, 0x42380000]
  (vectors 8 0 2 base)
theorem test_vfredsum : scalarAfter (.vfredsum red false .dyn) eight 5 = some 0x43700000 := by decide +kernel
theorem test_vredmax : scalarAfter (.vredmax ⟨g0, 6, 2, 0, false⟩ .f false) eight 6 = some 0x42380000 := by decide +kernel
theorem test_vargmax : scalarAfter (.vargmax g0 5 2 .f false) eight 5 = some 7 := by decide +kernel

/-- 05 R98, R104: little-endian bytes with sign extension; CAS writes only where the old value is expected. -/
def stored : State := { scalars [(2, 0x20000), (6, 0x11), (7, 0x99)] (paged base) with mem := memSetBytes base.mem 0x20000 [0x11, 0x80] }
theorem test_ld_sx : scalarAfter (.ld { mem with sz := .h } .plain true) stored 4 = some 0xFFFFFFFFFFFF8011 := by decide +kernel
theorem test_cas_fails : (nextOf (exec (.cas ⟨g0, 6, 2, 0, .g, 0, .d, 0, 0⟩ .plain) stored)).map (fun s => memGet s.mem 0x20000) =
    some 0x11 := by decide +kernel
theorem test_cas_swaps : (nextOf (exec (.cas ⟨g0, 6, 2, 0, .g, 0, .b, 0, 0⟩ .plain) stored)).map (fun s => memGet s.mem 0x20000) =
    some 0x99 := by decide +kernel

/-- 01 R29: TRET at user level raises PRIV. 17 R314: without a parked strand it raises BOUNDS with TINFO 24. -/
theorem test_tret_user : causeAfter (.tret g0 4) base = some 0x04 := by decide +kernel
theorem test_trap_frame : (afterExec (.trap g0 0x2A) base).bind (fun t => t.frame.map fun f => (f.cause, f.vpc, f.info, f.resume)) =
    some (0x0C, 0x10000, 0x2A, 1) := by decide +kernel

/-! ## Worked examples of the spec beyond one instruction -/

/-- 12 R227 and 13: the visit orders of N = 10 and N = 64 under the seed 0x0004_0003_0002_0001. -/
theorem test_visit_order_10 : (List.range 10).map (permAt 10 0x0004000300020001) = [8, 5, 6, 3, 2, 9, 4, 1, 0, 7] := by decide +kernel
theorem test_visit_order_64 : (List.range 8).map (permAt 64 0x0004000300020001) = [37, 21, 59, 38, 24, 40, 6, 61] := by decide +kernel

/-- 12 R229: NMIN = 3, Z = 2.0, TOL = 1.0 and the values 3, 5, 4, 4 and 9: a stop with CAUSE 1 at the fourth, the fifth discarded. -/
def example229 : Est := [0x4008000000000000, 0x4014000000000000, 0x4010000000000000, 0x4010000000000000, 0x4022000000000000].foldl
  (fun (e : Est) (x : Nat) => (e.apply [0] x).1)
  { Est.atAdmission 0 with init := true, nmin := 3, z := 0x4000000000000000, tol := 0x3FF0000000000000, dom := 64 }
theorem test_estimator : (example229.count, example229.mean, example229.m2, example229.stop, example229.cause, example229.disc) =
    (4, 0x4010000000000000, 0x4000000000000000, true, 1, 1) := by decide +kernel

/-- 10 R198: WIDX of 0x11 with `.workid 56, 8`. -/
theorem test_widx : scalarAfter (.widx g0 5 9 1) (strandIs (fun t => { t with widths := [56, 8] }) (scalars [(9, 0x11)] base)) 5 = some 0x11 := by
  decide +kernel

/-- 16 R302, the worked window: world 0 is idle at 128; at 384 the pool is shared and the held requests draw. -/
def shares302 : List (Nat × Nat) := [(0, 32), (3, 96), (7, 64)]
theorem test_bw_idle_gives_up : (BwPort.giveUp ⟨3, [(0, 32), (3, 56), (7, 34)], 64, []⟩ [3, 7]) = ⟨3, [(0, 0), (3, 56), (7, 34)], 96, []⟩ := by
  decide +kernel
theorem test_bw_pool_shared : (BwPort.dividePool ⟨3, [(0, 0), (3, 0), (7, 0)], 96, [(3, 24), (7, 26)]⟩ shares302).draw =
    ⟨3, [(0, 0), (3, 33), (7, 12)], 1, []⟩ := by decide +kernel

/-- 05 R109: an MCAST in Q with an empty mask completes, whatever its address. -/
theorem test_mcast_empty_mask : (afterExec (.mcast ⟨g0, 4, 3, 5, .q, 0, .d, 0, 0⟩ false) (scalars [(3, 2 ^ 40), (5, 16)] base)).map
    (fun t => (t.frame.isSome, t.pc.toNat)) = some (false, 0x10008) := by decide +kernel

/-- 04 R78: FMA of 1.5, 2.0 and −1.0. -/
theorem test_fma : (afterExec (.fma ⟨g0, 4, 5, 6, .dyn, .f32⟩ 7 .none) (scalars [(5, 0x3FC00000), (6, 0x40000000), (7, 0xBF800000)] base)).map
    (fun t => (t.rn 4, t.regs.fpflags.toNat)) = some (0x40000000, 0) := by decide +kernel

/-- 06 R121: VLDFF from 12 bytes before an unmapped page completes with s5 = 3. -/
theorem test_vldff : scalarAfter (.vldff ⟨g0, 2, 3, 5, .g, 0, .w, 0, 0⟩) (vectors 64 0 2 (scalars [(3, 0x30000 - 12)] (paged base))) 5 = some 3 := by
  decide +kernel

/-- 02 R47, R49: the products −128, −256, 0, −128, 384, 0, 128 and −256 at the scale 2^−7 give −2.0. -/
theorem test_block_sum : (fpCell .acc 0 ([-128, -256, 0, -128, 384, 0, 128, -256].map fun (x : Int) => (FVal.fin (decide (x < 0)) x.natAbs 0))
    (List.replicate 8 (.fin false 1 0)) true 120 127).1 = 0xC0000000 := by decide +kernel

/-! ## Witnesses: states and operands that meet the hypotheses of the statements, clause by clause -/

/-- Whether the strand at the focus is admitted with `i`, and what it then is meets `f`. -/
def atU (i : Instr) (s : State) (f : Strand → Bool := fun _ => true) : Bool :=
  match s.strand? s.focus with
  | none => false
  | some t => encOk i t && refsOk i t && (elementGuarded i || t.guardBit (guardOf i) 0) && privOk i t &&
      (match takeAll s t (chanReads i t) with | .ready u => f u | _ => false)

/-- What `atU` says. -/
theorem admits_of_atU {i : Instr} {s : State} {f : Strand → Bool} (h : atU i s f = true) :
    ∃ t u, Admits i s t u ∧ f u = true := by
  unfold atU at h
  split at h
  · cases h
  · rename_i t ht
    simp only [Bool.and_eq_true, Bool.or_eq_true] at h
    obtain ⟨⟨⟨⟨h1, h2⟩, h3⟩, h4⟩, h5⟩ := h
    split at h5
    · rename_i u hu
      exact ⟨t, u, ⟨ht, h1, h2, h3, h4, hu⟩, h5⟩
    · cases h5

/-- Every instruction of a list is admitted. -/
def allRun (l : List Instr) (s : State) : Bool := l.all fun i => atU i s
def every (l : List Bool) : Bool := l.all id

/-- Whether checks pass, and whether they fail. -/
def okB {α β γ : Type} (x : α × Except β γ) : Bool := match x.2 with | .ok _ => true | .error _ => false
def errB {α β γ : Type} (x : α × Except β γ) : Bool := !okB x

/-- The strand in slot 0 of core 0 meets `f`. -/
def strandHas (s : State) (f : Strand → Bool) : Bool := (s.strand? slot0).any f

/-! ### Scalar, predicate and control -/

theorem witness_ScalarWordResults : every [
    allRun [.add alu, .sub alu, .mul alu, .and alu, .or alu, .xor alu, .shl alu, .shr alu, .sra alu] base,
    allRun [.add { alu with w := true }, .sra { alu with w := true }] base,
    allRun [.add { alu with sat := true }, .sub { alu with sat := true, u := true }] base] = true := by decide +kernel

theorem witness_ScalarSignedResults : every [
    allRun [.mulh { alu with u := true }, .div alu, .rem { alu with w := true }, .min alu, .max alu] base] = true := by decide +kernel

theorem witness_ScalarImmediateResults : every [
    (base.strand? base.focus).isSome,
    allRun [.addi g0 5 6 true (2 ^ 32 - 1), .logi g0 5 6 .and true 1, .logi g0 5 6 .or false 1, .logi g0 5 6 .xor false 1,
      .movi g0 5 false 0, .movhi g0 5 6 7, .addpc g0 5 8, .sel g0 5 6 7 15 true, .extr g0 5 6 false 60 4, .extr g0 5 6 true 0 64,
      .insr g0 5 6 63 1, .shi g0 5 6 .shl true 31, .shi g0 5 6 .shr false 63, .shi g0 5 6 .sra true 31,
      .shi g0 5 6 .ror true 31] base,
    (strandIs (fun t => { t with decls := { t.decls with s := 63 } }) base |> fun s => (s.strand? s.focus).any fun t =>
      decide (t.decls.s ≤ 63))] = true := by decide +kernel

theorem witness_CountsAndCompares : every [
    allRun [.clz g0 3 4 true, .ctz g0 3 4 false, .popc g0 63 63 true, .cmp g0 2 4 5 .ltu true .set, .cmp g0 2 4 5 .geu false .and,
      .cmp g0 15 4 5 .lt true .or, .cmpi g0 2 4 .eq true (2 ^ 32 - 1)] (vectors 64 0 2 base)] = true := by decide +kernel

theorem witness_ScalarFloatResults : every [
    allRun [.fadd fpf, .fsub { fpf with fmt := .f16 }, .fmul { fpf with rnd := .rdn }, .fdiv { fpf with fmt := .bf16 },
      .fma fpf 8 .none, .fsqrt g0 5 6 .dyn .f32, .fmin g0 5 6 7 .f32, .fmax g0 5 6 7 .f16] base] = true := by decide +kernel

theorem witness_ScalarFloatOther : every [
    allRun [.fcmp g0 2 4 5 .f32 .lt .set, .fcvt g0 4 5 .f32 .e4m3 .dyn, .fclass g0 4 5 .f16, .fsgn g0 4 5 6 .neg .f32] base,
    ((fpFmt .f32).read 0x7FC00001).isNan, ((fpFmt .f32).read 0x7F800001).isNan] = true := by decide +kernel

theorem witness_PredicateResults : every [
    allRun [.plog g0 1 2 3 .nand, .pset g0 1 4 .first (2 ^ 32 - 1), .pset g0 1 0 .all 0, .pset g0 1 0 .none 0, .pmov g0 1 2 0 .pp,
      .pmov g0 4 2 3 .sp, .pmov g0 1 2 3 .ps, .pcount g0 5 1 true, .pfirst g0 5 1 true false] (vectors 36 0 2 base),
    atU (.pfirst g0 5 1 false true) (predicate 1 (2 ^ 63) (vectors 64 0 2 base)) fun u => u.pbit 1 63 && !u.pbit 1 62] = true := by decide +kernel

theorem witness_BranchTargets : every [
    allRun [.nop g0, .br g0 .none (2 ^ 32 - 1), .brx g0 4 .none, .ret g0 4 .none, .call g0 1 .none 8, .callx g0 1 2 .none,
      .loop g0 9 .none 1] base,
    (immWord 8 <<< 3).toNat % 8 == 0, atU (.brx g0 2 .none) (scalars [(2, 4)] base) fun u => (u.rs 2).toNat % 8 != 0] = true := by decide +kernel

/-- The placed strand waits. -/
def waits (w : Wait) (s : State) : State := strandIs (fun t => { t with wait := some w }) s

theorem witness_StrandControl : every [
    allRun [.yield g0, .waitp g0 4] base, atU (.exit g0) base fun u => u.refusals.isEmpty,
    strandHas (waits (.waitp 0) base) fun t => t.wait.isSome && base.waitMoves { t with wait := none } && decide (0 ≤ base.now slot0),
    (let s := waits .exit base; strandHas s fun t => s.waitMoves t && t.pending.isEmpty && !s.hasWork t)] = true := by decide +kernel

theorem witness_DeliberateTraps : every [
    atU (.trap g0 (2 ^ 32 - 1)) base fun u => !u.super, atU (.svc g0 3) base fun u => !u.super, atU (.brk g0 0) base fun u => !u.super,
    strandHas (super base) fun t => t.super] = true := by decide +kernel

/-- A frame of a trap, and a parked strand in slot 1 of core 0 of die 0. -/
def framed (resume : Nat) : Frame := ⟨0x0C, 0x10000, 0, 7, resume, false, none, none, false⟩
def parked (resume : Nat) (s : State) : State :=
  match s.strand? slot0 with
  | none => s
  | some t => { s.putStrand { t with at_ := ⟨0, 0, 1⟩, frame := some (framed resume) } with dies := [{ Die.reset 0 with park := [⟨0, 0, 1⟩] }] }

def releasable (resume : Nat) : Bool :=
  let s := parked resume (super (scalars [(4, 1)] base))
  atU (.tret g0 4) s fun u => (s.strand? ⟨u.at_.die, field (u.rn 4) 8 5, field (u.rn 4) 0 4⟩).any fun v =>
    v.at_ != s.focus && v.frame.isSome && v.pending.isEmpty

theorem witness_ReturnFromTrap : every [
    releasable 0, releasable 1, releasable 2, atU (.tret g0 4) (super base) fun u => u.frame.isNone] = true := by decide +kernel

/-- The strand of slot 1 is parked, FSEL names it, and the frame registers are written from s4. -/
def parkedRegs (v : Nat) (f : Strand → Bool) : Bool :=
  let s := parked 1 (super (scalars [(4, v)] base))
  let s := s.putDie { s.die 0 with fsel := 1 }
  allRun [.setsr g0 4 0x102, .setsr g0 4 0x105, .setsr g0 4 0x140, .setsr g0 4 0x17F, .getsr g0 4 0x10C] s &&
    atU (.setsr g0 4 0x102) s f && (s.strand? ⟨0, 0, 1⟩).any fun x => x.frame == some (framed 1)

theorem witness_SystemRegisterAccess : every [
    allRun [.getsr g0 4 0, .getsr g0 4 1, .getsr g0 4 2, .getsr g0 4 0x10, .getsr g0 4 0x11, .getsr g0 4 0x12, .getsr g0 4 0x13,
      .getsr g0 4 0x14, .getsr g0 4 0x15, .getsr g0 4 0x18, .getsr g0 4 0x20, .getsr g0 4 0x40, .getsr g0 4 0x41, .setsr g0 5 0x40,
      .setsr g0 5 0x41] base,
    allRun [.getsr g0 4 0x100, .setsr g0 5 0x100] (super base),
    (let s := parked 1 (super base)
     let s := s.putDie { s.die 0 with fsel := 1 }
     allRun [.getsr g0 4 0x101, .getsr g0 4 0x102, .getsr g0 4 0x103, .getsr g0 4 0x104, .getsr g0 4 0x140, .getsr g0 4 0x17F] s &&
       (s.strand? ⟨0, 0, 1⟩).any fun v => v.frame.isSome),
    allRun [.getsr g0 4 0x101, .getsr g0 4 0x105] (super base),
    parkedRegs 8 fun u => u.rn 4 % 8 == 0 && u.rn 4 % 4 == 0, parkedRegs 7 fun u => u.rn 4 % 8 != 0 && u.rn 4 % 4 == 3,
    parkedRegs 2 fun u => u.rn 4 % 4 == 2 && !(framed 1).waited,
    isFrameSr 0x102 && isFrameSr 0x17F && allRun [.setsr g0 5 0x102, .setsr g0 5 0x17F] (super base),
    allRun [.setsr g0 5 0x000, .setsr g0 5 0x110, .setsr g0 5 0x120] (super base), !srDefined 3 && atU (.setsr g0 5 3) base,
    strandHas base fun t => !t.super && refsOk (.setsr g0 5 0x100) t && t.guardBit g0 0] = true := by decide +kernel

/-- The runtime strand of die 0 stands at a word. -/
def runtimeAt (w : Nat) : State :=
  let s := State.reset.placeWord w
  match s.strand? slot0 with
  | none => s
  | some t => { s with strands := [{ t with at_ := ⟨0, 0, 15⟩, super := true }], focus := ⟨0, 0, 15⟩ }

theorem witness_ParkListPop : every [
    atU (.getsr g0 4 0x110) (super base) fun u => ((super base).die u.at_.die).park.isEmpty,
    atU (.getsr g0 4 0x110) (parked 1 (super base)) fun u => ((parked 1 (super base)).die u.at_.die).park.head? == some ⟨0, 0, 1⟩,
    (let s := runtimeAt 0x0380_2002_2000_0000
     (s.strand? ⟨0, 0, 15⟩).any fun t => t.super && s.canIssue t && (fetchDecode s t).2 == .instr (.getsr g0 4 0x110))] = true := by
  decide +kernel

/-- A launch of world 0 without stages. -/
def demoLaunch : Launch := ⟨1, 0, 0, 0, 0, 0, 0, 0, 0, 100, 0, none, 0, 0, 0, 0, 0, 0x40, false, [], 1, [], Vector.replicate 4 none,
  Vector.replicate 16 ⟨0, 0, 0⟩, false, [], []⟩

theorem witness_SystemInstructions : every [
    allRun [.energy g0 4 0, .energy g0 4 1, .energy g0 4 2] base,
    allRun [.tlbinv g0 5 0, .tlbinv g0 5 1, .tlbinv g0 5 2, .plateinv g0 5 0, .plateinv g0 5 1, .plateinv g0 5 2] (super base),
    atU (.tlbinv g0 5 2) (super base) fun u => !(super base).owesPkg u,
    (let s := { parked 1 (super (scalars [(4, 1)] base)) with launches := [demoLaunch] }
     let s := s.mapStrands fun t => if t.at_ == slot0 then t else { t with super := false }
     allRun [.chkpt g0 4 0, .chkpt g0 4 1, .chkpt g0 4 2, .chkpt g0 4 3] s && (s.strand? ⟨0, 0, 1⟩).any fun v => !v.super &&
       (s.stage? v.inst).any (fun st => st.state == .running) && (s.launch? v.launch).isSome),
    (let s := super (scalars [(4, 1)] base); atU (.chkpt g0 4 3) s && (s.strand? ⟨0, 0, 1⟩).isNone)] = true := by decide +kernel
/-! ### Memory -/

/-- World 0 with page tables that map the first 64 GiB onto themselves, readable, writable and executable. -/
def tables (s : State) : State := { s with
  worlds := [⟨0, ⟨0, 0, Vector.replicate 8 0⟩, 0x100000, [], 0, 0, 0, [], []⟩]
  mem := memSetBytes (memSetBytes s.mem 0x100000 (leBytes 8 0x110001)) 0x110000 (leBytes 8 0x80F) }

/-- A checked access, as far as a witness needs it. -/
def passes (i : Instr) (k : CheckKind) (sp : Space) (n : Nat) (ea : Strand → Nat) (s : State) (f : Strand → Bool := fun _ => true) : Bool :=
  atU i s fun u => match (checkAccess s u.party k sp (ea u) n).2 with
    | .ok ls => (badLogged u ls).isNone && f u
    | .error _ => false
/-- Nothing that an access must wait for is open. -/
def free (x : MemForm) (ord : Order) (s : State) (u : Strand) : Bool := !s.owesAccess u x ord

/-- The page of the tests, with its address in s2. -/
def addressed : State := scalars [(2, 0x20000), (3, 0x40), (6, 0x11), (7, 0x99)] (paged base)
def memL : MemForm := { mem with sp := .l, a := 3 }
def memQ : MemForm := { mem with sp := .q, a := 3 }
def casf : MemForm := ⟨g0, 8, 2, 0, .g, 0, .d, 0, 0⟩
/-- An empty item held by the placed strand. -/
def item0 : Held := ⟨⟨0, none, 0⟩, 0, WriteLog.empty⟩
def holding (s : State) : State := strandIs (fun t => { t with held := some item0 }) s

theorem witness_LoadResults : every [
    passes (.ld mem .plain true) checkLoad .g 4 (ea mem) addressed (free mem .plain addressed),
    passes (.ld mem .sc false) checkLoad .g 4 (ea mem) addressed (free mem .sc addressed),
    passes (.ld { memQ with sz := .qd, d := 8 } .plain false) checkLoad .q 16 (ea memQ) addressed (free memQ .plain addressed),
    passes (.ld memL .plain false) checkLoad .l 4 (ea memL) addressed (free memL .plain addressed),
    passes (.lda mem .pkg) checkLoad .g 4 (ea mem) addressed (free mem .plain addressed)] = true := by decide +kernel

theorem witness_StoreResults : every [
    passes (.st mem .plain) checkStore .g 4 (ea mem) addressed fun u => u.held.isNone && u.refusals.isEmpty && free mem .plain addressed u &&
      !addressed.strelOwes u .g .pod,
    passes (.st memQ .plain) checkStore .q 4 (ea memQ) addressed fun u => free memQ .plain addressed u && !addressed.strelOwes u .q .die,
    passes (.st mem .plain) checkStore .g 4 (ea mem) (holding addressed) fun u => u.held.any fun h =>
      decide ((h.log.put [] (storedBytes u mem.d 4)).used ≤ 4096) && free mem .plain (holding addressed) u &&
        !(holding addressed).strelOwes u .g .pod && u.refusals.isEmpty,
    passes (.strel mem .pod) checkStore .g 4 (ea mem) addressed fun u => !addressed.strelOwes u .g .pod && u.refusals.isEmpty &&
      free mem .plain addressed u] = true := by
  decide +kernel

def hits (s : State) (va : Nat) : Bool := ((s.core core0).tlb ++ (s.die 0).tlb).any fun e => e.covers 0 va

theorem witness_StoreFrame : every [
    passes (.st mem .rel) checkStore .g 4 (ea mem) addressed fun u => u.held.isNone && free mem .rel addressed u &&
      (nextOf (exec (.st mem .rel) addressed)).isSome,
    memWf (checkAccess addressed ⟨core0, 0, 1⟩ checkStore .g 0x20000 4).1.mem, memWf addressed.mem && hits addressed 0x20000,
    memWf (tables base).mem && !hits (tables base) 0x20000 && (match walkFrom (tables base) 0 0x20000 4 0 ((tables base).root 0) with
      | .leaf .. => true | .fault .. => false),
    memWf base.mem && !hits base 0x20000 && (match walkFrom base 0 0x20000 4 0 (base.root 0) with
      | .leaf .. => false | .fault .. => true)] = true := by decide +kernel

theorem witness_AtomicResults : every [
    passes (.atom mem .plain .add) checkAtomic .g 4 (ea0 mem) addressed fun u => decide (ea0 mem u % 4 = 0) && free mem .plain addressed u,
    passes (.cas casf .sc) checkAtomic .g 8 (ea0 casf) addressed fun u => decide (ea0 casf u % 8 = 0) && free casf .sc addressed u,
    passes (.cas { casf with sz := .qd } .plain) checkAtomic .g 16 (ea0 casf) addressed fun u => decide (ea0 casf u % 16 = 0) && free casf .plain addressed u,
    atU (.atom mem .plain .add) (scalars [(2, 0x20002)] (paged base)) fun u => decide (ea0 mem u % 4 ≠ 0) && free mem .plain base u,
    atU (.cas casf .plain) (scalars [(2, 0x20004)] (paged base)) fun u => decide (ea0 casf u % 8 ≠ 0) &&
      free casf .plain base u] = true := by decide +kernel

/-- The leaf of an address, as the pins use it. -/
def policyAt (s : State) (va : Nat) : Nat := match (translate s core0 0 va).2 with | .leaf l _ => ptePolicy l.pte | .fault .. => 9
/-- A page with CPOL 1, and one of its lines pinned. -/
def pinnable (pinned : Bool) : State :=
  let s := scalars [(2, 0x30000)] base
  let s := s.putCore { s.core core0 with tlb := [⟨0, 0x30000, 65536, 0x30000, 1 + 2 + 4 + 256 + 0x30000, 3⟩] }
  if pinned then s.putDie { Die.reset 0 with pins := [⟨0x30000 / 64, 0, 1, false⟩] } else s
def pinf : MemForm := { mem with d := 2 }

/-- PIN of a line that may be pinned beside the pins of the die. -/
def plainPin (l : List Pin) (f : State → Strand → Bool) : Bool :=
  let s := tables (addressed.putDie { Die.reset 0 with pins := l })
  passes (.pin { pinf with sz := .b }) checkProbe .g 1 (ea pinf) s fun u => ea pinf u == 0x20000 && policyAt s 0x20000 != 1 &&
    (l.all fun y => !(y.line == 0x20000 / 64 && y.world == u.world && y.launch == u.launch)) && f s u

theorem witness_FencesAndPins : every [
    atU (.fence g0 .rel .pod 15) base fun u => u.refusals.isEmpty && !base.owesAt u .pod 15, allRun [.fence g0 .full .pkg 0] base,
    atU (.fence g0 .full .pod 0) (strandIs (fun t => { t with refusals := [(0x40, 7)] }) base) fun u => u.refusals == [(0x40, 7)],
    allRun [.pref { mem with d := 0, sz := .b }] base, atU (.sbar g0 15) base fun u => !u.owesStores 15,
    passes (.pin { pinf with sz := .b }) checkProbe .g 1 (ea pinf) (pinnable false) fun u => ((pinnable false).die u.at_.die).pins.isEmpty &&
      policyAt (pinnable false) (ea pinf u) == 1,
    passes (.pin { pinf with sz := .b }) checkProbe .g 1 (ea pinf) (pinnable true) fun u => ((pinnable true).die u.at_.die).pins.any fun y =>
      y.line == ea pinf u / 64 && y.world == u.world && y.launch == u.launch && policyAt (pinnable true) (ea pinf u) == 1,
    plainPin [⟨0x20000 / 64, 0, 2, false⟩] fun s u => ((s.die u.at_.die).pinnedLines 0).contains (0x20000 / 64),
    plainPin [] fun s u => !((s.die u.at_.die).pinnedLines 0).contains (0x20000 / 64) && s.pinQuota 0 == 0,
    atU (.unpin { mem with d := 0, sz := .b }) (pinnable true) fun u => decide (ea mem u < 2 ^ 56) && policyAt (pinnable true) (ea mem u) == 1,
    atU (.unpin ⟨g0, 0, 2, 9, .d, 0, .b, 0, 0⟩) base fun u => decide (ea mem u < 2 ^ 56)] = true := by decide +kernel

/-- Device 5 of a pod: pod world 3 is world 0 here and device 9 is a member; port 2 leads there. -/
def pod (s : State) : State := { s with fabric := { s.fabric with
  member := some 5, podId := 7, worlds := [⟨3, 0, [5, 9]⟩],
  groups := [⟨3, 9, 9, [5, 9]⟩], routes := [⟨9, true, 2, 0, 0, []⟩],
  ports := [{ Port.reset 2 with waves := [⟨1, .tx, .up, 0, 0, 0, 0⟩, ⟨2, .tx, .up, 0, 0, 0, 0⟩] }] } }
def memD : MemForm := ⟨g0, 4, 2, 9, .d, 1, .d, 0, 0⟩
def remote : State := pod (scalars [(2, 0x20000), (9, 9)] base)
def podOk (s : State) (u : Strand) (ea n : Nat) : Bool :=
  (match checkPod s u 9 ea n with | .ok _ => true | .error _ => false) && !s.unreachableTo 9 && !s.postedBy u &&
    free memD .sc s u && free memD .plain s u && u.again.isNone
def away (w : Wait) (s : State) : Bool := strandHas (waits w s) fun t => t.wait.isSome

/-- A reply of device 9 to device 5. -/
def reply9 (tag status : Nat) : RemoteReply := ⟨9, 5, tag, status, if status == 0 then List.replicate 8 1 else []⟩

theorem witness_RemoteWaits : every [
    atU (.ld memD .plain true) remote fun u => devOf memD u == 9 && podOk remote u (ea memD u) 8,
    atU (.lda memD .pod) remote fun u => podOk remote u (ea memD u) 8,
    atU (.atom memD .plain .add) remote fun u => podOk remote u (ea0 memD u) 8 && decide (ea0 memD u % 8 = 0),
    atU (.cas memD .plain) remote fun u => podOk remote u (ea0 memD u) 8 && decide (ea0 memD u % 8 = 0),
    atU (.pin { memD with d := 2, sz := .b }) remote fun u => !remote.unreachableTo 9 && free memD .plain remote u &&
      u.again.isNone && match checkMember remote u 9 (ea memD u) 1 with
      | .ok _ => true | .error _ => false,
    (let s := { waits (.remote 77 9 [0x20000] (.scalar 4 8 true true) [77] []) remote with
       fabric := { remote.fabric with repliesIn := [reply9 77 0, reply9 77 1, reply9 77 255] } }
     strandHas s fun t => s.issuerOf 77 == some t && ([reply9 77 0, reply9 77 1, reply9 77 255].all fun y => (t.refusedBy y).isEmpty &&
       s.fabric.repliesIn.contains y) && s.deviceId == 5 && !s.fabric.repliesIn.contains (reply9 77 3)),
    (let s := { waits (.remote 76 9 [0x20000] (.scalar 4 8 true true) [76] []) remote with
       fabric := { remote.fabric with repliesIn := [reply9 77 0] } }
     strandHas s fun t => s.issuerOf 77 == some t && (t.refusedBy (reply9 77 0)).isEmpty && s.fabric.repliesIn.contains (reply9 77 0))] = true := by
  decide +kernel

/-- MCAST in D gets as far as its wait for open stores. -/
def multicast (s : State) (f : Strand → Bool) : Bool := atU (.mcast memD false) s fun u => u.held.isNone && (outside56 (ea0 memD u) 8).isNone &&
  s.fabric.member.isSome && ((s.podWorldOf u.world).any fun p => s.groupMembers p 9 == some [5, 9] &&
    (s.groupRoot p 9).any fun d => (s.stoppedHop d).isNone) && f u

theorem witness_RemoteStores : every [
    atU (.st memD .plain) remote fun u => podOk remote u (ea memD u) 8 && u.refusals.isEmpty && u.held.isNone && u.countRoom 1 9 1,
    (let s := strandIs (fun t => { t with counted := [(1, 9, 65535)], unacked := [⟨9, 1, 0x40, 77, none⟩] }) remote
     atU (.st memD .plain) s fun u => (checkPod s u 9 (ea memD u) 8 matches .ok _) && !s.unreachableTo 9 && !s.postedBy u && free memD .plain s u &&
       u.refusals.isEmpty && u.held.isNone && !u.countRoom 1 9 1 && u.countRoom 2 9 1),
    (let s := strandIs (fun t => { t with counted := [(1, 9, 65535)] }) remote
     atU (.st memD .plain) s fun u => u.countRoom 1 9 1 && u.countOf 1 9 == 65535),
    (let s := holding (tables (pod (scalars [(2, 0x20000), (9, 5)] base)))
     atU (.st memD .plain) s fun u => devOf memD u == 5 && s.fabric.member == some 5 && (checkPod s u 5 (ea memD u) 8 matches .ok _) && !s.unreachableTo 5 &&
       free memD .plain s u && !s.postedBy u && u.refusals.isEmpty && okB (s.targetCheck u.world checkStore (ea memD u) 8) &&
       u.held.any fun h => decide ((h.log.put [] (storedBytes u memD.d 8)).used ≤ 4096)),
    atU (.st memD .plain) (holding remote) fun u => podOk remote u (ea memD u) 8 && u.refusals.isEmpty && remote.fabric.member != some 9 && u.held.any fun h =>
      decide (({ h.log with sectors := addSectors h.log.sectors (podSectors 9 (ea memD u) 8) } : WriteLog).used ≤ 4096),
    atU (.strel memD .pod) remote fun u => podOk remote u (ea memD u) 8 && u.refusals.isEmpty,
    (let s := scalars [(3, 0x40), (5, 15)] base
     let x : MemForm := ⟨g0, 4, 3, 5, .q, 0, .d, 0, 0⟩
     atU (.mcast x true) s fun u => !s.owesAt u (spaceScope .q) allStreams &&
       (s.mcastQuad u (u.rn 5 % 16) (ea0 x u) (storedBytes u 4 8) [0, 1, 2, 3]).2.isNone &&
       [0, 1, 2, 3].all fun k => memWf (s.core ⟨0, k⟩).spad),
    atU (.mcast ⟨g0, 4, 3, 5, .q, 0, .d, 0, 0⟩ false) (scalars [(3, 2 ^ 40), (5, 16)] base) fun u => u.rn 5 % 16 == 0,
    multicast remote fun u => !(([5, 9] : List Nat).any u.owesTo),
    multicast (strandIs (fun t => { t with unacked := [⟨9, 1, 0x40, 77, none⟩] }) remote) fun u => [5, 9].any u.owesTo] = true := by decide +kernel

/-! ### Vector instructions -/

def v32 : State := vectors 8 0 2 base
def vfx : VecForm := { vec with xb := true }

theorem witness_ElementLoop : every [
    allRun [.vsetl g0 4 5 3 3 0, .vsetl g0 63 0 0 0 (2 ^ 32 - 1)] base,
    (v32.strand? slot0).any fun u => decide (31 + u.groupOf 32 ≤ 32 ∧ 32 * u.vlmax = 2048 * u.groupOf 32)] = true := by decide +kernel

theorem witness_VectorIntegerResults : every [
    allRun [.vadd vec, .vsub vfx, .vmul vec, .vmulh vec true, .vmin vec false, .vmax vec true, .vand vec, .vor vec, .vxor vec, .vshl vec,
      .vshr vec, .vsra vec, .vadds vec true, .vsubs vec false, .vdiv vec true, .vrem vec false, .vmac vec] v32] = true := by decide +kernel

theorem witness_VectorMoves : every [
    allRun [.vcmp vec .ltu, .vmerge vec 4, .vnarrow un .trunc, .vnarrow un .ssat, .vnarrow un .usat, .vwiden un true, .vid g0 4 true true,
      .vslideup un 5, .vslidedn un 5, .vperm vec, .vcompress 6 2 3 false, .vbcast g0 4 5 false true, .vmvsv g0 4 6 5, .vmvvs g0 5 2 6 true,
      .viota un, .vmv un] v32] = true := by decide +kernel

theorem witness_VectorReductions : every [
    allRun [.vredsum red true, .vredmax red .u false, .vredmin red .s false, .vargmax g0 5 2 .s false, .vfredsum red false .rdn,
      .vredmax red .f false, .vredmin red .f false, .vmxq g0 4 2 3 true false .dyn] eight,
    atU (.vredmax red .s false) eight fun u => !(reduced red u).isEmpty, atU (.vargmax g0 5 2 .u false) eight fun u => !(u.activeList g0).isEmpty,
    atU (.vargmax g0 5 2 .f false) eight fun u => !(u.activeList g0).isEmpty && !(fp32.read (u.elems 2 32 7)).isNan,
    atU (.vargmax g0 5 2 .f false) (elements 2 32 [0x7FC00000] (vectors 1 0 2 base)) fun u => (u.activeList g0).all fun i => (fp32.read (u.elems 2 32 i)).isNan,
    atU (.vargmax g0 5 2 .f false) (vectors 0 0 2 base) fun u => (u.activeList g0).isEmpty,
    atU (.vredmax red .s false) (vectors 0 0 2 base) fun u => (reduced red u).isEmpty,
    atU (.vargmax g0 5 2 .u false) (vectors 0 0 2 base) fun u => (u.activeList g0).isEmpty] = true := by decide +kernel

theorem witness_VectorFloatResults : every [
    allRun [.vfadd vec false .dyn, .vfsub vfx false .rup, .vfmul vec false .dyn, .vfdiv vec false .dyn, .vfma vec 7 .none false .dyn,
      .vfmin vec false, .vfmax vec false, .vfsgn vec .neg false, .vfcmp vec .lt false, .vfsqrt un false .dyn, .vfexp2 un false .dyn,
      .vflog2 un false .dyn, .vfclass un false, .vfcvt un .f32 .i32 .dyn] v32,
    allRun [.vfadd vec true .dyn, .vfadd vec false .dyn] (vectors 8 0 1 base)] = true := by decide +kernel

def vmem : MemForm := { mem with d := 4, sz := .w }
/-- Active elements, in range of the page of the tests, and one element behind its end. -/
def vl2 (a : Nat) : State := vectors 2 0 2 (scalars [(2, a), (5, 4)] (paged base))
/-- How a list of element loads ends: no element fails, or which. -/
def endsWell (x : MemForm) (s : State) (addr : Strand → Nat → Nat) (l : Strand → List Nat) (u : Strand) : Bool :=
  (loadElems u x.sp (szBytes x.sz) (addr u) (l u) s).2.2.isNone
def failsAt (x : MemForm) (s : State) (addr : Strand → Nat → Nat) (l : Strand → List Nat) (u : Strand) (k : Nat) : Bool :=
  match (loadElems u x.sp (szBytes x.sz) (addr u) (l u) s).2.2 with | some (j, e) => j == k && e.cause == causePage | none => false
def vact (u : Strand) : List Nat := u.activeList g0
def vres (u : Strand) : List Nat := u.resumeList g0

theorem witness_VectorLoads : every [
    atU (.vld vmem) (vl2 0x20000) (endsWell vmem (vl2 0x20000) (unitAddr vmem) vact),
    atU (.vld vmem) (vl2 0x2FFFC) fun u => failsAt vmem (vl2 0x2FFFC) (unitAddr vmem) vact u 1,
    atU (.vlds { vmem with b := 5 }) (vl2 0x20000) (endsWell vmem (vl2 0x20000) (strideAddr { vmem with b := 5 }) vact),
    atU (.vldx { vmem with b := 6 }) (vl2 0x20000) (endsWell vmem (vl2 0x20000) (indexAddr { vmem with b := 6 }) vres),
    (let s := elements 6 32 [0, 4] (vl2 0x2FFFC)
     atU (.vldx { vmem with b := 6 }) s fun u =>
      failsAt vmem s (indexAddr { vmem with b := 6 }) vres u 1),
    atU (.vldff { vmem with b := 7 }) (vl2 0x20000) (endsWell vmem (vl2 0x20000) (unitAddr vmem) vres),
    atU (.vldff { vmem with b := 7 }) (vl2 0x2FFFC) fun u => failsAt vmem (vl2 0x2FFFC) (unitAddr vmem) vres u 1 &&
      (loadElems u .g 4 (unitAddr vmem u) (vres u) (vl2 0x2FFFC)).2.1.length == 1,
    (let s := { vl2 0x20000 with elemLimit := some 1 }
     atU (.vldx { vmem with b := 6 }) s fun u => (vres u).drop 1 == [1] &&
       endsWell vmem s (indexAddr { vmem with b := 6 }) (fun u => (vres u).take 1) u),
    atU (.vldb vmem) (vl2 0x20000) fun u => vact u == [0, 1] && (loadElems u .g 4 (fun _ => ea0 vmem u) [0] (vl2 0x20000)).2.2.isNone,
    atU (.vlds { vmem with b := 5 }) (vl2 0x2FFFC) fun u => failsAt vmem (vl2 0x2FFFC) (strideAddr { vmem with b := 5 }) vact u 1,
    atU (.vldff { vmem with b := 7 }) (vl2 0x30000) fun u => failsAt vmem (vl2 0x30000) (unitAddr vmem) vres u 0 && u.vprog.isNone,
    (let s := { vl2 0x2003C with poison := [0x20040 / 64] }
     atU (.vldff { vmem with b := 7 }) s fun u => match loadElems u .g 4 (unitAddr vmem u) (vres u) s with
      | (_, l, some (1, e)) => !l.isEmpty && e.cause == causePoison
      | _ => false),
    atU (.vldb vmem) (vl2 0x30000) fun u => vact u == [0, 1] && (loadElems u .g 4 (fun _ => ea0 vmem u) [0] (vl2 0x30000)).2.2.isSome,
    atU (.vldb vmem) (vectors 0 0 2 base) fun u => (vact u).isEmpty,
    (vl2 0x20000 |> fun s => strandHas s fun u => !s.owesSector u .g (devOf vmem u))] = true := by decide +kernel

/-- Two elements in space D of device 9, at an address. -/
def dmem : MemForm := ⟨g0, 4, 2, 9, .d, 1, .w, 0, 0⟩
def remote2 (a : Nat) : State := pod (vectors 2 0 2 (scalars [(2, a), (9, 9)] base))
def farVector (a : Nat) (f : Strand → Bool) : Bool := [Instr.vld dmem, .vldb dmem, .vst dmem].all fun i => atU i (remote2 a) fun u =>
  devOf dmem u == 9 && vact u == [0, 1] && !(remote2 a).owesSector u .d 9 && (remote2 a).fabric.member == some 5 && f u
def podAt (s : State) (u : Strand) (a : Nat) : Bool := match checkPod s u 9 a 4 with | .ok _ => true | .error _ => false
/-- The last reply of a wait for two elements comes, with a status, after one with another. -/
def vectorReply (a b : Nat) : Bool :=
  let s := waits (.remote 76 9 [0x20000, 0x20004] (.vector 4 32 [0, 1] false) [77] [(76, a, [1, 2, 3, 4])]) (remote2 0x20000)
  let s := { s with fabric := { s.fabric with repliesIn := [reply9 77 b] } }
  strandHas s fun t => s.issuerOf 77 == some t && (t.refusedBy (reply9 77 b)).isEmpty && s.fabric.repliesIn.contains (reply9 77 b)

theorem witness_VectorLoads_far : every [
    farVector 0x20000 fun u => ((remote2 0x20000).podTarget u.world 9).isSome && !(remote2 0x20000).unreachableTo 9 &&
      [0, 1].all fun i => podAt (remote2 0x20000) u (unitAddr dmem u i),
    farVector (2 ^ 56) fun u => !podAt (remote2 (2 ^ 56)) u (unitAddr dmem u 0),
    farVector (2 ^ 56 - 4) fun u => podAt (remote2 (2 ^ 56 - 4)) u (unitAddr dmem u 0) && !podAt (remote2 (2 ^ 56 - 4)) u (unitAddr dmem u 1),
    vectorReply 0 0, vectorReply 0 255, vectorReply 1 1] = true := by decide +kernel

def storesWell (s : State) (addr : Strand → Nat → Nat) (u : Strand) : Bool := okB (checkElems u .g 4 (addr u) (vact u) s) && u.held.isNone
def storeFails (s : State) (addr : Nat → Nat) (u : Strand) : Option Nat := ((storeEach .g 4 addr (u.elems 4 u.ew) (vres u) s u).2.2).map (·.1)

/-- The placed strand holds an item whose log is full. -/
def logFull (s : State) : State := strandIs (fun t => { t with held := some { item0 with log := { WriteLog.empty with
  sectors := List.range 4096 } } }) s
/-- Vector stores under an item that pass their checks. -/
def heldStores (s : State) (f : Held → Bool) : Bool := [(Instr.vst vmem, unitAddr vmem), (.vsts { vmem with b := 5 }, strideAddr { vmem with b := 5 })].all
  fun x => atU x.1 s fun u => okB (checkElems u .g 4 (x.2 u) (vact u) s) && u.held.any f
/-- A VST in space D that passes its checks. -/
def farStores (s : Nat → State) (f : Strand → Bool) : Bool := atU (.vst dmem) (s 0x20000) fun u => vact u == [0, 1] &&
  ((s 0x20000).podTarget u.world 9).isSome && !(s 0x20000).unreachableTo 9 && !(s 0x20000).owesSector u .d 9 && f u

theorem witness_VectorStores : every [
    atU (.vst vmem) (vl2 0x20000) (storesWell (vl2 0x20000) (unitAddr vmem)),
    atU (.vst vmem) (vl2 0x2FFFC) fun u => !storesWell (vl2 0x2FFFC) (unitAddr vmem) u,
    atU (.vsts { vmem with b := 5 }) (vl2 0x20000) (storesWell (vl2 0x20000) (strideAddr { vmem with b := 5 })),
    atU (.vstx { vmem with b := 6 }) (vl2 0x20000) fun u => storeFails (vl2 0x20000) (indexAddr { vmem with b := 6 } u) u == none,
    (let s := elements 6 32 [0, 4] (vl2 0x2FFFC)
     atU (.vstx { vmem with b := 6 }) s fun u =>
      storeFails s (indexAddr { vmem with b := 6 } u) u == some 1),
    (let s := { vl2 0x20000 with elemLimit := some 1 }
     atU (.vstx { vmem with b := 6 }) s fun u => (vres u).drop 1 == [1] &&
       (storeEach .g 4 (indexAddr { vmem with b := 6 } u) (u.elems 4 u.ew) ((vres u).take 1) s u).2.2.isNone),
    okB (checkAccess (vl2 0x20000) ⟨core0, 0, 1⟩ checkStore .g 0x20000 4),
    atU (.vsts { vmem with b := 5 }) (vl2 0x2FFFC) fun u => !storesWell (vl2 0x2FFFC) (strideAddr { vmem with b := 5 }) u,
    heldStores (holding (vl2 0x20000)) fun h => decide (h.log.used + 1 ≤ 4096),
    heldStores (logFull (vl2 0x20000)) fun h => decide (h.log.used = 4096),
    farStores remote2 fun u => u.held.isNone && u.countRoom 1 9 2,
    farStores (fun a => strandIs (fun t => { t with counted := [(1, 9, 65534)] }) (remote2 a)) fun u => u.countRoom 1 9 2 && u.countOf 1 9 == 65534,
    farStores (fun a => strandIs (fun t => { t with counted := [(1, 9, 65534)], unacked := [⟨9, 1, 0x40, 77, none⟩] }) (remote2 a)) fun u =>
      u.held.isNone && !u.countRoom 1 9 2,
    farStores (fun a => holding (remote2 a)) fun u => u.held.any fun h => h.log.sectors.isEmpty] = true := by decide +kernel
/-! ### Matrix and copy engines -/

/-- A bf16 descriptor in space G or L. -/
def tdOf (sp : Space) (rows cols : Nat) : Td := ⟨0, BitVec.ofNat 64 (16 + sp.code), BitVec.ofNat 64 rows, BitVec.ofNat 64 cols, 64, 0, 0⟩
/-- Descriptors and one valid handle, acc0, of 4 by 4 cells. -/
def tiles (a b : Td) (w : Nat) (s : State) : State := strandIs (fun t => { t with regs := { t.regs with
  td := (t.regs.td.setIfInBounds 1 a).setIfInBounds 2 b
  acc := t.regs.acc.setIfInBounds 0 (BitVec.ofNat 64 w) } }) s
def acc44 : Nat := accWord true false false 4 4 0
def tiled : State := tiles (tdOf .g 4 32) (tdOf .g 32 4) acc44 base
/-- A region of 32,768 cells of another strand. -/
def full : State := base.putCore { base.core core0 with regions := [⟨0, 32768, .handle ⟨0, 0, 3⟩ 1⟩] }

theorem witness_MatrixRegisters : every [
    allRun [.tdset g0 1 6 .scalebase (2 ^ 32 - 1), .tdget g0 5 15 .device, .kset g0 2 3 .raw 1, .kset g0 2 0 .uni 127,
      .kset g0 15 5 (.addr .q) 0, .mstat g0 5 0 true true] base,
    atU (.mstat g0 5 0 false false) tiled fun u => u.ops.isEmpty && u.spilled.isEmpty && accValid (u.racc 0),
    atU (.mstat g0 5 1 false false) tiled fun u => u.ops.isEmpty && u.spilled.isEmpty && !accValid (u.racc 1)] = true := by decide +kernel

/-- MACCLD into acc0 as descriptor 1 says. -/
def loads (s : State) (f : Strand → Bool) : Bool := atU (.maccld g0 0 1) s fun u => u.ops.isEmpty && !s.owesOwn u allStreams && f u

theorem witness_AccumulatorAllocation : every [
    (base.core core0).lowestBase slot0 0 32768 == some 0, (base.core core0).cells.isEmpty,
    atU (.mzero g0 15 5 6 true) (scalars [(5, 128), (6, 192)] base) fun u => u.ops.isEmpty && shapeOk (u.rn 5) (u.rn 6) &&
      (base.core core0).lowestBase slot0 15 (u.rn 5 * u.rn 6) == some 0,
    loads tiled fun u => shapeOk (u.rtd 1).rows.toNat (u.rtd 1).cols.toNat && (tiled.core core0).lowestBase slot0 0 128 == some 0,
    loads (tiles (tdOf .g 4 32) (tdOf .g 32 4) acc44 full) fun _ => (full.core core0).lowestBase slot0 0 128 == none,
    loads (tiles (tdOf .g 200 100) (tdOf .g 32 4) acc44 base) fun u => !shapeOk (u.rtd 1).rows.toNat (u.rtd 1).cols.toNat &&
      (base.core core0).lowestBase slot0 0 20000 != none,
    atU (.mzero g0 0 5 6 false) base fun u => u.rn 5 == 0 && u.rn 6 == 0,
    atU (.mzero g0 0 5 6 false) (scalars [(5, 129), (6, 1)] base) fun u => u.rn 5 != 0 && !shapeOk (u.rn 5) (u.rn 6),
    (let s := scalars [(5, 1), (6, 1)] full
     atU (.mzero g0 0 5 6 false) s fun u => shapeOk (u.rn 5) (u.rn 6) && (s.core core0).lowestBase slot0 0 1 == none)] = true := by
  decide +kernel

theorem witness_MatrixIssue : every [
    atU (.mma mmf) tiled fun u => mmaShape (u.racc 0) (u.rtd 1) (u.rtd 2) == none && u.spilled.isEmpty && u.ops.isEmpty && !tiled.owesOwn u allStreams,
    atU (.mma mmf) (tiles (tdOf .g 5 32) (tdOf .g 32 4) acc44 base) fun u => mmaShape (u.racc 0) (u.rtd 1) (u.rtd 2) == some 5,
    atU (.mmaq mmf 1) tiled fun u => mmaqShape (u.racc 0) (u.rtd 1) (u.rtd 2) 1 (u.at_.core % 4) == none && !tiled.teamHeld u 1 &&
      (u.teamOp 1 (u.mmaqCount 1 + 1)).isNone && teamSlots u.at_ 1 == [u.at_],
    atU (.maccst g0 1 0 true .bf16) (tiles (tdOf .g 4 4) (tdOf .g 32 4) acc44 base) fun u => accValid (u.racc 0) &&
      decide ((u.rtd 1).rows.toNat ≤ accRows (u.racc 0) ∧ (u.rtd 1).cols.toNat ≤ accCols (u.racc 0)) && u.held.isNone,
    allRun [.mcode g0 5 .l] base] = true := by decide +kernel

theorem witness_AccumulatorReads : every [
    (let s := scalars [(6, 3)] (vectors 4 0 2 tiled)
     atU (.maccv g0 1 0 6 true true false) s fun u => accValid (u.racc 0) && u.spilled.isEmpty && decide (u.rn 6 < accRows (u.racc 0))),
    (let s := scalars [(6, 4)] (vectors 4 0 2 tiled)
     atU (.maccv g0 1 0 6 true true false) s fun u => accValid (u.racc 0) && decide (accRows (u.racc 0) ≤ u.rn 6)),
    (let s := scalars [(6, 3)] (vectors 4 0 1 tiled)
     atU (.maccv g0 1 0 6 true true true) s fun u => accValid (u.racc 0) && u.spilled.isEmpty && u.ops.isEmpty && decide (u.rn 6 < accRows (u.racc 0)) &&
       !accInt (u.racc 0)),
    (let s := scalars [(6, 3)] (vectors 4 0 1 (tiles (tdOf .g 4 32) (tdOf .g 32 4) (accWord true false true 4 4 0) base))
     atU (.maccv g0 1 0 6 true true true) s fun u => accValid (u.racc 0) && accInt (u.racc 0)),
    (let s := scalars [(6, 4)] (vectors 4 0 1 tiled)
     atU (.maccv g0 1 0 6 true true true) s fun u => accValid (u.racc 0) && decide (accRows (u.racc 0) ≤ u.rn 6))] = true := by decide +kernel

/-- An outstanding operation on acc0 of the placed strand. -/
def opOf (kind : MatKind) (begun : Bool) : MatOp := ⟨0, kind, 0x10000, some 0, tdOf .g 4 32, tdOf .g 32 4, 0, 0, .acc, BitVec.allOnes 2048, 0,
  2 ^ 20, none, none, none, false, false, begun, 0, false, none, []⟩
def withOp (o : MatOp) (s : State) : State := strandIs (fun t => { t with ops := [o], nextOp := 1 }) s
/-- The placed core has run for `n` cycles. -/
def later (n : Nat) (s : State) : State := s.putCore { s.core core0 with cycle := BitVec.ofNat 64 n }
/-- The placed strand once more, in slot 0 of another core of its quad. -/
def twin (k : Nat) (f : MatOp → MatOp) (s : State) : State :=
  match s.strand? slot0 with
  | none => s
  | some t => s.putStrand { t with at_ := ⟨0, k, 0⟩, ops := t.ops.map f }
def team (f : MatOp → MatOp) : State := twin 1 f (withOp (opOf (.mmaq 3 1) false) tiled)
def opHas (s : State) (f : Strand → MatOp → Bool) : Bool := strandHas s fun t => (t.op? 0).any (f t)

theorem witness_MatrixOperations : every [
    (let s := withOp (opOf .mma false) tiled
     opHas s fun t o => s.mayBegin t o),
    (let s := team id
     opHas s fun t o => t.teamOp 3 1 == some o && (teamSlots slot0 3).contains slot0 && (s.party t o).length == 2 &&
       (s.party t o).all fun m => m.2.poison.isNone && s.mayBegin m.1 m.2),
    (let s := withOp { opOf (.mmaq 3 1) false with poison := some 7 } tiled
     opHas s fun t o => o.poison.isSome && s.mayBegin t o),
    (let s := team fun o => { o with mode := .ovw }
     opHas s fun t o => (s.party t o).any fun m => !o.agrees m.2),
    (let s := later (2 ^ 20 + 1) (withOp (opOf (.mmaq 3 1) false) tiled)
     opHas s fun t o => t.teamOp 3 1 == some o && !o.begun && o.poison.isNone && o.left.isNone && decide (o.due < s.now slot0) &&
       (teamSlots slot0 3).any fun j => (s.party t o).all fun m => m.1.at_ != j),
    (let s := withOp { opOf .mma true with progress := 1 } tiled
     opHas s fun t o => s.opFinished t o && o.endPoison.isNone && !o.underItem),
    (let s := withOp (opOf .mma true) tiled
     opHas s fun t o => s.unitReady t o && match s.tryUnit t o [] with | .stop _ (.trap x) => x.cause == causePage | _ => false),
    atU (.mwait g0 2 5) (withOp (opOf .mma true) (scalars [(5, 1)] base)) fun u => decide (u.ops.length ≤ u.rn 5),
    atU (.mwait g0 2 5) (withOp (opOf .mma true) base) fun u => decide (u.rn 5 < u.ops.length),
    (let s := waits (.mwait 2 0 0) base
     strandHas s fun t => t.frame.isNone && t.phase == .live && !s.engineHalted t && t.ops.isEmpty)] = true := by decide +kernel

/-- One begun operation on acc0 of the placed strand, with an operand in a space. -/
def unitOf (kind : MatKind) (td : Td) (s : State) : State := withOp { opOf kind true with a := td, b := tdOf .l 32 4 }
  (tiles td (tdOf .l 32 4) acc44 s)
def inUnit (s : State) (f : Strand → MatOp → Bool) : Bool := opHas s fun t o => s.unitReady t o && t.spilled.isEmpty && f t o
/-- What the operands of an MMA read, in their order. -/
def unitReads (s : State) (t : Strand) (o : MatOp) : Option (List RunData × State) :=
  let runs := fun (td : Td) (k : Word) (c : Bool) (n : Nat) => elemRuns td c n (opK o.a) o.progress ++ scaleRuns td k c n o.progress
  match readRuns t.party 0 [] .policy (runs o.a o.ka (contiguousA o.a) (opM o.a)) s with
  | (s1, .ok da) => match readRuns t.party 0 [] .policy (runs o.b o.kb (contiguousB o.b) (opN o.b)) s1 with
    | (s2, .ok db) => some (da ++ db, s2)
    | _ => none
  | _ => none
def spoiled (s : State) : State := s.putCore { s.core core0 with spadPoison := [0] }
def rowWrites (s : State) (t : Strand) (o : MatOp) : Bool := okB (checkWrites t.party 0 (if o.underItem then none else some []) false
  [⟨o.a.space, rowAddr o.a o.progress, List.replicate 8 0⟩] s)
def rowReads (s : State) (t : Strand) (r : Run) (use : GrottoUse) (bad : Bool) : Bool := match readRun s t.party 0 [] use r with
  | (_, .ok d) => d.poisoned == bad
  | _ => false
/-- MCODE has gathered an image. -/
def gathered (img : List Nat) : State := withOp { opOf (.mcode .l 0) true with handle := none, progress := 37, vals := img } base

theorem witness_MatrixOperations_units : every [
    (let s := unitOf .mma (tdOf .l 4 32) base
     inUnit s fun t o => (unitReads s t o).any fun r => r.1.all (fun d => !d.poisoned) && (r.2.core core0).cells.isEmpty &&
       decide (opN o.b ≤ accCols (t.racc 0))),
    (let s := spoiled (unitOf .mma (tdOf .l 4 32) base)
     inUnit s fun t o => (unitReads s t o).any fun r => r.1.any RunData.poisoned),
    (let s := unitOf (.maccst true .bf16) (tdOf .l 4 4) base
     inUnit s fun t o => rowWrites s t o && !o.underItem),
    (let s := holding (unitOf (.maccst true .bf16) { tdOf .g 4 4 with base := 0x20000 } (paged base))
     let s := strandIs (fun t => { t with ops := t.ops.map fun o => { o with underItem := true } }) s
     inUnit s fun t o => rowWrites s t o && o.underItem && !o.lost && t.held.isSome),
    (let s := unitOf .maccld (tdOf .l 4 4) base
     inUnit s fun t o => rowReads s t (runAt .l (rowAddr o.a 0) 8) .never false),
    (let s := spoiled (unitOf .maccld (tdOf .l 4 4) base)
     inUnit s fun t o => rowReads s t (runAt .l (rowAddr o.a 0) 8) .never true),
    (let s := withOp { opOf (.mcode .l 0) true with handle := none } base
     inUnit s fun t _ => rowReads s t (runAt .l 0 64) .policy false),
    (let img := 0 :: 1 :: List.replicate 2318 0
     opHas (gathered img) fun t o => (gathered img).opFinished t o && ((gathered img).stage? t.inst).isSome),
    (let img := List.replicate 2320 0
     !imageOk img && opHas (gathered img) fun t o => (gathered img).opFinished t o)] = true := by decide +kernel

theorem witness_MatrixOperations_image : imageOk (0 :: 1 :: List.replicate 2318 0) = true := by
  have h : ∀ n k, nth (List.replicate n 0) k 0 = 0 := by
    intro n k
    simp only [nth, List.getElem?_replicate]
    split <;> rfl
  have e : ∀ n, nth (0 :: 1 :: List.replicate 2318 0) (n + 2) 0 = 0 := fun n => h 2318 n
  simp only [imageOk, Bool.and_eq_true, List.all_eq_true]
  refine ⟨⟨rfl, fun x hx => ?_⟩, fun k _ => ?_⟩
  · rw [List.eq_of_mem_replicate (List.mem_of_mem_take (l := List.replicate 2318 0) hx)]; rfl
  · rw [show 16 + 9 * k + 8 = (9 * k + 22) + 2 by omega, e]; rfl

def cpSmall : CopyForm := { cpf with nm := true, map := 0 }
/-- s4, s5 and s6 of a copy: destination, source and length. -/
def copying (d a b c : Nat) : State := scalars [(4, d), (5, a), (6, b), (7, c)] (paged base)
def cpIdx : CopyForm := { cpf with c := 7 }
/-- The copy of an instruction fits in the log of the item, if there is one. -/
def copyFits (s : State) (o : Strand → CopyOp) (u : Strand) : Bool := u.held.all fun h => decide (h.log.used + (o u).sectors s ≤ logCapacity)

theorem witness_CopyIssue : every [
    atU (.cpy cpf .l .g) (copying 0 0x20000 262144 0) fun u => u.held.isNone && decide (u.rn 6 ≤ 262144) &&
      !rangesMeet u .l (u.rn 4, u.rn 6) .g (u.rn 5, u.rn 6),
    (let s := holding (copying 0x20000 0 64 0)
     atU (.cpy cpf .g .l) s fun u => u.held.isSome && copyFits s (fun u => s.newCopy u cpf .cpy .g .l (u.rn 4) (u.rn 5) (u.rn 6) 0) u),
    (let s := logFull (copying 0x20000 0 64 0)
     atU (.cpy cpf .g .l) s fun u => u.rn 6 == 64 && !rangesMeet u .g (u.rn 4, u.rn 6) .l (u.rn 5, u.rn 6) &&
       !copyFits s (fun u => s.newCopy u cpf .cpy .g .l (u.rn 4) (u.rn 5) (u.rn 6) 0) u),
    atU (.cpy cpSmall .l .g) (copying 0 0x20000 (2 ^ 30) 0) fun u => u.held.isNone && u.rn 6 == 2 ^ 30,
    atU (.cpy cpf .l .g) (copying 0 0x20000 0 0) fun u => u.rn 6 == 0,
    atU (.cpy cpf .l .g) (copying 0 0x20000 262145 0) fun u => u.rn 6 == 262145,
    atU (.cpy cpf .l .l) (copying 0 4 8 0) fun u => rangesMeet u .l (u.rn 4, u.rn 6) .l (u.rn 5, u.rn 6),
    atU (.cfill cpf .l) (copying 0 7 1 0) fun u => u.held.isNone && u.rn 6 == 1,
    atU (.cgather cpIdx .g) (copying 0 0x20000 0 (4096 + 64 * 65536)) fun u => u.held.isNone && u.rn 7 == 4096 + 64 * 65536,
    atU (.cscatter cpIdx .g) (copying 0x20000 0 0 (1 + 65536)) fun u => u.held.isNone && u.rn 7 == 1 + 65536,
    (let s := holding (copying 0x20000 0 0 (2 + 64 * 65536))
     atU (.cscatter cpIdx .g) s fun u => u.held.isSome &&
       copyFits s (fun u => s.newCopy u cpIdx (.cscatter (u.rn 6) 2 64) .g .l (u.rn 4) (u.rn 5) 128 0) u),
    atU (.cgather cpIdx .g) (copying 0 0 0 5) fun u => field (u.rn 7) 16 16 == 0,
    (let x : CopyForm := ⟨g0, 0, 1, 2, 3, true, 0, 0⟩
     let s := strandIs (fun t => { t with regs := { t.regs with td := t.regs.td.setIfInBounds 3 (tdOf .g 4 32) } })
       (tiles (tdOf .l 4 32) (tdOf .g 32 4) acc44 base)
     atU (.cpym x 4 .acc true) s fun u => mmaShape (u.racc 0) (u.rtd 1) (u.rtd 2) == none && u.held.isNone && u.spilled.isEmpty && u.ops.isEmpty &&
       decide (imageLen (tileImage (u.rtd 1) true) ≤ 2 ^ 30) && (u.rtd 3).rows == (u.rtd 1).rows && (u.rtd 3).cols == (u.rtd 1).cols &&
       (u.rtd 3).fmt == (u.rtd 1).fmt && (u.rtd 3).transpose == (u.rtd 1).transpose && !imagesMeet u (u.rtd 3) (u.rtd 1) true)] = true := by decide +kernel

/-- One copy from G to L in queue 1 of the placed strand, under landing map 5. -/
def copyOp (begun : Bool) (landed : List Nat) (poisoned : Bool) : CopyOp := ⟨0, [core0], 0, [], slot0, 1, 1, 0, 0x10000, .cpy, .l, .g, 0, 0x20000, 64, 0, some 5, 1, [],
  false, false, begun, landed, false, poisoned, false⟩
def withCopy (o : CopyOp) (s : State) : State := { s.putCore { s.core core0 with copies := [o] } with nextCopy := 1 }
def headHas (s : State) (f : CopyOp → Bool) : Bool := (s.core core0).id == core0 && ((s.core core0).headOp 1).any fun o => s.copyMoves core0 o && f o

/-- The copy with its source on device 9. -/
def farCopy (begun : Bool) (asks : List (Nat × Nat)) : CopyOp := { copyOp begun [] false with ssp := .d, dev := 9, asks := asks, asked := if begun then 64 else 0 }

theorem witness_CopyEngine : every [
    (let s := withCopy (copyOp false [] false) base
     headHas s fun o => !o.begun && !o.joins.any s.joinOpen && !s.asksFor o),
    (let s := withCopy (farCopy false []) (pod base)
     headHas s fun o => !o.begun && !o.joins.any s.joinOpen && s.asksFor o && o.srcDev == 9),
    (let s := withCopy (farCopy true [(0, 64)]) (pod base)
     let s := { s with fabric := { s.fabric with repliesIn := [⟨9, 5, copyTag 0 0, 7, []⟩] } }
     headHas s fun o => o.lowest != o.chunks && !o.underItem && s.someRefused o [] && (s.strand? o.owner).isSome),
    (let s := withCopy (farCopy true [(0, 64)]) (pod base)
     let s := { s with fabric := { s.fabric with repliesIn := [⟨9, 5, copyTag 0 0, 0, List.replicate 64 1⟩] } }
     headHas s fun o => o.mayLand 0 && okB (prepareChunk (s.ask o).1 o 0 [])),
    (let s := withCopy (copyOp true [] false) (paged base)
     headHas s fun o => o.mayLand 0 && !s.asksFor o && okB (prepareChunk s o 0 [])),
    (let s := withCopy (copyOp true [] false) base
     headHas s fun o => !s.asksFor o && errB (prepareChunk s o 0 [])),
    (let s := withCopy (copyOp true [0] false) base
     headHas s fun o => o.begun && !o.suspended && o.lowest == o.chunks && !o.poisoned),
    (let s := withCopy (copyOp true [0] true) base
     headHas s fun o => o.lowest == o.chunks && o.poisoned && (s.strand? o.owner).isSome),
    (let s := withCopy (copyOp true [] false) (strandIs (fun t => { t with frame := some (framed 0) }) base)
     headHas s fun o => o.lowest != o.chunks && (s.strand? o.owner).any (fun t => !t.super && t.world == 0 && t.frame.isSome) &&
       match prepareChunk s o o.lowest [] with | (s1, .error (.trap _)) => s1.strands == s.strands | _ => false)] = true := by decide +kernel

/-- Map 5 of the placed core. -/
def mapped5 (v : Nat) (s : State) : State := s.putCore { s.core core0 with maps := (s.core core0).maps.setIfInBounds 5 (BitVec.ofNat 512 v) }
def wholeMap (s : State) (u : Strand) : Bool := (List.range 512).all fun k => !namesBit mapf u k || mapBit s u 5 k
def inRangeB (u : Strand) : Bool := decide (u.rn 7 < 512 ∧ u.rn 7 + u.rn 8 ≤ 512)

theorem witness_CopyMapsAndFences : every [
    (let s := mapped5 (2 ^ 512 - 1) (scalars [(7, 0), (8, 512)] base)
     atU (.cmapwt mapf) s fun u => inRangeB u && wholeMap s u),
    (let s := mapped5 1 (scalars [(7, 0), (8, 2)] base)
     atU (.cmapwt mapf) s fun u => inRangeB u && !wholeMap s u),
    (let s := mapped5 1 (waits (.cmapwt 5 1 0) base)
     strandHas s fun v => s.mayMove v && v.frame.isNone && mapBit s v 5 0),
    (let s := mapped5 1 (scalars [(7, 0), (8, 1)] base)
     atU (.cmaptst mapf 2) s fun u => inRangeB u && wholeMap s u),
    (let s := scalars [(7, 511), (8, 1)] base
     atU (.cmaptst mapf 2) s fun u => inRangeB u && !wholeMap s u),
    atU (.cmapclr { mapf with wd := true }) (scalars [(7, 7), (8, 1)] base) fun u => decide (u.rn 7 < 8),
    atU (.cmapwt mapf) (scalars [(7, 511), (8, 2)] base) fun u => !inRangeB u, allRun [.qfence g0 15] base,
    (let s := base.putCore { base.core core0 with joins := [⟨3, 0, 1, [0], 0, false, false⟩] }
     ((s.core core0).joins.find? fun y => y.id == 3).any fun j => !j.done && j.waits.all fun k => !s.copyOpen k),
    atU (.cdrain g0 1 .all) base fun _ => (base.openCopies core0).isEmpty,
    (let s := withCopy (copyOp true [] false) base
     atU (.cdrain g0 1 .spad) s fun _ => pathCovers .spad .l && (s.openCopies core0).any fun o => decide (o.num < s.nextCopy)),
    (let s := waits (.cdrain 1 .glob 1 0) (withCopy (copyOp true [] false) base)
     strandHas s fun v => s.mayMove v && v.frame.isNone && !s.drainBusy v .glob 1),
    allRun [.cstat g0 5 true] base] = true := by decide +kernel
/-! ### Items, channels, barriers and signals -/

/-- Changes the placed stage. -/
def stageIs (f : Stage → Stage) (s : State) : State := match s.stage? 1 with | none => s | some g => s.putStage (f g)
def inStage (s : State) (f : Stage → Bool) : Bool := (s.stage? 1).any f
/-- The placed stage takes its items from one channel, 7, whose producer is stage 2; firings have 4 bytes. -/
def fedChan : Chan := ⟨7, 1, 2, 0, 4, 64, 0, [1, 2, 3, 4], [], [⟨1, 0, 4, false, 0, [], 0, [], []⟩], core0, 0, []⟩
def fed (s : State) : State :=
  { stageIs (fun g => { g with decls := { g.decls with nin := 1 }, ins := [(0, 7)] }) s with chans := [fedChan] }
def plain (s : State) : State := stageIs (fun g => { g with decls := { g.decls with nin := 0 }, outs := [(none, 8)] }) s
/-- The placed strand holds firing `n`. -/
def firing (n : Nat) (s : State) : State :=
  strandIs (fun t => { t with held := some { item0 with item := ⟨0, some n, 0⟩ } }) s
def deqWait (limit : Option Nat) (s : State) : State := waits (.deq 5 2 limit 0) s
def moving (s : State) : Bool := strandHas s fun v => v.pending.isEmpty && s.waitMoves v

theorem witness_WorkItems : every [
    atU (.deq g0 63 15) base fun u => u.held.isNone && (base.stage? u.inst).isSome,
    atU (.deqt g0 7 5 2) base fun u => u.held.isNone && (base.stage? u.inst).isSome,
    atU (.deq g0 9 2) (holding base) fun u => u.held.isSome,
    atU (.enq g0 5) (plain base) fun u => (plain base).stage? u.inst |>.any fun g => !g.channelFed && decide (u.rn 5 < 2 ^ u.workWidth) &&
      decide ((plain base).queueUsed g < 4096) && !(plain base).owesPkg u,
    atU (.enq g0 5) (holding (plain base)) fun u => u.held.any fun h => decide (h.log.enqs.length < 64),
    atU (.enq g0 5) (fed base) fun u => ((fed base).stage? u.inst).any Stage.channelFed, allRun [.widx g0 5 6 0] base,
    (let s := vectors 8 0 0 (holding (plain base))
     atU (.chw g0 0 2) s fun u => u.held.any fun h => inStage s fun g => decide ((h.log.chanBytes 0).length + u.vl * (u.ew / 8) ≤ g.outBytes 0)),
    (let s := vectors 9 0 0 (holding (plain base))
     atU (.chw g0 0 2) s fun u => u.held.any fun h => inStage s fun g => decide (g.outBytes 0 < (h.log.chanBytes 0).length + u.vl * (u.ew / 8))),
    (let s := scalars [(6, 8)] (holding (plain base))
     atU (.chws g0 0 5 6) s fun u => inStage s fun g => decide (u.rn 6 ≤ g.outBytes 0) && okB (s.loadBytes u checkLoad .l (u.rn 5) (u.rn 6))),
    atU (.chw g0 0 2) (plain base) fun u => u.held.isNone,
    (let s := deqWait none (stageIs (fun g => { g with queue := [⟨8, none, 0⟩], waiters := [slot0] }) (plain base))
     moving s && inStage s fun g => g.state == .running && g.waiters.head? == some slot0),
    (let s := deqWait none (plain base)
     moving s && inStage s fun g => s.inputClosedNow g && g.queue.isEmpty),
    (let s := deqWait none (fed (stageIs (fun g => { g with state := .stoppingDrain }) base))
     let s := { s with stages := { placedStage with id := 2 } :: s.stages }
     moving s && inStage s fun g => !s.inputClosedNow g && g.state == .stoppingDrain),
    (let s := later 4 (deqWait (some 3) (fed base))
     let s := { s with stages := { placedStage with id := 2 } :: s.stages }
     moving s && inStage s fun g => !s.inputClosedNow g && g.state == .running && decide (3 < s.now slot0)),
    (let s := later 3 (deqWait (some 3) (fed base))
     let s := { s with stages := { placedStage with id := 2 } :: s.stages }
     moving s && inStage s fun g => !s.inputClosedNow g && g.state == .running && s.now slot0 == 3 && g.queue.isEmpty)] = true := by
  decide +kernel

/-- An item whose log has one byte of G and one ENQ. -/
def logged (s : State) : State := strandIs (fun t => { t with held := some { item0 with log := { WriteLog.empty with
  mem := [(0x20000, 7)]
  sectors := [0x20000 / 32]
  enqs := [3] } } }) s
def noOuts (s : State) : State := stageIs (fun g => { g with decls := { g.decls with nin := 0 } }) s

/-- COMMIT of an item whose log has writes to device 9, or values for an estimator. -/
def farCommit (pod_ : List PodWrite) (acc : List (Nat × Nat)) (sc : Scope) : Bool :=
  let s := pod (strandIs (fun t => { t with held := some { item0 with log := { WriteLog.empty with pod := pod_, spaccs := acc } } }) (noOuts base))
  strandHas s fun u => !u.super && u.held.any fun h => inStage s fun g => s.loggedAll u && s.enqsFit g h.log && s.outsFit g h && u.refusals.isEmpty &&
    g.countsOk h.log && !s.owesAt u sc allStreams && (s.podWorldOf u.world).isSome && memWf s.mem && h.log.mem.isEmpty &&
    h.log.targets == (if pod_.isEmpty then [] else [9]) && !s.unreachableTo 9 && s.fabric.member != some 9

theorem witness_CommitAndAbort : every [
    (let s := logged (noOuts base)
     strandHas s fun u => u.held.any fun h => inStage s fun g => memWf s.mem && s.loggedAll u && s.enqsFit g h.log && s.outsFit g h &&
       !s.owesPkg u && u.refusals.isEmpty && g.countsOk h.log && h.log.pod.isEmpty && h.log.spaccs.isEmpty && u.frame.isNone && u.pending.isEmpty),
    atU (.commit g0) (logged (noOuts base)) fun u => u.held.isSome, atU (.commit g0) base fun u => u.held.isNone,
    atU (.abort g0 false) base fun u => u.held.isNone,
    (let s := waits (.commit [] none 0 false 0) (logged (noOuts base))
     strandHas s fun v => s.waitMoves v),
    farCommit [⟨9, 0x40, [7]⟩] [] .pod,
    (let s := waits (.commit [] none 2 true 0) base
     strandHas s fun v => v.frame.isNone && !s.postedBy v), farCommit [] [(0, 5)] .pkg,
    atU (.abort g0 false) (holding base) fun u => u.held.isSome,
    atU (.abort g0 true) (holding (noOuts base)) fun u => u.held.isSome && inStage (noOuts base) fun g => !g.channelFed,
    atU (.switch g0 5) (holding (noOuts base)) fun u => u.held.isSome, atU (.switch g0 5) (fed base) fun _ => inStage (fed base) Stage.channelFed,
    allRun [.chstat g0 5 .item, .chstat g0 5 (.inp 0), .chstat g0 5 .cfg] base] = true := by decide +kernel

def launched (s : State) : State := { s with launches := [demoLaunch] }
def barrier (c : Nat) (b : Barrier) (s : State) : State := { s with launches := [demoLaunch.setBar c b] }
def hasBar (s : State) (c : Nat) (f : Barrier → Bool) : Bool := (s.launch? 1).any fun l => f (l.bar c)
/-- How far the generation of barrier 3 is ahead of s6. -/
def aheadOf (s : State) (u : Strand) : Nat := ((s.launch? 1).map fun l => (BitVec.ofNat 32 (l.bar 3).gen - (u.rs 6).setWidth 32).toNat).getD 0
def sigf : MemForm := ⟨g0, 1, 2, 5, .g, 0, .d, 0, 0⟩
def wakef : MemForm := { sigf with d := 0, b := 0, sz := .b }
/-- The placed strand once more, in slot 1. -/
def neighbour (s : State) : State := match s.strand? slot0 with | none => s | some t => s.putStrand { t with at_ := ⟨0, 0, 1⟩ }
def sigWait (woken : Bool) (s : State) : State := waits (.sigwait .g 1 0x20000 8 1 false woken 0) (paged s)

theorem witness_BarriersAndSignals : every [
    atU (.bari g0 5 15) (launched (scalars [(5, 65535)] base)) fun u => u.held.isNone && u.rn 5 == 65535 && hasBar (launched base) 15 fun b => b.arrived == 0,
    atU (.bari g0 5 3) (launched base) fun u => u.rn 5 == 0,
    atU (.bara g0 6 3) (barrier 3 ⟨2, 1, 4⟩ base) fun u => u.held.isNone && !(barrier 3 ⟨2, 1, 4⟩ base).owesPkg u && hasBar (barrier 3 ⟨2, 1, 4⟩ base) 3 fun b => b.count != 0,
    (let s := barrier 3 ⟨2, 0, 1⟩ base
     atU (.barw g0 6 3) s fun u => aheadOf s u == 1),
    (let s := barrier 3 ⟨2, 0, 2 ^ 31⟩ base
     atU (.barw g0 6 3) s fun u => aheadOf s u == 2 ^ 31),
    (let s := barrier 3 ⟨2, 0, 2 ^ 31 + 1⟩ base
     atU (.barw g0 6 3) s fun u => aheadOf s u == 2 ^ 31 + 1),
    (let s := barrier 3 ⟨2, 0, 0⟩ base
     atU (.barw g0 6 3) s fun u => aheadOf s u == 0),
    (let s := scalars [(2, 0x20000), (5, 1)] (paged base)
     atU (.sigwait sigf true) s fun u => decide (ea0 sigf u % 8 = 0) && okB (s.loadBytes u checkLoad .g (ea0 sigf u) 8) && u.rn 5 != 0 &&
       u.frame.isNone && u.pending.isEmpty && u.wait.isNone && !s.owesSector u .g 0),
    (let s := scalars [(2, 0x20000)] (paged base)
     atU (.sigwait sigf false) s fun u => u.rn 5 == 0 && okB (s.loadBytes u checkLoad .g (ea0 sigf u) 8)),
    (let s := neighbour (sigWait false (scalars [(2, 0x20000)] base))
     let s := strandIs (fun t => if t.at_ == slot0 then { t with wait := none } else t) s
     atU (.sigwake wakef) s fun u => !s.owesAt u (spaceScope .g) allStreams && okB (checkAccess s u.party checkSigwake .g (ea0 wakef u) 1) &&
       (s.strand? ⟨0, 0, 1⟩).any fun v => v.world == u.world && s.sleepsOn v (s.sectorOf u.party .g (ea0 wakef u))),
    (let s := waits (.barw 3 0 0) (barrier 3 ⟨2, 0, 1⟩ base)
     moving s && hasBar s 3 fun b => b.passed 0),
    (let s := sigWait true base
     moving s && strandHas s fun v => okB (s.loadBytes v checkLoad .g 0x20000 8)),
    (let s := later (2 ^ 20) (sigWait false base)
     moving s && strandHas s fun v => okB (s.loadBytes v checkLoad .g 0x20000 8) && decide (2 ^ 20 ≤ s.now slot0)),
    (let s := later (2 ^ 32) (deqWait none base)
     moving s && strandHas s fun v => (v.wait.bind Wait.watched).isSome && decide (2 ^ 32 ≤ s.now slot0))] = true := by decide +kernel

/-- Channel 7 with a consumer that has not freed its bytes, and a COMMIT that has waited on it. -/
def stalled : State :=
  let s := firing 20 (later (2 ^ 20) (waits (.commit [] none 0 false 0) base))
  let s := strandIs (fun t => { t with held := t.held.map fun h => { h with log := { h.log with chan := [(0, [1, 2, 3, 4])] } } }) s
  { s with chans := [{ fedChan with
      consumers := [⟨1, 0, 4, false, 0, [], 0, [], []⟩, ⟨2, 0, 4, false, 1, [], 0, [], []⟩]
      stall := [(slot0, 0)] }] }
def tokened (s : State) : State := stageIs (fun g => { g with decls := { g.decls with nin := 2 } })
  { s with chans := [{ fedChan with consumers := [⟨1, 0, 4, false, 0, [], 0, [], [(4, 9)]⟩] }] }
def banked (b : Bank) : State := later 2048 (base.putCore { base.core core0 with banks := (base.core core0).banks.setIfInBounds 7 b })

theorem witness_ChannelsAndBanks : every [
    inStage (fed base) (fun g => g.channelFed && g.state == .running && decide (g.nextFiring < (fed base).readyFirings g) && g.queue.isEmpty),
    (let s := firing 0 (fed base)
     strandHas s fun v => v.held.any (fun h => h.item.firing == some 0) && v.phase == .live && v.consumed.isEmpty && inStage s fun g =>
       (s.inChan g 0).any fun c => (c.consumerOf 1 0).any fun k => !k.detached && decide (0 < k.packets)),
    (stalled.chan? 7).any fun c => decide (2 ≤ c.consumers.length) && c.consumers.any fun k => c.lags k && stalled.stalledOut c k,
    (let s := tokened (fed base)
     inStage s fun g => g.id == 1 && decide (1 < g.decls.nin) && ((s.inputs g).all fun y => y.2.arrived.isEmpty) && (s.inChan g 0).any fun c =>
       (c.consumerOf 1 0).any fun k => k.tokens == [(4, 9)] && k.arrived.isEmpty && decide (4 ≤ c.total)),
    (let s := banked ⟨.powered, 0⟩
     ((s.core core0).banks[7]?).any fun b => b.state == .powered && decide (s.retentionAfter ≤ (s.core core0).cycle.toNat - b.last)),
    ((banked ⟨.waking 5, 0⟩).core core0).banks[7]? == some ⟨.waking 5, 0⟩,
    (let s := later 48 base
     strandHas s fun v => v.phase == .live && v.wait.isNone && v.frame.isNone && !v.bankStall && !v.heldUp && !s.engineHalted v &&
       decide (48 ≤ s.now slot0 - max v.readyAt v.lastIssue))] = true := by decide +kernel

/-! ### Stipple -/

theorem witness_VisitOrder : every [decide (1 ≤ 2 ^ 40 ∧ 0 < 2 ^ 40), decide (permAt 1 7 0 < 1),
    decide (permAt (2 ^ 40) 0 (2 ^ 40 - 1) < 2 ^ 40)] = true := by decide +kernel

/-- Estimator 0 of the launch, initialised or not, stopped or not, over a domain of 4. -/
def estOf (init stop : Bool) (pos : Nat) : Est := ⟨0, 2, 0, 0, stop, init, false, false, 0, pos, 0, 0, 0, 0, 2, 0, 4, 1, []⟩
def withEst (e : Est) (s : State) : State := { s with launches := [{ demoLaunch with ests := demoLaunch.ests.setIfInBounds 0 (some e) }] }
def stip (s : State) : State := withEst (estOf true false 0) s
def hasEst (s : State) : Bool := strandHas s fun u => (s.est? u.launch 0).isSome
def arriving (op : StipOp) (e : Est) : Bool :=
  let s := { withEst e base with posted := [⟨slot0, 1, 0, op⟩] }
  hasEst s && (s.nextPosted slot0 0).any fun p => p.op == op
def estWait (w : Wait) (e : Est) (n : Nat) : Bool :=
  let s := later n (waits w (withEst e base))
  moving s && hasEst s && strandHas s fun v => !s.ownOnWay v 0 && !s.postedBy v

theorem witness_StippleUnit : every [
    hasEst (stip base), atU (.spinit g0 4 5 0 true) (stip (scalars [(4, 2 ^ 40)] base)) fun u => u.rn 4 == 2 ^ 40,
    atU (.spinit g0 4 5 0 false) (stip (scalars [(4, 2 ^ 40 + 1)] base)) fun u => u.rn 4 == 2 ^ 40 + 1,
    allRun [.spinit g0 4 5 0 false, .sptol g0 4 0 .z, .spstop g0 0, .spnext g0 63 2 0, .spstat g0 5 0 .dom, .spacc g0 0 7 0 false,
      .spacc g0 15 7 0 false, .spwait g0 1 4 0, .spacc g0 0 7 0 true, .spacc g0 1 7 0 true] (stip base),
    strandHas (stip base) fun u => !(stip base).owesOwn u allStreams && u.held.isNone,
    strandHas (holding (stip base)) fun u => !(holding (stip base)).owesOwn u allStreams,
    (let s := tables (pod (stip (strandIs (fun t => { t with unacked := [⟨5, 1, 0x40, 77, none⟩] }) base)))
     atU (.spacc g0 0 7 0 false) s fun u => s.owesOwn u allStreams),
    atU (.spacc g0 0 7 0 false) (holding (stip base)) fun u => u.held.isSome, atU (.spacc g0 1 7 0 false) (holding (stip base)) fun u => u.held.isSome,
    atU (.spwait g0 1 4 0) (withEst (estOf true true 0) base) fun u => !base.ownOnWay u 0,
    arriving (.init 4 9 true) (estOf false false 0), arriving (.tol .tol 5) (estOf true false 0), arriving (.tol .nmin 1) (estOf true false 0),
    arriving .stop (estOf true false 0), arriving (.acc 5) (estOf true true 0), arriving (.acc 5) (estOf true false 0),
    estWait (.spnext 0 63 15) (estOf true true 0) 0, estWait (.spnext 0 1 1) (estOf true false 3) 0, estWait (.spnext 0 1 1) (estOf true false 4) 0,
    estWait (.spstat 0 5 .mean) (estOf true false 0) 0, estWait (.spacc 0 1 5) (estOf true false 0) 0,
    estWait (.spwait 0 1 1 (some 8) 0) (estOf true false 0) 8,
    (let s := waits (.spwait 0 1 1 none 0) (withEst { estOf true true 0 with casts := [(0, 1, false)] } base)
     moving s && strandHas s fun v => v.spwaits 1 0 1 == some 1)] = true := by decide +kernel
/-! ### Sessions, pod and links -/

/-- Session slot 7 of world 0. -/
def session7 (st : SessState) : Session := { Session.reset 7 with state := st, key := 5, fixed := 6, kepoch := 1, rxhi := 4, buffers := [(0x20000, 64)] }
def session (st : SessState) (s : State) : State := { s with sessions := [session7 st] }
def sessReady : State := session .opened (scalars [(8, 0), (10, 0x20000), (11, 1), (12, 7), (13, 0)] (paged base))
def serving (w : Wait) : Bool :=
  let s := session .opened (waits w (paged base))
  moving s && strandHas s fun v => v.frame.isNone && v.held.isNone && !s.queueBusy v 0 9 && (s.slotFor v.world 7).any fun x =>
    x.pendKey.isNone && x.state == .opened && decide (x.invoc < 2 ^ 31)

theorem witness_Sessions : every [
    atU (.cdec g0 8 10 11 12 1 0) sessReady fun u => (sessReady.slotFor u.world (u.rn 12)).isSome && u.rn 11 == 1 &&
      okB (sessReady.cdecChecks u (u.rn 8) (u.rn 10) (u.rn 11)) && !sessReady.owesOwn u allStreams,
    atU (.cenc g0 10 8 11 12 0) sessReady fun u => ((sessReady.slotFor u.world (u.rn 12)).any fun x => x.bufferFits (u.rn 10) (u.rn 11)) &&
      okB (sessReady.cencChecks u (u.rn 10) (u.rn 8) (u.rn 11)) && u.held.isNone,
    atU (.cdec g0 8 10 11 12 1 0) base fun u => (base.slotFor u.world (u.rn 12)).isNone, allRun [.cenc g0 10 8 11 12 0] base,
    atU (.usage g0 5 12 11) sessReady fun u => (sessReady.slotFor u.world (u.rn 12)).isSome && u.held.isNone,
    atU (.usage g0 0 12 11) (holding sessReady) fun u => u.held.isSome, atU (.usage g0 5 12 11) (holding sessReady) fun u => u.held.isSome,
    allRun [.sessinfo g0 5 12 3, .grchk g0 5 6 .l] sessReady,
    serving (.cdec 0 0x20000 1 7 1 0 9) && okB ((paged base).cdecChecks (placedStrand 0) 0 0x20000 1) &&
      beNat (memBytes base.mem 0x20000 8) == 0 && (session7 .opened).rxhi == 4,
    serving (.cenc 0x20000 0 1 7 0 9) && okB ((paged base).cencChecks (placedStrand 0) 0x20000 0 1), serving (.usage 63 7 5), serving (.sessinfo 5 7 3),
    (base.session 1023).state == .free && ((tables base).world? 0).isSome, (sessReady.session 7).state == .opened && !(sessReady.session 7).final &&
      (worldRuns (session .opened (tables base)) 0 windowPage (2 ^ 20 / 65536 + 2) 0x20000 (2 ^ 20)).isSome,
    ((session .closed base).session 7).state == .closed] = true := by decide +kernel

/-- Port 2 toward device 9: both directions trained, with a lease of the placed world. -/
def leaseOf (waves : List Nat) (pend : Nat) (revocable : Bool) : Lease := ⟨0, 9, waves, [], pend, 0, 2 ^ 24, revocable⟩
def portOf (f : Port → Port) (s : State) : State := let r := pod s
  r.putPort (f { r.port 2 with peer := some (9, 0) })
def asking (a k : Nat) (f : Port → Port) : State := portOf f (scalars [(9, a), (10, k)] base)
def leaseOk (s : State) (u : Strand) : Bool := (s.podTarget u.world (u.rn 9 % 2048)).isSome && u.rn 9 % 2048 != s.deviceId &&
  !s.leaseStopped (s.portTo (u.rn 9 % 2048)) && s.portTo (u.rn 9 % 2048) != noPort
def twoDevices : Manifest := ⟨[⟨5, 1, (1, 0, 0), [none, none, some (9, 0)]⟩, ⟨9, 2, (0, 1, 0), [some (5, 2)]⟩], 5, true⟩

theorem witness_PodAndLeases : every [
    (let s := asking 9 128 id
     atU (.lease g0 5 9 10 true) s fun u => leaseOk s u && u.rn 10 == 128),
    (let s := asking 9 129 id
     atU (.lease g0 5 9 10 false) s fun u => leaseOk s u && u.rn 10 == 129),
    (let s := asking 9 0 fun p => p.putLease (leaseOf [1, 2] 0 false)
     atU (.unlease g0 5 9 10) s fun u => leaseOk s u && u.rn 10 == 0 && ((s.port 2).lease u.world 9).isSome),
    (let s := asking 9 1 fun p => p.putLease (leaseOf [1, 2] 0 false)
     atU (.unlease g0 5 9 10) s fun u => leaseOk s u && ((s.port 2).lease u.world 9).any (fun l => l.waves == uniq l.waves)),
    (let s := asking 9 1 fun p => p.putLease (leaseOf [1, 2] 0 false)
     atU (.leaseq g0 5 9) s fun u => leaseOk s u && ((s.port 2).lease u.world 9).isSome),
    (let s := asking 5 1 id
     allRun [.lease g0 5 9 10 false, .unlease g0 5 9 10, .leaseq g0 5 9] s && strandHas s fun u => u.rn 9 % 2048 == s.deviceId),
    allRun [.lease g0 5 9 10 false, .unlease g0 5 9 10, .leaseq g0 5 9] base && strandHas base fun u => (base.podTarget u.world 0).isNone,
    (let s := asking 9 1 id
     allRun [.podid g0 7 9 0, .podid g0 7 9 1, .podid g0 7 9 2, .podid g0 7 9 3] s && (s.routeTo 9).isSome && s.fabric.member == some 5 && (s.podWorldOf 0).isSome),
    manifestOk twoDevices && (manifestEntry twoDevices twoDevices.self).isSome && !base.fabric.off,
    (let s := tables { (pod base) with fabric := { (pod base).fabric with worlds := [] } }
     s.fabric.member.isSome && (s.world? 0).isSome && (s.podWorldOf 0).isNone && (s.localWorld 65535).isNone && [5, 9].contains s.deviceId &&
       [5, 9].all s.inPod && allDistinct [5, 9]),
    ((pod base).localWorld 3).any fun p => [5, 9].all p.members.contains && ((pod base).groupRoot p 2047).isNone,
    (let s := portOf (fun p => { p.putLease (leaseOf [] 1 false) with pendList := [(0, 9, 0)] }) base
     (s.port 2).pendList.head?.isSome && ((s.port 2).freeWaves (s.pool 2)).contains 2),
    (let s := { portOf (fun p => p.putLease (leaseOf [1] 0 false)) base with pkgCycle := 2 ^ 24 }
     ((s.port 2).lease 0 9).any fun l => l.ended s.pkgCycle),
    (let s := portOf (fun p => { p.putLease (leaseOf [1, 2] 0 true) with pendList := [(3, 9, 0)] }) base
     (s.port 2).leases == [leaseOf [1, 2] 0 true] && othersEntry (leaseOf [1, 2] 0 true) (3, 9, 0) && [1, 2].getLast? == some 2),
    (let s := { portOf (fun p => { p with pendList := [(3, 9, 0)] }) base with pkgCycle := 2 ^ 20 - 1 }
     (s.port 2).pendList.head?.isSome && decide (s.pkgCycle < 2 ^ 20)),
    (let s := { portOf (fun p => { p.putLease (leaseOf [1, 2] 0 false) with pendList := [(3, 9, 0)] }) base with pkgCycle := 2 ^ 20 }
     (s.port 2).leases == [leaseOf [1, 2] 0 false] && (s.port 2).pendList == [(3, 9, 0)] && decide (2 ^ 20 ≤ s.pkgCycle))] = true := by decide +kernel

def linkUp (d : LinkDir) (invoc : Nat) (pending : Option Nat) : LinkState := { freshLink d 9 4 with invoc := invoc, pending := pending }
def linked (f : Port → Port) : State := portOf (fun p => f ((p.putLink (linkUp .rx 0 none)).putLink (linkUp .tx 0 none))) base
/-- The stream from device 9 to this one, and a flit of it with a whole message. -/
def flow9 : Nat := streamName 0 3 9 5
def flit9 (type : FlitType) (seq : Nat) (payload : List Nat) : Flit := ⟨type, 5, 9, 4, seq, true, false, payload⟩
def streamOf (since : Nat) (gap : Option Nat) : RxStream := ⟨4, flow9, 7, [9], since, 0, gap⟩
def sent : SentFlit := ⟨streamName 0 3 5 9, 5, 1, true, 0, 0, globalTag 5 77, { flit9 .write 5 [] with dst := 9, src := 5 }⟩
/-- The 80 bytes of a header in clear and no payload. -/
def bareBytes (header : Nat) : List Nat := natBytes 8 header ++ List.replicate 72 0
/-- The bytes of a flit as device 9 sends it first on wavelength 1. -/
def wireIv : Nat := (linkUp .rx 0 none).iv 1 0
def wireBytes (f : Flit) : List Nat := flitBytes 9 wireIv f
def ackFlit : Flit := flit9 .ack 0 (ackPayload 0 [5])
def oldFlit : Flit := flit9 .write 7 (List.replicate 64 0)
def posted9 : PostedStore := ⟨9, 0, 0x40, 77, none⟩
/-- The notice of device 9 that it has performed the store of a tag. -/
def notice9 : Flit := flit9 .control 1 (noticePayload 77 9 false)
def waveOf (st : WaveState) (d : LinkDir) : Wave := ⟨1, d, st, 0, 0, 0, 2⟩
def waved (st : WaveState) (d : LinkDir) : Port := { Port.reset 2 with waves := [waveOf st d] }
def laser0 (lit : Bool) (r : Option (Nat × Nat × Nat × Nat)) : LaserSlot := ⟨0, 0, lit, r, 0⟩
def lasers (l : LaserSlot) (s : State) : State := { s with fabric := { s.fabric with lasers := [l] } }
def portOf' (f : Port → Port) (s : State) : State := s.putPort (f (s.port 2))
def cut (w : List Strand → List Strand) : State :=
  let s := { portOf (fun p => { p with downSince := some 0, waves := [] }) base with pkgCycle := 2 ^ 24 }
  let s := { s with fabric := { s.fabric with routes := [⟨9, true, 2, 0, 0, [noDevice, noDevice, noDevice]⟩] } }
  { s with strands := w s.strands }

theorem witness_LinkEvents : every [
    decide (oldFlit.dst < 2 ^ 11 ∧ oldFlit.src < 2 ^ 11 ∧ oldFlit.stream < 2 ^ 12 ∧ oldFlit.seq < 2 ^ 24 ∧ oldFlit.payload.length = 64 ∧
      ∀ b ∈ oldFlit.payload, b < 256),
    (let s := portOf id base
     (s.port 2).peer.isSome && !((s.port 2).link .tx).up),
    ((linked id).port 2).link .rx |>.up,
    (bareBytes 0).length == 80 && (flitOf (payloadNat (bareBytes 0) 0 8) []).type == .idle,
    (let f := flitOf (payloadNat (bareBytes (2 ^ 60 + 1)) 0 8) []
     f.type == .read && ((linked id).port 2).phaseOf 1 f.phase == none),
    (let f := flitOf (payloadNat (bareBytes (15 * 2 ^ 60)) 0 8) []
     f.type == .reserved && (((linked id).port 2).phaseOf 1 f.phase).isSome),
    (let x := (linked id).orderOf flow9
     seqAhead 1 x.delivered == 1 && x.waiting.isEmpty && x.part.isEmpty && (flit9 .reply 1 []).last && (flit9 .read 1 []).last &&
       (linked id).replyWanted (replyOf (flit9 .reply 1 (natBytes 8 77 ++ List.replicate 56 0)) []).reqid),
    (let s := strandIs (fun t => { t with unacked := [posted9] }) (linked id)
     s.strands.length == 1 && (s.strands.all fun t => t.unacked == [posted9]) && notice9.last && (s.orderOf flow9).waiting.isEmpty),
    (let s := linked fun p => { p with rx := [streamOf 64 none] }
     (s.port 2).mayAck && ((s.port 2).rx.find? fun y => y.stream == 4).any fun x => decide (64 ≤ x.sinceAck)),
    (let s := { linked fun p => { p with rx := [streamOf 0 (some 0)] } with pkgCycle := 2048 }
     (s.port 2).mayAck && ((s.port 2).rx.find? fun y => y.stream == 4).any fun x => x.gapSince == some 0 && decide (2048 ≤ s.pkgCycle)),
    (let s := linked fun p => { p with streams := [streamName 0 3 5 9], retry := [sent] }
     let l := (s.port 2).link .tx
     (s.port 2).streamAt 0 == some sent.name && ((s.port 2).retry.find? fun y => y.name == sent.name && s.replayDue y) == some sent && l.up &&
       !l.isStopped && decide (l.invoc < 2 ^ 32) && (s.wavesFor 2 sent.world (nameDst sent.name)).contains 1 && (s.port 2).backlog.isEmpty),
    (waved .up .tx).wave 1 .tx == waveOf .up .tx, (waved .retrain .rx).wave 1 .rx == waveOf .retrain .rx,
    (waved .retrain .tx).wave 1 .tx == waveOf .retrain .tx, (waved .failed .tx).wave 1 .tx == waveOf .failed .tx,
    { base with fabric := { base.fabric with failedModules := [3] } }.fabric.failedModules.contains 3,
    !base.fabric.failedModules.contains 16 && base.fabric.spares.contains 16,
    (let s := lasers (laser0 true none) base
     s.fabric.lasers == [laser0 true none] && !s.fabric.failedModules.contains 0 && !s.fabric.spares.contains 0),
    (let s := lasers (laser0 false (some (0, 16, 0, 0))) base
     s.fabric.spares.contains 16 && s.fabric.lasers == [laser0 false (some (0, 16, 0, 0))]),
    (let s := lasers (laser0 false (some (0, 16, 0, 0))) base
     let s := { s with fabric := { s.fabric with spares := [17] } }
     !s.fabric.spares.contains 16 && s.fabric.spares.head? == some 17 && s.fabric.lasers == [laser0 false (some (0, 16, 0, 0))]),
    (let s := portOf id (lasers (laser0 true none) base)
     s.fabric.ports.length == 1),
    (let s := linked fun p => p.putLink (linkUp .tx (2 ^ 32 - 2 ^ 20) none)
     let l := (s.port 2).link .tx
     l == linkUp .tx (2 ^ 32 - 2 ^ 20) none && l.up && !l.warned),
    (let s := linked fun p => p.putLink (linkUp .tx 5 (some 8))
     ((s.port 2).link .tx).pending == some 8 && ((s.port 2).link .tx).up),
    (let s := linked fun p => p.putLink (linkUp .rx (2 ^ 32 - 2 ^ 16) none)
     let l := (s.port 2).link .rx
     l.up && !l.stopped && l.pending.isNone && decide (2 ^ 32 - 2 ^ 16 ≤ l.invoc)),
    (let s := cut fun _ => []
     s.cutOff 9 && !s.unreachableTo 9 && s.strands.isEmpty),
    (let s := cut fun l => l.map fun (t : Strand) => { t with wait := some (.remote 77 9 [0x40] (.scalar 4 8 false true) [77] []) }
     s.cutOff 9 && !s.unreachableTo 9 && s.strands.length == 1 && (s.strands.all fun t => t.unacked.isEmpty) &&
       s.fabric.ports.all fun p => p.openParts s.deviceId 9 == []),
    ([posted9, { posted9 with root := some 5 }, { posted9 with dev := 3, root := some 9 }].all fun x =>
      let s := cut fun l => l.map fun (t : Strand) => { t with unacked := [x] }
      s.cutOff 9 && !s.fabric.unreachable.contains 9 && s.deviceId == 5 && s.strands.length == 1 && s.strands.all fun t => t.wait.isNone),
    !base.cutOff 9] = true := by decide +kernel

theorem toBytes_toNats (l : List Byte) : toBytes (toNats l) = l := by
  simp only [toBytes, toNats, List.map_map]
  exact (List.map_congr_left fun b _ => by simp).trans (List.map_id l)

theorem gcmStream_gcmStream (key iv : Nat) (bs : List Byte) : gcmStream key iv (gcmStream key iv bs) = bs := by
  apply List.ext_getElem (by simp [gcmStream])
  intro i h1 h2
  simp [gcmStream, nth, h2, BitVec.xor_assoc]

/-- The CHECK of a flit that device 9 sends holds. -/
theorem wireBytes_opens (f : Flit) (h : f.payload.length = 64) (hp : toNats (toBytes f.payload) = f.payload) :
    openFlit 9 wireIv (wireBytes f) = some f.payload := by
  have hc : (gcmStream 9 wireIv (toBytes f.payload)).length = 64 := by simp [gcmStream, toBytes, h]
  have h8 : (leBytes 8 (flitHeader f)).length = 8 := rfl
  have e1 : toBytes ((wireBytes f).take 8) = leBytes 8 (flitHeader f) := by
    simp only [wireBytes, flitBytes, toNats, ← List.map_take]
    rw [← toNats, toBytes_toNats, List.append_assoc, List.take_append_of_le_length (Nat.le_of_eq h8.symm), List.take_of_length_le (Nat.le_of_eq h8)]
  have e2 : toBytes ((wireBytes f).drop 8) = gcmStream 9 wireIv (toBytes f.payload) ++
      (beBytes 16 (Config.packageTag 9 wireIv (leBytes 8 (flitHeader f)) (gcmStream 9 wireIv (toBytes f.payload)))).take 8 := by
    simp only [wireBytes, flitBytes, toNats, ← List.map_drop]
    rw [← toNats, toBytes_toNats, List.append_assoc, List.drop_append_of_le_length (Nat.le_of_eq h8.symm), List.drop_of_length_le (Nat.le_of_eq h8)]; rfl
  have e3 : toBytes (((wireBytes f).drop 8).take 64) = gcmStream 9 wireIv (toBytes f.payload) := by
    rw [toBytes, List.map_take, ← toBytes, e2, List.take_append_of_le_length (by omega), List.take_of_length_le (by omega)]
  have e4 : toBytes ((wireBytes f).drop 72) =
      (beBytes 16 (Config.packageTag 9 wireIv (leBytes 8 (flitHeader f)) (gcmStream 9 wireIv (toBytes f.payload)))).take 8 := by
    rw [show 72 = 8 + 64 from rfl, ← List.drop_drop, toBytes, List.map_drop, ← toBytes, e2, List.drop_append_of_le_length (by omega),
      List.drop_of_length_le (by omega)]; rfl
  unfold openFlit
  simp only [e1, e3, e4, beq_self_eq_true, if_true, gcmStream_gcmStream, hp]

/-- An ACK of SEQ 5 of the stream that `sent` is of, and a flit whose SEQ has come. -/
theorem witness_LinkEvents_opens :
    (let s := linked fun p => { p with streams := [streamName 0 3 5 9], retry := [sent] }
     ∃ l, (s.port 2).phaseOf 1 false = some (l, 9, 0) ∧ openFlit 9 (l.iv 1 0) (wireBytes ackFlit) = some ackFlit.payload ∧
      (s.port 2).streamAt (ackOf ackFlit.payload).1 = some sent.name ∧ (s.port 2).backlog = []) ∧
    (let s := linked fun p => { p with rx := [streamOf 0 none] }
     ∃ l, (s.port 2).phaseOf 1 false = some (l, 9, 0) ∧ openFlit 9 (l.iv 1 0) (wireBytes oldFlit) = some oldFlit.payload ∧
      ((s.port 2).rxStream 4 flow9 0).has 7 = true) :=
  ⟨⟨_, rfl, wireBytes_opens ackFlit (by decide) (by decide), by decide +kernel, rfl⟩,
    ⟨_, rfl, wireBytes_opens oldFlit (by decide) (by decide), by decide +kernel⟩⟩

/-- An access of device 9 to this device, for pod world 3, that carries what its kind carries. -/
def accessBy (k : RemoteKind) (va n : Nat) : RemoteAccess := ⟨9, 5, 3, k, va, n, 77, List.replicate (kindCarries k n) 1⟩
def target : State := pod (tables base)
/-- An access has been delivered, and is checked. -/
def inboxed (l : List RemoteAccess) : State := { target with fabric := { target.fabric with inbox := l } }
def targetB (k : CheckKind) (r : RemoteAccess) : Bool := (inboxed [r]).mayPerform r && (inboxed [r]).targetWorld r == some 0 &&
  okB ((inboxed [r]).targetCheck 0 k r.va r.len)
def counted : RemoteAccess := { accessBy (.release 3) 0x20040 8 with reqid := 80 }
def foreign : RemoteAccess := { accessBy .read 0x20000 8 with podWorld := 4 }

theorem witness_SpaceDTarget : every [
    (let r := accessBy .write 0x20000 33
     (accessFlits r).length == 2 && decide (accessCount r < 2 ^ 16) && r.data.length == kindCarries r.kind r.len),
    (accessFlits (accessBy .read 0x20000 8)).length == 1 && ((⟨9, 5, 77, 0, [1]⟩ : RemoteReply).flits).length == 1,
    targetB checkLoad (accessBy .read 0x20000 64), targetB checkStore (accessBy .write 0x20000 1),
    (let r := accessBy .read (2 ^ 40) 8
     (inboxed [r]).mayPerform r && !targetB checkLoad r && (inboxed [r]).targetWorld r == some 0),
    ([RemoteKind.atomic .add, .cas].all fun k => targetB checkAtomic (accessBy k 0x20000 8) &&
      ((inboxed [accessBy k 0x20000 8]).keptAnswer (accessBy k 0x20000 8)).isNone) && target.fabric.member != some 9,
    (let r := { accessBy .cas 0x20000 8 with data := List.replicate 16 0 }
     targetB checkAtomic r && leValue (memBytes target.mem 0x20000 8) == 0 && leValue ((accessBy .cas 0x20000 8).data.map (BitVec.ofNat 8)) != 0),
    (let s := inboxed [accessBy .cas 0x20000 8]
     let s := { s with fabric := { s.fabric with answered := [(9, 77, [1])] } }
     s.mayPerform (accessBy .cas 0x20000 8) && s.keptAnswer (accessBy .cas 0x20000 8) == some [1]),
    ([RemoteKind.held, .part 9, .release 0].all fun k => targetB checkStore (accessBy k 0x20000 8) &&
      errB ((inboxed [accessBy k (2 ^ 40) 8]).targetCheck 0 checkStore (2 ^ 40) 8) && (inboxed [accessBy k (2 ^ 40) 8]).mayPerform (accessBy k (2 ^ 40) 8)),
    targetB checkProbe (accessBy .probe 0x20000 1),
    (let s := strandIs (fun t => { t with unacked := [⟨5, 0, 0x40, 77, none⟩] }) (inboxed [{ accessBy .write 0x20000 1 with src := 5 }])
     s.mayPerform { accessBy .write 0x20000 1 with src := 5 } && s.strands.length == 1 && s.deviceId == 5),
    (let a := accessBy .write 0x20000 1
     let r := { accessBy .read 0x20000 8 with reqid := 78 }
     a != r && sameStrand a r && (inboxed [a, r]).sectorsMeet a r),
    (inboxed [foreign]).mayPerform foreign && (inboxed [foreign]).targetWorld foreign == none,
    (let r := accessBy .discard 0 1
     (inboxed [r]).mayPerform r),
    (let r := accessBy (.mcast 9) 0x20000 8
     (inboxed [r]).mayPerform r && (target.fabric.groups.find? fun g => g.num == r.podWorld && g.group == 9).isSome),
    (let r := accessBy (.mcast 8) 0x20000 8
     (inboxed [r]).mayPerform r && (target.fabric.groups.find? fun g => g.num == r.podWorld && g.group == 8).isNone),
    (let r := accessBy .write 0x20000 1
     (inboxed [r, counted]).mayPerform r && sameKey counted r && decide (r.reqid < counted.reqid) &&
       okB ((inboxed [r, counted]).targetCheck 0 checkStore r.va r.len)),
    (let s := inboxed [accessBy .perform 0 0]
     let s := { s with fabric := { s.fabric with held := [⟨9, 77, 0, 0x20000, [(0x20000, 1)]⟩] } }
     (s.performFor 9 77).isSome && s.fabric.held.length == 1),
    (let s := { inboxed [] with fabric := { target.fabric with repliesIn := [⟨9, 5, 77, 7, []⟩] } }
     let s := strandIs (fun t => { t with unacked := [posted9] }) s
     strandHas s fun t => t.unacked == [posted9] && (s.refusalFor t 77 8).isNone),
    (let s := { inboxed [] with fabric := { target.fabric with repliesIn := [⟨9, 5, 77, 7, [1]⟩] } }
     let parts := [⟨5, 0, 0x40, 77, some 9⟩, ⟨9, 0, 0x40, 77, some 9⟩]
     strandHas (strandIs (fun t => { t with unacked := parts }) s) fun t => t.unacked == parts)] = true := by decide +kernel
/-! ### Launches -/

/-- Writes numbers of some bytes at addresses. -/
def pokes (l : List (Nat × Nat × Nat)) (s : State) : State := { s with mem := l.foldl (fun m x => memSetBytes m x.1 (leBytes x.2.1 x.2.2)) s.mem }
/-- Queue 0 in a context with one entry: a record of 192 bytes at 0x210000. -/
def queued (s : State) : State := pokes [(0x200000, 8, 0x210000), (0x200008, 4, 192), (0x20000C, 4, 5)] { tables s with
  queues := [{ SubQueue.reset 0 with base := 0x200000, size := 64, tail := 1, inContext := some 0, qctl := 1, cqBase := 0x230000 }] }
/-- A launch record of two graphs whose only stage, of graph 0, has a module that cannot be read. -/
def recorded (world ngraph after cpl : Nat) (s : State) : State := pokes [(0x210000, 4, 0x014C5847), (0x210004, 2, 1), (0x210006, 1, ngraph),
  (0x210007, 1, 1), (0x21000A, 1, world), (0x210018, 8, 100), (0x210020, 8, 2 ^ 24), (0x210028, 1, after), (0x21002C, 4, 5), (0x210038, 8, cpl),
  (0x210040, 8, 2 ^ 50), (0x210060, 8, 1)] (queued s)
/-- The bytes that LAUNCH_ARRIVAL reads, and the state in which it checks them. -/
def arrives (s : State) (f : State → List Byte → Bool) : Bool :=
  let s1 : State := { s.setQueue (s.queue 0).fetched with nextSerial := s.nextSerial + 1 }
  (s.queue 0).mayFetch && (s.entryAt (s.queue 0)).any fun e => decide (64 ≤ e.len) && (s1.read0 e.lrec e.len).any (f s1)
def cplOk (s : State) (b : List Byte) : Bool :=
  let r := launchRecOf b
  s.cplWritable r.cpladdr (40 + 8 * r.ngraph + 8 * r.nstage)
def isAccepted (g : GraphCheck) : Bool := match g with | .accepted .. => true | .refused .. => false
/-- The launch gets as far as its plan, of which `f` speaks. -/
def planned (s : State) (f : State → LaunchRec → List Candidate → Newcomer → Option Plan → Bool) : Bool := arrives s fun s1 b =>
  let r := launchRecOf b
  let checks := s1.checkGraphs r
  let s2 := s1.rememberModules r
  cplOk s1 b && launchRecOk b && (s1.world? r.world).isSome && checks.any isAccepted &&
    (s2.placement r (capsOf checks) (candidatesOf r checks)).any fun l =>
      let n := newcomerOf s2 ⟨0, ⟨0x210000, 192, 5⟩, s.nextSerial⟩ r l (s2.afterOf r)
      f s2 r l n (s2.plan n)

theorem witness_LaunchAdmission : every [
    !(base.queue 0).mayFetch,
    (let s := { base with queues := [{ SubQueue.reset 0 with size := 64, tail := 1, inContext := some 0, qctl := 1 }] }
     let s := { tables s with queues := s.queues }
     (s.queue 0).mayFetch && (s.entryAt (s.queue 0)).any fun e => decide (e.len < 64)),
    arrives (recorded 0 2 0xFF (2 ^ 40) base) fun s b => !cplOk s b, arrives (recorded 0 2 0xFF 0x220004 base) fun s b => cplOk s b && !launchRecOk b,
    arrives (recorded 0 0 0xFF 0x220000 base) fun s b => cplOk s b && !launchRecOk b,
    arrives (recorded 9 2 0xFF 0x220000 base) fun s b => cplOk s b && launchRecOk b && (s.world? (launchRecOf b).world).isNone,
    arrives (recorded 0 1 0xFF 0x220000 base) fun s b => cplOk s b && launchRecOk b && (s.world? 0).isSome && !(s.checkGraphs (launchRecOf b)).any isAccepted,
    planned { recorded 0 2 0xFF 0x220000 base with stages := List.replicate 1025 placedStage } fun s _ l _ _ => decide (1024 < s.stages.length + l.length),
    planned { recorded 0 2 0xFF 0x220000 base with level := 8 * 2 ^ 24 - 1 } fun s r l _ _ => decide (s.stages.length + l.length ≤ 1024 ∧ s.level < 8 * (r.energy : Int)),
    planned { recorded 0 2 0 0x220000 base with launches := [{ demoLaunch with tag := 5, bound := 101 }] } fun s r l n p => s.bandwidthFits r l &&
      decide (8 * (r.energy : Int) ≤ s.level) && p.any fun p => decide (n.limit < p.start + p.delay + n.span),
    planned (recorded 0 2 0xFF 0x220000 base) fun s r l n p => s.bandwidthFits r l && decide (8 * (r.energy : Int) ≤ s.level) && p.any fun p =>
      decide (p.start + p.delay + n.span ≤ n.limit) && p.victims.isEmpty,
    ((nextOf (execLaunchArrival 0 [] (recorded 0 2 0xFF 0x220000 base))).bind fun s => s.launch? 1).any fun l => l.status == 0x40,
    ((queued base).queue 0).cplRoom && ((queued base).queue 0).waiting.isEmpty] = true := by
  decide +kernel
/-! ### Stages, queues and the host -/

/-- The placed stage in another state, with or without its strand, under its launch. -/
def staged (st : StageState) (f : Stage → Stage) (s : State) : State := launched { stageIs (fun g => f { g with state := st }) s with nextStage := 2 }
def noStrands (s : State) : State := { s with strands := [] }
def dieUp (s : State) : State := s.putDie { Die.reset 0 with released := true }
def savedOf (t : Strand) : Saved := ⟨[t], []⟩
def binding (f : Stage → Bool) (s : State) : Bool := (s.promote.stage? 1).any fun g => s.promote.nextToBind g && (s.die g.die).released &&
  (placeStage s.occupancy g).isSome && f g
/-- A second stage, of launch 2, that must stand on core 0. -/
def rival : Stage := { placedStage with id := 2, launch := 2, state := .pending, mode := 2 }

theorem witness_StageLifecycle : every [
    binding (fun g => g.saved.isNone) (staged .ready id (noStrands (dieUp base))),
    (let t := placedStrand 0
     let s := staged .ready (fun g => { g with saved := some (savedOf { t with phase := .stopped }) }) (noStrands (dieUp base))
     binding (fun g => g.saved.any fun v => v.strands == [{ t with phase := .stopped }] && t.ops.isEmpty &&
       s.promote.resumePlace g v == some [(slot0, slot0)]) s),
    (let s := staged (.stoppingSave none) id base
     !(s.strandsOf 1).isEmpty && ((s.stage? 1).bind fun g => s.world? g.world).isNone && (s.strandsOf 1).all fun t => !s.unsettled t),
    (let s := staged (.stoppingSave (some 2)) id base
     let s := { s with stages := { rival with state := .ready, mode := 0 } :: s.stages }
     !(s.strandsOf 1).isEmpty && (s.stage? 1).any (fun g => g.die == rival.die) && (s.strandsOf 1).all fun t => !s.unsettled t),
    (let s := staged .stoppingKill id base
     (s.launch? 1).any (fun x => !x.killed) && (s.strandsOf 1).all fun t => !s.postedBy t && !t.wait.any Wait.isSession),
    (let s := staged .stoppingKill id base
     ({ s with launches := [{ demoLaunch with killed := true }] }.launch? 1).any Launch.killed),
    (let s := staged .stoppingDrain id (noStrands base)
     (s.stage? 1).isSome && (s.strandsOf 1).isEmpty), (staged .running id (noStrands base)).strandsOf 1 |>.isEmpty,
    (let s := { staged .running (fun g => { g with cores := [core0] }) base with pkgCycle := 1 }
     let s := { s with stages := s.stages ++ [rival] }
     (s.stage? 1).any fun g => s.overran g && s.waitsFor g == [2] && (s.launch? 1).isSome && !s.debugHeld g),
    (let s := { staged .done id (noStrands base) with queues := [{ SubQueue.reset 0 with size := 64 }] }
     s.launchDone 1 && (s.launch? 1).isSome && !(s.queue 0).cplWaits),
    (let s := { staged .done id (noStrands base) with queues := [{ SubQueue.reset 0 with waiting := [⟨9, 9, 0x40, false⟩] }] }
     s.launchDone 1 && (s.queue 0).cplWaits)] = true := by decide +kernel

/-- The CXL link has trained; the TDI of the queue registers is bound and not in RUN. -/
def trained (s : State) : State := { s with hallmark := { s.hallmark with linkUp := true } }
def shut (s : State) : State := { s with hallmark := { s.hallmark with linkUp := true, tdi := ⟨true, false⟩ } }

def pendingQueue (q prio : Nat) : SubQueue := { SubQueue.reset q with size := 64, shadow := some 1, qctl := 1 + 16 * prio, pendingSince := some 0 }
def inContext (q prio since : Nat) : SubQueue := { SubQueue.reset q with size := 64, qctl := 1 + 16 * prio, inContext := some since, emptySince := some 0 }

/-- Port 3 of die 0 with some buckets. -/
def ported (l : List (Nat × Nat)) : State := base.putDie { Die.reset 0 with ports := [⟨3, l, 0, []⟩] }

theorem witness_QueuesAndWindows : every [
    (trained base).tdiOpen && !(shut base).tdiOpen, ((inContext 63 0 0).inContext.isSome), ((base.queue 63).inContext.isNone),
    (let x := { SubQueue.reset 0 with size := 64, waiting := [⟨9, 9, 0x40, true⟩] }
     x.cplRoom && !{ x with cqTail := 64 }.cplRoom),
    (let s := { base with queues := [pendingQueue 0 1, pendingQueue 1 1] }
     decide (s.inContexts.length < 16) && (s.queue 0).inContext.isNone && (s.queue 0).pending && s.queues.all fun y => decide (y.qprio = 1 ∧
       y.pendingFor s.pkgCycle ≤ (s.queue 0).pendingFor s.pkgCycle)),
    (let s := { base with queues := [pendingQueue 0 0, pendingQueue 1 1] }
     (s.queue 1).pending && decide ((s.queue 0).qprio < (s.queue 1).qprio)),
    (let s := { base with queues := pendingQueue 0 0 :: (List.range 16).map fun i => inContext (i + 1) 0 i }
     decide (16 ≤ s.inContexts.length) && (s.queue 0).pending && (s.queue 0).inContext.isNone),
    (let s := { base with queues := [inContext 0 0 0, pendingQueue 1 0], pkgCycle := 2 ^ 16 }
     (s.queue 1).pending && (s.queue 0).inContext.isSome && (s.queue 0).emptySince == some 0 && decide (2 ^ 16 ≤ s.pkgCycle)),
    (let s := { base with queues := [inContext 0 0 0, pendingQueue 1 0, inContext 2 0 5], pkgCycle := 2 ^ 20 }
     (s.queue 1).pending && decide (2 ^ 20 ≤ (s.queue 1).pendingFor s.pkgCycle) && s.inContexts.all fun z => decide ((s.queue 0).qprio = z.qprio ∧
       (0 : Nat) ≤ z.inContext.getD 0)),
    decide (base.level ≤ 8 * 2 ^ 24 ∧ base.level - 8 + 1 * 8 ≤ 8 * 2 ^ 24), isBoundary 896 && isBoundary 128 && !isBoundary 1024 && !isBoundary 0,
    (let p := base.bwPort 0 3
     p.held.isEmpty && p.buckets.map (·.1) == uniq (p.buckets.map (·.1))),
    (let p := (ported [(0, 1)]).bwPort 0 3
     p.held.isEmpty && p.buckets == [(0, 1)] && [0].contains 0)] = true := by decide +kernel

/-- One line stands behind at most one port, whichever die is its home (log entry 7). -/
theorem witness_QueuesAndWindows_line : linesBehind 0 3 0x300 64 ≤ 1 := List.length_filter_le ..

def ring (size tail : Nat) (s : State) : State := s.setRing { s.hallmark.events with base := 0x240000, size := size, tail := tail, reserve := [List.replicate 32 1] }

theorem witness_HostRegisters : every [
    ((ring 64 0 (tables base)).hallmark.events.room && ((ring 64 0 (tables base)).write0 0x240000 (List.replicate 32 1)).isSome),
    !(ring 64 64 base).hallmark.events.room && !(ring 64 64 base).hallmark.events.reserve.isEmpty,
    !base.hallmark.linkUp && (trained base).hallmark.linkUp && (trained base).tdiOpen && !(shut base).tdiOpen && (shut base).hallmark.linkUp,
    (trained base).hostMapped 0x20000 8 && memWf base.mem && (List.range 8).all fun i => base.frameOwner (0x20000 + i) == 0,
    (let s := { base with owners := [(3, 1)] }
     (trained s).hostMapped 0x2FFF8 16 && s.frameOwner 0x30000 == 1 && !s.hallmark.events.room),
    decide ((63 : Nat) < 64 ∧ (255 : Nat) < 256 ∧ (128 : Nat) * 256 / 256 % 256 ≤ 128 ∧ 20 ≤ (20 : Nat) % 32 ∧ (30 : Nat) % 32 ≤ 30 ∧ (32 : Nat) < 33),
    { trained base with agenda := [.barRead 0x0800] }.hallmark.linkUp] = true := by decide +kernel

/-- The debug window of the placed core; `kind` and `index` stand in DBGADDR. -/
def debugged (kind index : Nat) (quiet : Bool) (s : State) : State := s.setDebug core0 fun d => { d with
  halt := true, halted := true, quiet := quiet, addr := BitVec.ofNat 64 (kind * 2 ^ 60 + index) }
def debugSees (kind index : Nat) (f : Debug → Strand → Bool) (s : State := base) : Bool :=
  let r := debugged kind index true (trained s)
  let d := (r.core core0).dbg
  r.hallmark.linkUp && d.kind == kind && d.index == index && (r.strand? ⟨0, 0, d.slot⟩).any (f d)

theorem witness_DebuggerAccess : every [
    strandHas base fun t => !t.super, (debugged 0 0 false base).isQuiet core0 && ((debugged 0 0 false base).core core0).dbg.halt,
    (let s := debugged 0 0 false (waits (.remote 77 9 [0] (.pin 1) [77] []) base)
     !s.isQuiet core0), ((debugged 0 0 false base).core core0).dbg.halted, !(base.core core0).dbg.halted,
    debugSees 0 63 fun d t => t.world == 0 && d.halted && d.quiet, debugSees 0 64 fun _ t => t.world == 0, debugSees 4 0 fun _ t => t.frame.isNone,
    debugSees 5 0 (fun _ t => t.frame.isSome) (strandIs (fun t => { t with frame := some (framed 1) }) base),
    debugSees 2 0 (fun _ t => t.world != 0) (strandIs (fun t => { t with world := 1 }) base),
    (let r := debugged 0 0 true (noStrands base)
     (r.strand? ⟨0, 0, (r.core core0).dbg.slot⟩).isNone), debugSees 15 0 fun _ _ => true, debugSees 2 0 fun _ t => t.world == 0,
    debugSees 4 0 (fun _ t => t.frame.isSome) (strandIs (fun t => { t with frame := some (framed 1) }) base),
    (base.strand? ⟨0, 0, (base.core core0).dbg.slot⟩).any fun t => t.frame.isNone && !(base.core core0).dbg.halted && (base.core core0).dbg.kind == 0,
    (let r := debugged 3 (2048 - 8) true (trained base)
     let r := r.putCore { r.core core0 with grotto := [⟨0, [1], []⟩] }
     (r.core core0).dbg.index == 2040 && (r.core core0).grottoAt (2040 + 7)),
    (let r := debugged 3 (2 ^ 21 - 8) false base
     (r.core core0).grotto.isEmpty && ((r.strandsOn core0).all fun t => t.world == 0) && (r.core core0).dbg.index == 2 ^ 21 - 8 &&
       ((r.launch? (r.core core0).launch).all fun l => l.world == 0))] = true := by decide +kernel

def bootWith (fw io rt : Bool) : BootInput := ⟨fw, io, [true, true, false], [true, false, true], false, rt, [1, 2, 3], [7, 8, 9], [], [], [], 0x10000, 0, [], 0x100000, [], 0x100000, 0, 0⟩
/-- World 1 with tables of its own that map the frame 4, which it owns. -/
def world1 (s : State) : State := { pokes [(0x140000, 8, 0x150001), (0x150000, 8, 2 ^ 56 + 0x807)] (tables s) with
  worlds := [⟨0, ⟨0, 0, Vector.replicate 8 0⟩, 0x100000, [], 0, 0, 0, [], []⟩, ⟨1, ⟨0, 0, Vector.replicate 8 0⟩, 0x140000, [1], 0, 0, 0, [], []⟩]
  owners := [(4, 1)] }
/-- A package of 16 bytes at an address, with one policy entry of a kind. -/
def package (addr ms0 kind : Nat) (s : State) : State := pokes [(addr, 4, 0x01575847), (addr + 4, 2, 1), (addr + 6, 2, 1), (addr + 8, 8, 16),
  (addr + 16, 48, ms0), (addr + 256, 1, kind)] (world1 s)
def headOf (s : State) (addr : Nat) (f : List Byte → Bool) : Bool := (s.pkgHead addr).any f

theorem witness_HallmarkBoot : every [
    State.reset.powerGood && !(bootWith false true true).firmwareOk && runtimeWorldOk (bootWith false true true),
    !runtimeWorldOk { bootWith true true true with runtimeWorld := 1 }, (bootWith true false true).firmwareOk && !(bootWith true false true).ioOk,
    (bootWith true true true).ioOk && !(bootWith true true true).opticsOk && (bootWith true true true).runtimeOk && State.reset.strands.isEmpty &&
      dieSays (bootWith true true true).dieOk 0 && dieSays (bootWith true true true).trainOk 0, !(bootWith true true false).runtimeOk,
    (bootWith true true true).engines == [7, 8, 9] && { bootWith true true true with opticsOk := true }.opticsOk,
    (bootWith true true true).image.all fun x => decide ((0x200000 : Nat) < x.1),
    (let s := { trained State.reset with agenda := [.measurement 11] }
     s.hallmark.linkUp && !(s.die 1).released), (2 ^ 36 - 320) % 65536 != 0 && 0x40000 % 65536 == 0,
    (let s := (runtimeAt 0).putDie { Die.reset 0 with released := true, runtimeFault := true }
     (s.strand? ⟨0, 0, 15⟩).isSome && (s.die 0).runtimeFault && (s.die 0).released), ((world1 base).world? 1).isSome,
    ((tables base).pkgHead 0x20000).isNone, headOf (package 0x20000 1 4 base) 0x20000 fun h => leAt h 16 48 != 0,
    headOf (package 0x20000 0 4 base) 0x20000 fun h => leAt h 16 48 == 0 && !(package 0x20000 0 4 base).regionOwned 1 0x40000 65537,
    headOf (package (2 ^ 36 - 320) 0 4 base) (2 ^ 36 - 320) fun h => (package (2 ^ 36 - 320) 0 4 base).regionOwned 1 0x40000 65536 &&
      ((package (2 ^ 36 - 320) 0 4 base).pkgPlain (2 ^ 36 - 320) h).isNone,
    !(base.admitsDevice ⟨1, 0, 0x40000, 65536, [(3, 0)], false, 0⟩) && base.admitsDevice ⟨1, 0, 0x40000, 65536, [(4, 0)], false, 0⟩,
    (let s := { base with packages := [⟨1, 1, 0x40000, 65536, [(4, 0)], false, 0⟩] }
     (s.packages.find? fun x => x.world == 1 && x.handle == 1).any fun p => !s.pkgBound p),
    (let s := { launched (stageIs (fun g => { g with world := 1, pkg := 1 }) base) with packages := [⟨1, 1, 0x40000, 65536, [(4, 0)], false, 0⟩] }
     (s.packages.find? fun x => x.world == 1 && x.handle == 1).any fun p => s.pkgBound p),
    memWf (tables base).mem && (tables base).worldOk ⟨254, 0x140000, [1], 0, [4], 0, 0⟩, !(tables base).worldOk ⟨255, 0x140000, [1], 0, [4], 0, 0⟩,
    ((world1 base).world? 1).isSome && memWf (world1 base).mem && (world1 base).launches.all fun l => l.world != 1] = true := by decide +kernel

/-- The placed strand may issue a word, and what it then reads meets `f`. -/
def issues (w : Nat) (f : Strand → Instr → Bool) (g : State → State := id) : Bool :=
  let s := g (State.reset.placeWord w)
  strandHas s fun t => !t.super && t.world == 0 && s.canIssue t && match (fetchDecode s t).2 with | .instr i => f t i | _ => false

theorem witness_ErrorsAndHeat : every [
    issues 0x1000_28C3_8000_0000 fun t i => (sourceRefs i t).any (Ref.names .s 6), issues 0x0040_0000_0000_0000 fun t i => !(sourceRefs i t).any (Ref.names .s 6),
    (encode (.vadd { vec with a := 32 })).any fun w => issues w fun t i => (allRefs i t).any fun x => match x with | .vsrc f _ => decide (32 ≤ f) | _ => false,
    issues 0x0040_0000_0000_0000 fun t i => (chanReads i t).isEmpty && (allRefs i t).all fun x => match x with | .vsrc f _ => decide (f < 32) | _ => true,
    (match encode (.mstat g0 5 0 false false), encode (.maccv g0 1 0 6 true true false) with
      | some a, some b => issues a (fun t i => t.ops.isEmpty && i == .mstat g0 5 0 false false) &&
        issues b fun t i => t.ops.isEmpty && i == .maccv g0 1 0 6 true true false
      | _, _ => false),
    strandHas (withOp (opOf .mma true) base) fun t => t.ops.all fun o => o.begun && o.handle == some 0 && o.poison.isNone,
    ((stip base).launch? 1).any fun l => (l.ests.toList[0]?).any Option.isSome,
    ((asking 9 1 fun p => p.putLease (leaseOf [1, 2] 0 false)).port 2).lease 0 9 |>.isSome, (sessReady.session 7).state == .opened,
    decide (4096 < (4097 : Nat)), decide (110 ≤ (110 : Nat) ∧ (109 : Nat) < 110)] = true := by decide +kernel

/-! ### The machine as a whole -/

theorem witness_StepRunsDecoded : every [
    (let s := { State.reset.placeWord 0x0040_0000_0000_0000 with agenda := [] }
     (s.selected core0 []).any fun t => (match fetchWord s t with
       | (s1, .ok w) => decode w == .instr (.nop g0) && !(s1.core core0).anyAsleep (banksNeeded (.nop g0) t) &&
         (nextOf (exec (.nop g0) (s1.markIssue t (.nop g0)))).any fun s' => (s'.stallAt t.at_).isNone
       | _ => false) && okB (fetchBytes s t)),
    (let s := { State.reset.placeWord 0x0040_0000_0000_0000 with agenda := [] }
     let s := s.putCore { s.core core0 with banks := Vector.replicate 8 ⟨.retention, 0⟩ }
     (s.selected core0 []).any fun t => match fetchWord s t with
       | (s1, .ok _) => (s1.core core0).anyAsleep (banksNeeded (.nop g0) t)
       | _ => false),
    (let s := strandIs (fun t => { t with unacked := [⟨9, 1, 0x40, 77, none⟩] }) { State.reset.placeWord 0x3180_0000_015F_0000 with agenda := [] }
     let i : Instr := .fence g0 .rel .pod 15
     (s.selected core0 []).any fun t => match fetchWord s t with
       | (s1, .ok w) => decode w == .instr i && !(s1.core core0).anyAsleep (banksNeeded i t) &&
         (nextOf (exec i (s1.markIssue t i))).any fun s' => (s'.stallAt t.at_).isSome
       | _ => false),
    (let s := State.reset.placeWord 0x0040_0000_0000_0000
     ((s.holdBack core0 []).selected core0 []).any fun t => match fetchWord (s.holdBack core0 []) t with
       | (_, .ok w) => decode w == .instr (.nop g0) && (s.strandsOn core0).contains t && s.isReady [] t
       | _ => false),
    { base with agenda := [.unit slot0 0 []] }.agenda.length == 1,
    State.reset.agenda.isEmpty && (State.reset.selected core0 []).isNone, isEvent .eventReserveWrite] = true := by decide +kernel

theorem witness_EncodeDecode : every [(Instr.nop g0).wf, encode (.nop g0) == some 0x0040000000000000,
    decode 0x0040000000000000 == .instr (.nop g0)] = true := by decide +kernel

theorem witness_StepKeepsMemory : every [memWf State.reset.mem, State.reset.cores.isEmpty, memWf base.mem,
    (nextOf (step (State.reset.placeWord 0x0040_0000_0000_0000))).isSome] = true := by decide +kernel

theorem witness_StepKeepsCaps : every [decide (1 ≤ base.hallmark.hostcap ∧ base.hallmark.hostcap ≤ 8 ∧ 1 ≤ base.hallmark.thermcap ∧ base.hallmark.thermcap ≤ 8),
    (nextOf (exec (.nop g0) base)).isSome, !((Instr.nop g0) == .powerOff)] = true := by decide +kernel

theorem witness_TrapsAndFrame : every [
    !isEvent (.vfadd vec false .dyn) && (base.strand? base.focus).any fun t => !encOk (.vfadd vec false .dyn) t,
    (base.strand? base.focus).any fun t => encOk (.sel g0 5 6 7 16 false) t && !refsOk (.sel g0 5 6 7 16 false) t,
    (base.strand? base.focus).any fun t => !elementGuarded (.nop ⟨1, false⟩) && !t.guardBit ⟨1, false⟩ 0,
    (base.strand? base.focus).any fun t => encOk (.tret g0 4) t && refsOk (.tret g0 4) t && t.guardBit g0 0 && !privOk (.tret g0 4) t,
    strandHas base fun t => !t.super && t.world == 0, strandHas (strandIs (fun t => { t with world := 1 }) base) fun t => t.world != 0,
    (let s := State.reset.placeWord 0
     strandHas s fun t => s.canIssue t && match (fetchDecode s t).2 with | .fault x => x.cause == causeIllegalOp | _ => false),
    strandHas base fun u => u.at_ == base.focus] = true := by decide +kernel

/-! ### Witnesses over the opaque ciphers (log entry 5) -/

/-- A strand that waits for CDEC of one byte, over a memory `m`. -/
def decoding (m : List (Nat × Byte)) : State := { session .opened (waits (.cdec 0 0x20000 1 7 1 0 9) (paged base)) with mem := m }
def record5 : List Byte := (session7 .opened).record 5 [7]

theorem record5_decrypts : (session7 .opened).decrypt record5 1 = some [7] := by
  have h : record5 = beBytes 8 5 ++ gcmStream 5 ((session7 .opened).iv 5) [7] ++ gcmTagBytes 5 ((session7 .opened).iv 5) (gcmStream 5 ((session7 .opened).iv 5) [7]) := rfl
  have h8 : (beBytes 8 5).length = 8 := by decide
  have hn : beNat (beBytes 8 5) = 5 := by decide
  have h1 : (gcmStream 5 ((session7 .opened).iv 5) [7]).length = 1 := rfl
  have e1 : record5.take 8 = beBytes 8 5 := by rw [h, List.append_assoc, List.take_append_of_le_length (by omega), List.take_of_length_le (by omega)]
  have e2 : record5.drop 8 = gcmStream 5 ((session7 .opened).iv 5) [7] ++ gcmTagBytes 5 ((session7 .opened).iv 5) (gcmStream 5 ((session7 .opened).iv 5) [7]) := by
    rw [h, List.append_assoc, List.drop_append_of_le_length (by omega), List.drop_of_length_le (by omega)]; rfl
  have e3 : record5.drop (8 + 1) = gcmTagBytes 5 ((session7 .opened).iv 5) (gcmStream 5 ((session7 .opened).iv 5) [7]) := by
    rw [← List.drop_drop, e2, List.drop_append_of_le_length (by omega), List.drop_of_length_le (by omega)]; rfl
  have e4 : (record5.drop 8).take 1 = gcmStream 5 ((session7 .opened).iv 5) [7] := by
    rw [e2, List.take_append_of_le_length (by omega), List.take_of_length_le (by omega)]
  unfold Session.decrypt
  simp only [e1, hn, e3, e4]
  rw [if_pos (by simp [session7])]
  simp [gcmStream, session7, nth, BitVec.xor_assoc]

/-- The strand that waits for CDEC reads a record of 25 bytes. -/
theorem decoding_reads (rec : List Byte) (hl : rec.length = 25) :
    let s := decoding (memSetBytes base.mem 0x20000 rec)
    ∃ v x s1 src dst, s.strand? slot0 = some v ∧ v.wait = some (.cdec 0 0x20000 1 7 1 0 9) ∧ v.pending = [] ∧ v.frame = none ∧ v.held = none ∧
      s.slotFor v.world 7 = some x ∧ s.cdecChecks v 0 0x20000 1 = (s1, .ok (src, dst)) ∧ src.map (s1.byteAt []) = rec ∧ x = session7 .opened := by
  intro s
  refine ⟨_, _, s, (List.range 25).map fun i => .phys (0x20000 + i), [.spad core0 0], rfl, rfl, rfl, rfl, rfl, rfl, rfl, ?_, rfl⟩
  apply List.ext_getElem (by simp [hl])
  intro i h1 h2
  simp only [List.getElem_map, List.getElem_range, State.byteAt, List.find?_nil]
  exact memGet_memSetBytes_inside (m := base.mem) 0x20000 i rec (by decide +kernel) (by omega)

/-- A fresh counter with its tag, and with a tag that is not the one of its ciphertext. -/
theorem witness_Sessions_accepts : record5.length = 25 ∧ 4 < beNat (record5.take 8) ∧ beNat (record5.take 8) < 2 ^ 63 ∧
    (session7 .opened).decrypt record5 1 = some [7] := by
  refine ⟨rfl, ?_, ?_, record5_decrypts⟩ <;>
  · rw [show record5.take 8 = beBytes 8 5 from rfl]; decide

theorem witness_Sessions_refuses : ∃ rec : List Byte, rec.length = 25 ∧ beNat (rec.take 8) = 5 ∧
    (session7 .opened).decrypt rec 1 = none := by
  let mk := fun (b : Byte) => beBytes 8 5 ++ [0] ++ List.replicate 16 b
  by_cases h : List.replicate 16 (0 : Byte) = gcmTagBytes (session7 .opened).key ((session7 .opened).iv 5) [0]
  · refine ⟨mk 1, rfl, by decide, ?_⟩
    unfold Session.decrypt
    simp only [show (mk 1).drop (8 + 1) = List.replicate 16 1 from rfl, show beNat ((mk 1).take 8) = 5 by decide,
      show ((mk 1).drop 8).take 1 = [0] from rfl]
    rw [if_neg (by rw [← h]; simp)]
  · refine ⟨mk 0, rfl, by decide, ?_⟩
    unfold Session.decrypt
    simp only [show (mk 0).drop (8 + 1) = List.replicate 16 0 from rfl, show beNat ((mk 0).take 8) = 5 by decide,
      show ((mk 0).drop 8).take 1 = [0] from rfl]
    rw [if_neg (by simpa using h)]

/-- A package of 16 bytes at 0x300000 with two policy entries, the second of which ends in a byte that is not zero. -/
def packaged : State := pokes [(0x300000, 4, 0x01575847), (0x300004, 2, 1), (0x300006, 2, 2), (0x300008, 8, 16), (0x300100, 1, 4),
  (0x300140, 1, 1), (0x30017F, 1, 1)] (world1 base)
def packHead : List Byte := (packaged.pkgHead 0x300000).getD []
def packKey : Nat := Config.packageKey packaged.hallmark.slots[0] ((packHead.drop 64).take 97) (packHead.take 64)
def packIv : Nat := beNat ((packHead.drop 164).take 12)
/-- Three plaintexts of one empty segment: at offset 0, at one that is no multiple of 8, and beyond the region. -/
def plaintext (k : Fin 3) : List Byte := leBytes 8 (match k with | 0 => 0 | 1 => 1 | 2 => 0x20000) ++ List.replicate 8 0
def packText (k : Fin 3) : List Byte := gcmStream packKey packIv (plaintext k)
def packBody (k : Fin 3) : List Byte := packText k ++ beBytes 16 (Config.packageTag packKey packIv packHead (packText k))
def loaded (k : Fin 3) : State := { packaged with mem := memSetBytes packaged.mem 0x300180 (packBody k) }

theorem memBytes_memSetBytes {m : List (Nat × Byte)} (a : Nat) (bs : List Byte) (h : memWf m = true) :
    memBytes (memSetBytes m a bs) a bs.length = bs := by
  apply List.ext_getElem (memBytes_length ..)
  intro i h1 h2
  have e : ∀ (n c j : Nat) (l : List (Nat × Byte)) (hj : j < (memBytes l c n).length), (memBytes l c n)[j] = memGet l (c + j) := by
    intro n
    induction n with
    | zero => intro c j l hj; simp [memBytes] at hj
    | succ n ih =>
      intro c j l hj
      cases j with
      | zero => rfl
      | succ j => simp only [memBytes, List.getElem_cons_succ]; rw [ih]; congr 1; omega
  rw [e, memGet_memSetBytes_inside a i bs h h2]


theorem packBody_read (k : Fin 3) : (loaded k).read0 (0x300000 + packHead.length) (16 + 16) = some (packBody k) := by
  have hl : 0x300000 + packHead.length = 0x300180 := by decide +kernel
  have hw : worldRuns (loaded k) 0 readable0 2 0x300180 32 = some [(0x300180, 32)] := by revert k; decide +kernel
  have hp : (loaded k).runPoisoned [(0x300180, 32)] = false := by
    have e : packaged.poison = [] := by decide +kernel
    simp only [State.runPoisoned, loaded, e]; decide
  have hm := memBytes_memSetBytes (m := packaged.mem) 0x300180 (packBody k) (by decide +kernel)
  have h32 : ∀ k, (packBody k).length = 32 := by decide +kernel
  rw [h32 k] at hm
  rw [hl]
  unfold State.read0
  rw [show (16 + 16) / 65536 + 2 = 2 from rfl, hw]
  simp only [hp, State.runBytes, List.flatMap_cons, List.flatMap_nil, List.append_nil, Bool.false_eq_true, if_false]
  simp only [loaded, hm]

theorem witness_HallmarkBoot_loads (k : Fin 3) :
    (loaded k).pkgHead 0x300000 = some packHead ∧ leAt packHead 16 48 = (loaded k).hallmark.slots[0] ∧
      (loaded k).regionOwned 1 0x40000 65536 = true ∧ (loaded k).pkgPlain 0x300000 packHead = some (plaintext k) ∧
      (loaded k).admitsDevice ⟨1, 0, 0x40000, 65536, (polsOf packHead).map polEntry, false, 0⟩ = true := by
  refine ⟨by revert k; decide +kernel, by revert k; decide +kernel, by revert k; decide +kernel, ?_, by revert k; decide +kernel⟩
  unfold State.pkgPlain
  have hn : leAt packHead 8 8 = 16 := by decide +kernel
  have ht : (packBody k).take 16 = packText k := rfl
  have hd : (packBody k).drop 16 = beBytes 16 (Config.packageTag packKey packIv packHead (packText k)) := rfl
  have hk : Config.packageKey (loaded k).hallmark.slots[0] ((packHead.drop 64).take 97) (packHead.take 64) = packKey := rfl
  have hi : beNat ((packHead.drop 164).take 12) = packIv := rfl
  simp only [hn, packBody_read, hk, hi, ht, hd]
  rw [if_pos (by simp)]
  exact congrArg some (gcmStream_gcmStream packKey packIv _)

/-- The segments of the three: they fit, they are no segments, they do not fit. -/
theorem witness_HallmarkBoot_segments : (weightSegs 2 (plaintext 0)).any (segsFit 65536) = true ∧ weightSegs 2 (plaintext 1) = none ∧
    (weightSegs 2 (plaintext 2)).any (fun l => !segsFit 65536 l) = true := by decide +kernel

end Sys2Proof.Tests
end

section
/-! SUPPORT. The rules of the scalar registers (01 R11): what a read returns after a write, and what the write leaves alone. The bit
fields of numbers and words. -/

namespace Sys2Proof.Machine

/-! ## Scalars (01 R11) -/

@[simp] theorem Strand.setS_regs_v (t : Strand) (n : Nat) (w : Word) : (t.setS n w).regs.v = t.regs.v := by
  unfold Strand.setS; split <;> rfl

@[simp] theorem Strand.setS_regs_p (t : Strand) (n : Nat) (w : Word) : (t.setS n w).regs.p = t.regs.p := by
  unfold Strand.setS; split <;> rfl

@[simp] theorem Strand.setS_regs_vl (t : Strand) (n : Nat) (w : Word) : (t.setS n w).regs.vl = t.regs.vl := by
  unfold Strand.setS; split <;> rfl

@[simp] theorem Strand.setS_regs_vtype (t : Strand) (n : Nat) (w : Word) : (t.setS n w).regs.vtype = t.regs.vtype := by
  unfold Strand.setS; split <;> rfl

/-- A scalar below s64 reads the word last written to it; s0 takes no write. -/
theorem Strand.rs_setS_same (t : Strand) {n : Nat} (w : Word) (hn : n < 64) (h0 : n ≠ 0) : (t.setS n w).rs n = w := by
  simp [Strand.rs, Strand.setS, h0, hn]

theorem Strand.rs_setS_other (t : Strand) {n r : Nat} (w : Word) (h : r ≠ n) : (t.setS n w).rs r = t.rs r := by
  unfold Strand.setS
  split
  · rfl
  · simp [Strand.rs, Vector.getElem?_setIfInBounds_ne (Ne.symm h)]

theorem Strand.rn_setS_same (t : Strand) {n : Nat} (w : Word) (hn : n < 64) (h0 : n ≠ 0) : (t.setS n w).rn n = w.toNat :=
  congrArg BitVec.toNat (t.rs_setS_same w hn h0)

theorem Strand.rn_setS_other (t : Strand) {n r : Nat} (w : Word) (h : r ≠ n) : (t.setS n w).rn r = t.rn r :=
  congrArg BitVec.toNat (t.rs_setS_other w h)

@[simp] theorem Strand.vl_setS (t : Strand) (n : Nat) (w : Word) : (t.setS n w).vl = t.vl :=
  congrArg BitVec.toNat (t.setS_regs_vl n w)

/-- A register's value written as a number is the register's word. -/
theorem Strand.setN_toNat (t : Strand) (n : Nat) (w : Word) : t.setN n w.toNat = t.setS n w := by
  simp [Strand.setN]

/-! ## Bit fields -/

theorem bitAt_eq_testBit (w k : Nat) : bitAt w k = w.testBit k := by
  rw [Nat.testBit_eq_decide_div_mod_eq]
  rfl

theorem field_lt (x k n : Nat) : field x k n < 2 ^ n := Nat.mod_lt _ (Nat.two_pow_pos n)

/-- The bits above `w` of a number start at bit 0 of its quotient. -/
theorem field_add (x w k n : Nat) : field x (w + k) n = field (x / 2 ^ w) k n := by
  rw [field, field, Nat.pow_add, Nat.div_div_eq_div_mul]

theorem field_zero (w n : Nat) : field w 0 n = w % 2 ^ n := by simp [field]

/-- The low bits of a word, as a mask keeps them. -/
theorem ofNat_field_zero (w : Word) {n : Nat} (hn : n ≤ 64) :
    BitVec.ofNat 64 (field w.toNat 0 n) = w &&& BitVec.ofNat 64 (2 ^ n - 1) := by
  apply BitVec.eq_of_toNat_eq
  have hp : 2 ^ n ≤ 2 ^ 64 := Nat.pow_le_pow_right (by decide) hn
  have h1 : 2 ^ n - 1 < 2 ^ 64 := by have := Nat.two_pow_pos n; omega
  have h2 : w.toNat % 2 ^ n < 2 ^ 64 := Nat.lt_of_lt_of_le (Nat.mod_lt _ (Nat.two_pow_pos n)) hp
  rw [BitVec.toNat_and, BitVec.toNat_ofNat, BitVec.toNat_ofNat, field_zero, Nat.mod_eq_of_lt h1, Nat.mod_eq_of_lt h2,
    Nat.and_two_pow_sub_one_eq_mod]

/-- A mask of five bits at bit 8 keeps the field there. -/
theorem and_mask_core (n : Nat) : n &&& 0x1F <<< 8 = field n 8 5 <<< 8 := by
  have e : field n 8 5 = n >>> 8 &&& 0x1F := by
    rw [show 0x1F = 2 ^ 5 - 1 from rfl, Nat.and_two_pow_sub_one_eq_mod, Nat.shiftRight_eq_div_pow, field]
  apply Nat.eq_of_testBit_eq
  intro i
  simp only [e, Nat.testBit_and, Nat.testBit_shiftLeft, Nat.testBit_shiftRight]
  by_cases h : 8 ≤ i <;> simp [h]

/-- The fields of FSEL that exist (01 R28): CORE at bit 8 and SLOT at bit 0. -/
theorem ofNat_fselFields (w : Word) : BitVec.ofNat 64 (field w.toNat 8 5 * 256 + field w.toNat 0 4) = w &&& 0x1F0F := by
  apply BitVec.eq_of_toNat_eq
  have mask : (0x1F0F : Word).toNat = 0x1F <<< 8 ||| (2 ^ 4 - 1) := by decide
  have core : field w.toNat 8 5 < 32 := Nat.mod_lt _ (by decide)
  have slot : field w.toNat 0 4 < 2 ^ 8 := Nat.lt_of_lt_of_le (Nat.mod_lt _ (by decide)) (by decide : 2 ^ 4 ≤ 2 ^ 8)
  have disjoint := Nat.shiftLeft_add_eq_or_of_lt slot (field w.toNat 8 5)
  rw [BitVec.toNat_and, BitVec.toNat_ofNat, mask, Nat.and_or_distrib_left, and_mask_core, Nat.and_two_pow_sub_one_eq_mod,
    ← field_zero w.toNat 4, ← disjoint, Nat.shiftLeft_eq]
  exact Nat.mod_eq_of_lt (by omega)

end Sys2Proof.Machine
end

section
/-! SUPPORT. GETSR and SETSR, said once for each kind of system register (01 R25 to R29; 17 R311). -/

namespace Sys2Proof.Machine

/-- An admitted GETSR of a defined register writes sD with what the read gives, in the state that the read leaves. -/
theorem exec_getsr {g : Guard} {d n : Nat} {s : State} {t u : Strand} (h : Admits (.getsr g d n) s t u)
    (hn : srDefined n = true) : exec (.getsr g d n) s = .next ((readSr s u n).1.complete (u.setN d (readSr s u n).2)) := by
  refine (gated_of_admits h _).trans ?_
  simp [hn]

theorem exec_getsr_number {g : Guard} {d n v : Nat} {s s' : State} {t u : Strand} (h : Admits (.getsr g d n) s t u)
    (hn : srDefined n = true) (hr : readSr s u n = (s', v)) : exec (.getsr g d n) s = .next (s'.complete (u.setN d v)) := by
  rw [exec_getsr h hn, hr]

theorem exec_getsr_word {g : Guard} {d n : Nat} {w : Word} {s s' : State} {t u : Strand} (h : Admits (.getsr g d n) s t u)
    (hn : srDefined n = true) (hr : readSr s u n = (s', w.toNat)) :
    exec (.getsr g d n) s = .next (s'.complete (u.setS d w)) := by
  rw [exec_getsr_number h hn hr, Strand.setN_toNat]

/-- An admitted SETSR of a defined register writes the word of sA. -/
theorem exec_setsr {g : Guard} {a n : Nat} {s s' : State} {t u : Strand} (h : Admits (.setsr g a n) s t u)
    (hn : srDefined n = true) (hw : writeSr s u n (u.rs a).toNat = s') : exec (.setsr g a n) s = .next s' := by
  refine (gated_of_admits h _).trans ?_
  simp [hn, ← hw, Strand.rn]

theorem exec_setsr_undefined {g : Guard} {a n : Nat} {s : State} {t u : Strand} (h : Admits (.setsr g a n) s t u)
    (hn : srDefined n = false) : exec (.setsr g a n) s = .next (s.trap u ⟨causeIllegalReg, 0, 0⟩) := by
  refine (gated_of_admits h _).trans ?_
  simp [hn]

/-- A supervisor register at user level raises PRIV, whether or not it is defined (03 R61 step 5). -/
theorem exec_setsr_user {g : Guard} {a n : Nat} {s : State} {t : Strand} (ht : s.strand? s.focus = some t)
    (hu : t.super = false) (hn : 0x100 ≤ n) (hr : refsOk (.setsr g a n) t = true) (hg : t.guardBit g 0 = true) :
    exec (.setsr g a n) s = .next (s.trap t ⟨causePriv, 0, 0⟩) := by
  have hp : privOk (.setsr g a n) t = false := by simp [privOk, hu, hn]
  have hg' : t.guardBit (guardOf (.setsr g a n)) 0 = true := hg
  show gated _ s _ = _
  simp [gated, ht, State.gatedStep, encOk, hr, hg', hp]

/-! ## The user registers -/

theorem readSr_user {s : State} {t : Strand} {n v : Nat} (h : readUserSr s t n = some v) : readSr s t n = (s, v) := by
  simp [readSr, h]

/-- FPCTL keeps its value under an RM code that does not exist, and takes its four bits otherwise (01 R26). -/
theorem writeSr_fpctl (s : State) (u : Strand) (w : Word) : writeSr s u 0x040 w.toNat =
    s.complete (if 4 < w.toNat % 8 then u else { u with regs := { u.regs with fpctl := w &&& 0xF } }) := by
  have rm : field w.toNat 0 3 = w.toNat % 8 := field_zero _ _
  have bits : BitVec.ofNat 64 (field w.toNat 0 4) = w &&& 0xF := ofNat_field_zero w (by decide)
  show s.complete { u with regs := { u.regs with fpctl := setFpctl u.regs.fpctl w.toNat } } = _
  rw [setFpctl, rm, bits]
  by_cases h : 4 < w.toNat % 8
  · rw [if_pos h, if_pos h]
  · rw [if_neg h, if_neg h]

theorem writeSr_fpflags (s : State) (u : Strand) (w : Word) : writeSr s u 0x041 w.toNat =
    s.complete { u with regs := { u.regs with fpflags := w &&& 0x1F } } := by
  simp only [writeSr, ofNat_field_zero w (n := 5) (by decide)]
  rfl

theorem writeSr_fsel (s : State) (u : Strand) (w : Word) : writeSr s u 0x100 w.toNat =
    (s.putDie { s.die u.at_.die with fsel := w &&& 0x1F0F }).complete u := by
  simp only [writeSr, ofNat_fselFields]
  rfl

/-! ## The registers of the frame that FSEL selects (17 R311) -/

/-- The slot that FSEL of a die names (01 R28). -/
def State.fselSlot (s : State) (die : Nat) : SlotId :=
  ⟨die, field (s.die die).fsel.toNat 8 5, field (s.die die).fsel.toNat 0 4⟩

theorem State.selectedFrame_some {s : State} {die : Nat} {v : Strand} {x : Frame} (hv : s.strand? (s.fselSlot die) = some v)
    (hx : v.frame = some x) : s.selectedFrame die = some (v, x) := by
  show (s.strand? (s.fselSlot die)).bind _ = _
  simp [hv, hx]

theorem State.selectedFrame_none {s : State} {die : Nat} (h : ∀ v, s.strand? (s.fselSlot die) = some v → v.frame = none) :
    s.selectedFrame die = none := by
  show (s.strand? (s.fselSlot die)).bind _ = _
  cases hv : s.strand? (s.fselSlot die) with
  | none => rfl
  | some v => simp [h v hv]

theorem isFrameSr_iff (n : Nat) :
    isFrameSr n = true ↔ (0x101 ≤ n ∧ n ≤ 0x105) ∨ (0x108 ≤ n ∧ n ≤ 0x10C) ∨ (0x140 ≤ n ∧ n < 0x180) := by
  simp [isFrameSr, or_assoc]

theorem isFrameSr_scalar {k : Nat} (hk : k < 64) : isFrameSr (0x140 + k) = true := by
  rw [isFrameSr_iff]; omega

/-- The registers that a read or a write names before the frame registers are none of these. -/
theorem isFrameSr_ne {n : Nat} (h : isFrameSr n = true) :
    0x42 ≤ n ∧ n ≠ 0x040 ∧ n ≠ 0x041 ∧ n ≠ 0x100 ∧ n ≠ 0x110 ∧ n ≠ 0x120 := by
  rw [isFrameSr_iff] at h; omega

theorem srDefined_of_isFrameSr {n : Nat} (h : isFrameSr n = true) : srDefined n = true := by simp [srDefined, h]

/-- The user registers end below the frame registers. -/
theorem readUserSr_none (s : State) (t : Strand) {n : Nat} (h : 0x42 ≤ n) : readUserSr s t n = none := by
  rw [readUserSr] <;> omega

theorem readSr_parked {s : State} {t v : Strand} {x : Frame} {n : Nat} (h : isFrameSr n = true)
    (hs : s.selectedFrame t.at_.die = some (v, x)) :
    readSr s t n = (if 0x140 ≤ n then s.touchScalar v (n - 0x140) else s, readFrameSr s v x n) := by
  obtain ⟨low, _, _, fsel, tpop, size⟩ := isFrameSr_ne h
  simp [readSr, readUserSr_none s t low, fsel, tpop, size, hs]

theorem readSr_notParked {s : State} {t : Strand} {n : Nat} (h : isFrameSr n = true)
    (hs : s.selectedFrame t.at_.die = none) : readSr s t n = (s, 0) := by
  obtain ⟨low, _, _, fsel, tpop, size⟩ := isFrameSr_ne h
  simp [readSr, readUserSr_none s t low, fsel, tpop, size, hs]

theorem readFrameSr_scalar (s : State) (v : Strand) (x : Frame) {k : Nat} (hk : k < 64) :
    readFrameSr s v x (0x140 + k) = v.rn k := by
  have h : 0x140 + k < 0x180 := by omega
  rw [readFrameSr]
  · simp [h]
  all_goals omega

theorem vprogWord_none {v : Strand} (h : v.vprog = none) : vprogWord v = 0 := by simp [vprogWord, h]

theorem vprogWord_some {v : Strand} {y : VProg} (h : v.vprog = some y) :
    vprogWord v = 2 ^ 63 + (if y.loaded then 2 ^ 16 else 0) + y.elem := by
  cases hl : y.loaded <;> simp [vprogWord, h, hl, boolNat]

/-- A read of a frame register other than a scalar changes nothing. -/
theorem readSr_parkedField {s : State} {t v : Strand} {x : Frame} {n : Nat} (h : isFrameSr n = true) (hl : n < 0x140)
    (hs : s.selectedFrame t.at_.die = some (v, x)) : readSr s t n = (s, readFrameSr s v x n) := by
  rw [readSr_parked h hs, if_neg (by omega)]

/-- A read of a scalar of the parked strand touches the register's bank (01 R24). -/
theorem readSr_parkedScalar {s : State} {t v : Strand} {x : Frame} {k : Nat} (hk : k < 64)
    (hs : s.selectedFrame t.at_.die = some (v, x)) : readSr s t (0x140 + k) = (s.touchScalar v k, (v.rs k).toNat) := by
  rw [readSr_parked (isFrameSr_scalar hk) hs, if_pos (by omega), readFrameSr_scalar s v x hk, Nat.add_sub_cancel_left]
  rfl

theorem writeSr_parked {s s' : State} {u v : Strand} {x : Frame} {n w : Nat} (h : isFrameSr n = true)
    (hs : s.selectedFrame u.at_.die = some (v, x)) (hw : writeFrameSr s v x n w = s') : writeSr s u n w = s'.complete u := by
  obtain ⟨_, fpctl, fpflags, fsel, _, _⟩ := isFrameSr_ne h
  simp [writeSr, fpctl, fpflags, fsel, h, hs, hw]

theorem writeSr_notParked {s : State} {u : Strand} {n : Nat} (w : Nat) (h : isFrameSr n = true)
    (hs : s.selectedFrame u.at_.die = none) : writeSr s u n w = s.complete u := by
  obtain ⟨_, fpctl, fpflags, fsel, _, _⟩ := isFrameSr_ne h
  simp [writeSr, fpctl, fpflags, fsel, h, hs]

/-- TVPC takes a multiple of 8 (R311). -/
theorem writeFrameSr_tvpc (s : State) (v : Strand) (x : Frame) (w : Word) : writeFrameSr s v x 0x102 w.toNat =
    if w.toNat % 8 = 0 then s.putStrand { v with frame := some { x with vpc := w } } else s := by
  simp [writeFrameSr]

/-- RESUME takes 0 and 1, and 2 where the trap came from a wait (R311). -/
theorem writeFrameSr_resume (s : State) (v : Strand) (x : Frame) (w : Nat) : writeFrameSr s v x 0x105 w =
    if w % 4 = 3 ∨ (w % 4 = 2 ∧ x.waited = false) then s
    else s.putStrand { v with frame := some { x with resume := w % 4 } } := by
  have hr : field w 0 2 = w % 4 := field_zero w 2
  simp [writeFrameSr, hr]

theorem writeFrameSr_scalar (s : State) (v : Strand) (x : Frame) (w : Word) {k : Nat} (hk : k < 64) :
    writeFrameSr s v x (0x140 + k) w.toNat = s.putStrand (v.setS k w) := by
  have h1 : 0x140 + k ≠ 0x102 := by omega
  have h2 : 0x140 + k ≠ 0x105 := by omega
  have h3 : 0x140 + k < 0x180 := by omega
  simp [writeFrameSr, h1, h2, h3, Strand.setN_toNat]

/-! ## Registers that are only read -/

/-- The system registers that a SETSR can change. -/
def srWritable (n : Nat) : Bool :=
  n == 0x040 || n == 0x041 || n == 0x100 || n == 0x102 || n == 0x105 || decide (0x140 ≤ n ∧ n < 0x180)

theorem writeFrameSr_readOnly (s : State) (v : Strand) (x : Frame) {n : Nat} (w : Nat) (h : srWritable n = false) :
    writeFrameSr s v x n w = s := by
  simp only [srWritable, Bool.or_eq_false_iff, beq_eq_false_iff_ne, decide_eq_false_iff_not] at h
  obtain ⟨⟨⟨_, h2⟩, h5⟩, hk⟩ := h
  rw [writeFrameSr, if_neg (by simpa using h2), if_neg (by simpa using h5), if_neg (by simpa using hk)]

theorem writeSr_readOnly (s : State) (u : Strand) {n : Nat} (w : Nat) (h : srWritable n = false) :
    writeSr s u n w = s.complete u := by
  by_cases hf : isFrameSr n = true
  · cases hs : s.selectedFrame u.at_.die with
    | none => exact writeSr_notParked w hf hs
    | some p => exact writeSr_parked hf hs (writeFrameSr_readOnly s p.1 p.2 w h)
  · simp only [srWritable, Bool.or_eq_false_iff, beq_eq_false_iff_ne] at h
    obtain ⟨⟨⟨⟨⟨h1, h2⟩, h3⟩, _⟩, _⟩, _⟩ := h
    simp [writeSr, h1, h2, h3, hf]

/-! ## TPOP (17 R312) -/

theorem State.tpop_nil {s : State} {die : Nat} (h : (s.die die).park = []) : s.tpop die = (s, 0) := by
  simp [State.tpop, h]

theorem State.tpop_cons {s : State} {die : Nat} {i : SlotId} {r : List SlotId} (h : (s.die die).park = i :: r)
    (hc : i.core < 32) (hs : i.slot < 16) :
    s.tpop die = (s.putDie { s.die die with park := r, fsel := BitVec.ofNat 64 (i.core * 256 + i.slot) },
      2 ^ 63 + i.core * 256 + i.slot) := by
  have hw : tpopWord i % 2 ^ 63 = i.core * 256 + i.slot := by simp only [tpopWord]; omega
  simp only [State.tpop, h, hw]
  rfl

/-- The runtime strand that stands at a GETSR of TPOP issues it. -/
theorem exec_tpopRead {g : Guard} {die d : Nat} {s s1 : State} {t : Strand} (ht : s.strand? ⟨die, 0, 15⟩ = some t)
    (hsuper : t.super = true) (hissue : s.canIssue t = true) (hf : fetchDecode s t = (s1, .instr (.getsr g d 0x110))) :
    exec (.tpopRead die d) s = exec (.getsr g d 0x110) (s1.markIssue t (.getsr g d 0x110)) := by
  show execTpopRead die d s = execGetsr g d 0x110 _
  simp [execTpopRead, ht, hf, hissue, hsuper]

/-- The strand whose issue is marked stands at the focus. -/
theorem State.strand?_markIssue (s : State) (t : Strand) (i : Instr) :
    ∃ v, (s.markIssue t i).strand? (s.markIssue t i).focus = some v :=
  ⟨_, State.strand?_putStrand_same _ _ t.at_ rfl⟩

/-- An instruction has a next state where a strand stands at the focus. -/
theorem gated_next {i : Instr} {s : State} {t : Strand} (h : s.strand? s.focus = some t) (body : State → Strand → State) :
    ∃ s', gated i s body = .next s' := ⟨s.gatedStep t i body, by simp [gated, h]⟩

end Sys2Proof.Machine
end

section
/-! SUPPORT. Vector groups and the element loop (01 R12; 06 R111, R113, R116): what a group reads after a write, what the write leaves
alone, and the elements and flags of the loop. -/

namespace Sys2Proof.Machine

/-! ## Joined elements -/

theorem joinElems_lt (w : Nat) (l : List Nat) : joinElems w l < 2 ^ (w * l.length) := by
  induction l with
  | nil => simp [joinElems]
  | cons e r ih =>
    have he : e % 2 ^ w < 2 ^ w := Nat.mod_lt _ (Nat.two_pow_pos w)
    calc joinElems w (e :: r) = e % 2 ^ w + 2 ^ w * joinElems w r := rfl
      _ < 2 ^ w * (joinElems w r + 1) := by rw [Nat.mul_add]; omega
      _ ≤ 2 ^ w * 2 ^ (w * r.length) := Nat.mul_le_mul_left _ ih
      _ = 2 ^ (w * (e :: r).length) := by rw [← Nat.pow_add, List.length_cons, Nat.mul_add, Nat.mul_one, Nat.add_comm]

/-- Element `i` of joined elements is the element joined there. -/
theorem field_joinElems (w : Nat) (l : List Nat) (i : Nat) (hi : i < l.length) :
    field (joinElems w l) (w * i) w = l[i] % 2 ^ w := by
  induction l generalizing i with
  | nil => exact absurd hi (Nat.not_lt_zero i)
  | cons e r ih =>
    have he : e % 2 ^ w < 2 ^ w := Nat.mod_lt _ (Nat.two_pow_pos w)
    cases i with
    | zero => simp [joinElems, field]
    | succ j =>
      have rest : joinElems w (e :: r) / 2 ^ w = joinElems w r := by
        rw [joinElems, Nat.add_mul_div_left _ _ (Nat.two_pow_pos w), Nat.div_eq_of_lt he, Nat.zero_add]
      rw [Nat.mul_add, Nat.mul_one, Nat.add_comm, field_add, rest]
      exact ih j (by simpa using hi)

/-! ## Groups of vector registers (01 R12) -/

/-- Writing a group changes the vector registers alone. -/
theorem Strand.setGroup_eq (t : Strand) (d n x : Nat) :
    t.setGroup d n x = { t with regs := { t.regs with v := (t.setGroup d n x).regs.v } } := by
  induction n generalizing t d x with
  | zero => rfl
  | succ n ih => rw [Strand.setGroup, ih]

theorem Strand.setGroup_other (t : Strand) {d n r : Nat} (x : Nat) (h : r < d ∨ d + n ≤ r) :
    (t.setGroup d n x).regs.v[r]? = t.regs.v[r]? := by
  induction n generalizing t d x with
  | zero => rfl
  | succ n ih =>
    have hne : d ≠ r := by omega
    rw [Strand.setGroup, ih _ _ (by omega)]
    exact Vector.getElem?_setIfInBounds_ne hne

/-- A group is read from the vector registers alone. -/
theorem Strand.vgroup_congr {t u : Strand} (h : t.regs.v = u.regs.v) (d n : Nat) : t.vgroup d n = u.vgroup d n := by
  induction n generalizing d with
  | zero => rfl
  | succ n ih => rw [Strand.vgroup, Strand.vgroup, h, ih]

/-- A group in range reads the number last written to it, reduced to the bits of its registers. -/
theorem Strand.vgroup_setGroup (t : Strand) {d n : Nat} (x : Nat) (h : d + n ≤ 32) :
    (t.setGroup d n x).vgroup d n = x % 2 ^ (vlen * n) := by
  induction n generalizing t d x with
  | zero => simp [Strand.vgroup, Nat.mod_one]
  | succ n ih =>
    have hd : d < 32 := by omega
    have first : (t.setGroup d (n + 1) x).regs.v[d]? = some (BitVec.ofNat 2048 x) :=
      (Strand.setGroup_other _ _ (.inl (Nat.lt_succ_self d))).trans (Vector.getElem?_setIfInBounds_self_of_lt hd)
    have rest : (t.setGroup d (n + 1) x).vgroup (d + 1) n = x / 2 ^ vlen % 2 ^ (vlen * n) := ih _ _ (by omega)
    rw [Strand.vgroup, first, rest, Option.getD_some, BitVec.toNat_ofNat, ← vlen, Nat.mul_add, Nat.mul_one,
      Nat.add_comm (vlen * n), Nat.pow_add, Nat.mod_mul]

/-! ## The element loop (06 R113) -/

/-- The results of the element loop, position by position. -/
def Strand.loopResults (t : Strand) (g : Guard) (d w : Nat) (tp mp : Bool) (op : Nat → Nat × Nat) : List (Nat × Nat) :=
  (List.range t.vlmax).map (t.position g tp mp (fun i => field (t.vgroup d (t.groupOf w)) (w * i) w) op)

/-- The bits that the element loop writes to its group. -/
def Strand.loopBits (t : Strand) (g : Guard) (d w : Nat) (tp mp : Bool) (op : Nat → Nat × Nat) : Nat :=
  joinElems w ((t.loopResults g d w tp mp op).map (·.1))

theorem Strand.elementwise_eq (t : Strand) (g : Guard) (d w : Nat) (tp mp : Bool) (op : Nat → Nat × Nat) :
    t.elementwise g d w tp mp op =
      (t.setGroup d (t.groupOf w) (t.loopBits g d w tp mp op)).orFlags
        (flagsOf (t.loopResults g d w tp mp op)) := rfl

/-- The element loop changes the vector registers and FPFLAGS alone. -/
theorem Strand.elementwise_frame (t : Strand) (g : Guard) (d w : Nat) (tp mp : Bool) (op : Nat → Nat × Nat) :
    t.elementwise g d w tp mp op = { t with regs := { t.regs with
      v := (t.setGroup d (t.groupOf w) (t.loopBits g d w tp mp op)).regs.v
      fpflags := t.regs.fpflags ||| BitVec.ofNat 64 (flagsOf (t.loopResults g d w tp mp op)) } } := by
  rw [Strand.elementwise_eq, Strand.setGroup_eq]
  rfl

/-- The elements of the destination after the loop. -/
theorem Strand.elementwise_element (t : Strand) (g : Guard) {d w : Nat} (tp mp : Bool) (op : Nat → Nat × Nat)
    (hd : d + t.groupOf w ≤ 32) (hw : w * t.vlmax = vlen * t.groupOf w) {i : Nat} (hi : i < t.vlmax) :
    field ((t.elementwise g d w tp mp op).vgroup d (t.groupOf w)) (w * i) w =
      (t.position g tp mp (fun i => field (t.vgroup d (t.groupOf w)) (w * i) w) op i).1 % 2 ^ w := by
  have count : ((t.loopResults g d w tp mp op).map (·.1)).length = t.vlmax := by simp [Strand.loopResults]
  have fits : t.loopBits g d w tp mp op < 2 ^ (vlen * t.groupOf w) := by
    rw [← hw, ← count]; exact joinElems_lt w _
  have group : (t.elementwise g d w tp mp op).vgroup d (t.groupOf w) = t.loopBits g d w tp mp op :=
    calc (t.elementwise g d w tp mp op).vgroup d (t.groupOf w)
        = (t.setGroup d (t.groupOf w) (t.loopBits g d w tp mp op)).vgroup d (t.groupOf w) := Strand.vgroup_congr (by rfl) d _
      _ = t.loopBits g d w tp mp op := by rw [Strand.vgroup_setGroup t _ hd, Nat.mod_eq_of_lt fits]
  rw [group, Strand.loopBits, field_joinElems w _ i (by rw [count]; exact hi)]
  simp [Strand.loopResults]

/-- A bit of the flags of a list is raised by one of its results. -/
theorem bitAt_flagsOf (l : List (Nat × Nat)) (k : Nat) : bitAt (flagsOf l) k = true ↔ ∃ r ∈ l, bitAt r.2 k = true := by
  have acc : ∀ a : Nat, (l.foldl (fun a r => a ||| r.2) a).testBit k = true ↔
      a.testBit k = true ∨ ∃ r ∈ l, r.2.testBit k = true := by
    induction l with
    | nil => simp
    | cons r l ih => intro a; simp [ih, or_assoc]
  simpa [bitAt_eq_testBit, flagsOf] using acc 0

/-- A position raises the flags of its operation when it is active, and none otherwise. -/
theorem Strand.bitAt_position (t : Strand) (g : Guard) (tp mp : Bool) (old : Nat → Nat) (op : Nat → Nat × Nat) (i k : Nat) :
    bitAt (t.position g tp mp old op i).2 k = true ↔ i < t.vl ∧ t.guardBit g i = true ∧ bitAt (op i).2 k = true := by
  have none : bitAt 0 k = false := by rw [bitAt_eq_testBit, Nat.zero_testBit]
  unfold Strand.position
  by_cases tail : t.vl ≤ i
  · simp [tail, none, Nat.not_lt.mpr tail]
  · cases hg : t.guardBit g i
    · simp [tail, none]
    · simp [tail, Nat.lt_of_not_le tail]

/-- What a position gives, at the width of its element: a tail or masked-off one is kept or zeroed (06 R116). -/
theorem Strand.position_mod (t : Strand) (g : Guard) (tp mp : Bool) {old : Nat → Nat} (op : Nat → Nat × Nat) {w i : Nat}
    (h : old i < 2 ^ w) : (t.position g tp mp old op i).1 % 2 ^ w =
      if t.vl ≤ i then (if tp then 0 else old i)
      else if t.guardBit g i = false then (if mp then 0 else old i)
      else (op i).1 % 2 ^ w := by
  have kept : ∀ z : Bool, (if z then 0 else old i) % 2 ^ w = if z then 0 else old i := fun z => by
    cases z <;> simp [Nat.mod_eq_of_lt h]
  unfold Strand.position
  by_cases tail : t.vl ≤ i
  · rw [if_pos tail, if_pos tail]
    exact kept tp
  · rw [if_neg tail, if_neg tail]
    cases hg : t.guardBit g i
    · exact kept mp
    · rfl

/-- FPFLAGS after the loop: the bits that were set, and those that an active element raises. -/
theorem Strand.elementwise_fpflags (t : Strand) (g : Guard) (d w : Nat) (tp mp : Bool) (op : Nat → Nat × Nat) {k : Nat}
    (hk : k < 64) : (t.elementwise g d w tp mp op).regs.fpflags.getLsbD k = true ↔ t.regs.fpflags.getLsbD k = true ∨
      ∃ i, i < t.vlmax ∧ i < t.vl ∧ t.guardBit g i = true ∧ bitAt (op i).2 k = true := by
  have raised : (BitVec.ofNat 64 (flagsOf (t.loopResults g d w tp mp op))).getLsbD k =
      bitAt (flagsOf (t.loopResults g d w tp mp op)) k := by
    rw [BitVec.getLsbD_ofNat, bitAt_eq_testBit, decide_eq_true hk, Bool.true_and]
  rw [Strand.elementwise_frame, BitVec.getLsbD_or, raised, Bool.or_eq_true, bitAt_flagsOf]
  refine or_congr Iff.rfl ⟨fun ⟨r, hr, raises⟩ => ?_, fun ⟨i, hi, act⟩ => ?_⟩
  · obtain ⟨i, hi, rfl⟩ := List.mem_map.mp hr
    exact ⟨i, List.mem_range.mp hi, (t.bitAt_position g tp mp _ op i k).mp raises⟩
  · exact ⟨_, List.mem_map.mpr ⟨i, List.mem_range.mpr hi, rfl⟩, (t.bitAt_position g tp mp _ op i k).mpr act⟩

/-! ## VSETL (06 R111) -/

/-- VTYPE with LG and LEW, and VL the smaller of a request and VLMAX under it (06 R111). -/
def Strand.setVtype (t : Strand) (lg lew req : Nat) : Strand :=
  let t1 := { t with regs := { t.regs with vtype := BitVec.ofNat 64 (lg * 4 + lew) } }
  { t1 with regs := { t1.regs with vl := BitVec.ofNat 64 (min req t1.vlmax) } }

/-- VLMAX follows from VTYPE alone. -/
theorem Strand.vlmax_of_vtype {t : Strand} {lg lew : Nat} (hlg : lg < 4) (hlew : lew < 4)
    (h : t.regs.vtype = BitVec.ofNat 64 (lg * 4 + lew)) : t.vlmax = 2048 * 2 ^ lg / (8 * 2 ^ lew) := by
  have word : t.regs.vtype.toNat = lg * 4 + lew := by rw [h, BitVec.toNat_ofNat]; omega
  have hlewf : t.lew = lew := by rw [Strand.lew, word, field]; omega
  have hlgf : t.lg = lg := by rw [Strand.lg, word, field]; omega
  rw [Strand.vlmax, Strand.grp, Strand.ew, hlewf, hlgf, vlen]

/-- VLMAX after a VSETL, whatever scalar it wrote. -/
theorem Strand.vlmax_setVtype (t : Strand) {lg lew : Nat} (req d : Nat) (w : Word) (hlg : lg < 4) (hlew : lew < 4) :
    ((t.setVtype lg lew req).setS d w).vlmax = 2048 * 2 ^ lg / (8 * 2 ^ lew) :=
  Strand.vlmax_of_vtype hlg hlew (Strand.setS_regs_vtype ..)

theorem Strand.vl_setVtype (t : Strand) {lg lew : Nat} (req : Nat) (hlg : lg < 4) (hlew : lew < 4) :
    (t.setVtype lg lew req).vl = min req (2048 * 2 ^ lg / (8 * 2 ^ lew)) := by
  have hmax : (t.setVtype lg lew req).vlmax = 2048 * 2 ^ lg / (8 * 2 ^ lew) := Strand.vlmax_of_vtype hlg hlew rfl
  have bound : 2048 * 2 ^ lg / (8 * 2 ^ lew) < 2 ^ 64 := by
    have h1 : 2 ^ lg ≤ 2 ^ 3 := Nat.pow_le_pow_right (by decide) (by omega)
    have h2 := Nat.div_le_self (2048 * 2 ^ lg) (8 * 2 ^ lew)
    omega
  show (BitVec.ofNat 64 (min req (t.setVtype lg lew req).vlmax)).toNat = _
  rw [hmax, BitVec.toNat_ofNat, Nat.mod_eq_of_lt (by omega)]

/-- VSETL writes VTYPE and VL, and VL to sD; the request is sA, or the immediate without one. -/
theorem exec_vsetl {g : Guard} {d a lg lew imm : Nat} {s : State} {t u : Strand} (h : Admits (.vsetl g d a lg lew imm) s t u) :
    exec (.vsetl g d a lg lew imm) s =
      let v := u.setVtype lg lew (if a = 0 then imm else u.rn a)
      .next (s.complete (v.setS d v.regs.vl)) := by
  refine (gated_of_admits h _).trans ?_
  simp only [beq_iff_eq]
  rfl

end Sys2Proof.Machine
end

section
/-! SUPPORT. The statements about the state of a strand (01): system registers, the park list, VSETL and the element loop. -/

namespace Sys2Proof.Machine

/-- Settles O12: each clause is the rule of its kind of register. -/
theorem systemRegisterAccess : Obligations.SystemRegisterAccess := by
  refine ⟨fun g d a => ?_, fun g d k s t u => ⟨fun v x hv hx hk => ?_, fun hv h1 h5 h => ?_⟩,
    fun g a k s t u => ⟨fun v x hv hx => ?_, fun hv hk h => ?_, fun hk h => ?_, fun hk h => exec_setsr_undefined h hk,
      fun ht hu hk hr hg => exec_setsr_user ht hu hk hr hg⟩⟩
  · refine ⟨?vl, ?vtype, ?vlmax, ?slot, ?core, ?quad, ?die, ?device, ?world, ?workid, ?cycle, ?fpctl, ?fpflags, ?fsel,
      ?setFpctl, ?setFpflags, ?setFsel⟩
    case vl | vtype | workid | cycle | fpctl | fpflags => exact fun s t u h => exec_getsr_word h rfl (readSr_user rfl)
    case vlmax | slot | core | quad | die | device | world => exact fun s t u h => exec_getsr_number h rfl (readSr_user rfl)
    case fsel => exact fun s t u h => exec_getsr_word h rfl rfl
    case setFpctl => exact fun s t u h => exec_setsr h rfl (writeSr_fpctl s u (u.rs a))
    case setFpflags => exact fun s t u h => exec_setsr h rfl (writeSr_fpflags s u (u.rs a))
    case setFsel => exact fun s t u h => exec_setsr h rfl (writeSr_fsel s u (u.rs a))
  · have hs := State.selectedFrame_some hv hx
    refine ⟨?cause, ?tvpc, ?taddr, ?tinfo, ?resume, ?vprog, ?scalar⟩
    case cause | resume => exact fun h => exec_getsr_number h rfl (readSr_parkedField rfl (by decide) hs)
    case tvpc | taddr | tinfo => exact fun h => exec_getsr_word h rfl (readSr_parkedField rfl (by decide) hs)
    case vprog =>
      intro h
      have read : exec (.getsr g d 0x10C) s = .next (s.complete (u.setN d (vprogWord v))) :=
        exec_getsr_number h rfl (readSr_parkedField rfl (by decide) hs)
      rw [read]
      cases hp : v.vprog with
      | none => rw [vprogWord_none hp]
      | some y => rw [vprogWord_some hp]
    case scalar => exact fun h => exec_getsr_word h (srDefined_of_isFrameSr (isFrameSr_scalar hk)) (readSr_parkedScalar hk hs)
  · have hk := (isFrameSr_iff k).mpr (.inl ⟨h1, h5⟩)
    exact exec_getsr_number h (srDefined_of_isFrameSr hk) (readSr_notParked hk (State.selectedFrame_none hv))
  · have hs := State.selectedFrame_some hv hx
    refine ⟨fun h => ?_, fun h => ?_, fun hk h => ?_⟩
    · exact exec_setsr h rfl (writeSr_parked rfl hs (writeFrameSr_tvpc s v x (u.rs a)))
    · exact exec_setsr h rfl (writeSr_parked rfl hs (writeFrameSr_resume s v x (u.rn a)))
    · have hn := isFrameSr_scalar hk
      exact exec_setsr h (srDefined_of_isFrameSr hn) (writeSr_parked hn hs (writeFrameSr_scalar s v x (u.rs a) hk))
  · exact exec_setsr h (srDefined_of_isFrameSr hk) (writeSr_notParked _ hk (State.selectedFrame_none hv))
  · have readOnly : ∀ n ∈ [0x000, 0x001, 0x002, 0x010, 0x011, 0x012, 0x013, 0x014, 0x015, 0x018, 0x020, 0x101, 0x103, 0x104,
        0x108, 0x109, 0x10A, 0x10B, 0x10C, 0x110, 0x120], srDefined n = true ∧ srWritable n = false := by decide
    obtain ⟨hd, hw⟩ := readOnly k hk
    exact exec_setsr h hd (writeSr_readOnly s u _ hw)

/-- Settles O13: TPOP is read by the rule of its list, and TPOP_READ issues that GETSR at a strand that stands. -/
theorem parkListPop : Obligations.ParkListPop := by
  refine ⟨fun g d s t u h => ?_, fun g die d s s1 t ht hsuper hissue hf => ?_⟩
  · have read : exec (.getsr g d 0x110) s = .next ((s.tpop u.at_.die).1.complete (u.setN d (s.tpop u.at_.die).2)) :=
      exec_getsr h rfl
    refine ⟨fun hp => ?_, fun i r hp hc hs => ?_⟩
    · rw [read, State.tpop_nil hp]
    · rw [read, State.tpop_cons hp hc hs]
  · have issue := exec_tpopRead ht hsuper hissue hf
    obtain ⟨v, hv⟩ := s1.strand?_markIssue t (.getsr g d 0x110)
    exact ⟨issue, issue ▸ gated_next hv _⟩

/-- Settles O22: VSETL by the rule of VTYPE and VL, the loop by what it gives at each position and what it leaves alone. -/
theorem elementLoop : Obligations.ElementLoop := by
  refine ⟨fun g d a lg lew imm s t u hlg hlew _ h => ?_, fun u g d w tp mp op _ hd hbits => ?_⟩
  · refine ⟨_, exec_vsetl h, Strand.setS_regs_vtype .., u.vlmax_setVtype _ d _ hlg hlew, ?vl, ?dest, ?others,
      Strand.setS_regs_v .., Strand.setS_regs_p ..⟩
    case vl => rw [u.vlmax_setVtype _ d _ hlg hlew, Strand.vl_setS, u.vl_setVtype _ hlg hlew]
    case dest => exact fun hd h0 => (Strand.rn_setS_same _ _ hd h0).trans (Strand.vl_setS _ d _).symm
    case others => exact fun r hr => Strand.rn_setS_other _ _ hr
  · have frame := u.elementwise_frame g d w tp mp op
    refine ⟨fun i hi => ?_, fun r hr => ?_, fun k hk => u.elementwise_fpflags g d w tp mp op hk, ?_⟩
    · exact (u.elementwise_element g tp mp op hd hbits hi).trans (u.position_mod g tp mp op (field_lt ..))
    · rw [frame]
      exact u.setGroup_other _ hr
    · rw [frame]
      exact ⟨rfl, rfl, rfl, rfl, rfl⟩

end Sys2Proof.Machine
end

section
/-! SUPPORT. MACCV, said once for a handle whose cells are in their region (07 R164), and the block of an INT8 cell as arithmetic
on words (02 R49). -/

namespace Sys2Proof.Machine

/-! ## MACCV (07 R164) -/

theorem Strand.busyHandle_eq_false {t : Strand} {a : Nat} (h : ∀ o ∈ t.ops, o.handle ≠ some a) : t.busyHandle a = false := by
  simpa [Strand.busyHandle] using h

/-- A handle whose cells were not spilled needs no reload. -/
theorem State.ensureLoaded_resident (s : State) {t : Strand} {a : Nat} (h : ∀ p ∈ t.spilled, p.1 ≠ a) :
    s.ensureLoaded t a = .ok (s, t) := by
  have absent : t.spilled.find? (fun p => p.1 == a) = none := List.find?_eq_none.mpr fun p hp => by simpa using h p hp
  rw [State.ensureLoaded, absent]

theorem maccvElem_cell (t : Strand) (cells : List (Nat × Nat)) (w row : Nat) :
    maccvElem t cells w row false =
      fun i => (if i < accCols w then cellGet cells (accBase w + row * accCols w + i) else 0, 0) := by
  funext i
  unfold maccvElem
  split <;> rfl

theorem maccvElem_bf16 (t : Strand) (cells : List (Nat × Nat)) (w row : Nat) :
    maccvElem t cells w row true = fun i => if i < accCols w then
      bf16.round t.rm false (fp32.read (cellGet cells (accBase w + row * accCols w + i))) else (0, 0) := rfl

section
variable {g : Guard} {d a b : Nat} {tp mp bf : Bool} {s : State} {t u : Strand}
  (h : Admits (.maccv g d a b tp mp bf) s t u) (idle : ∀ o ∈ u.ops, o.handle ≠ some a) (valid : accValid (u.racc a) = true)
include h idle valid

/-- A row that the handle does not have is out of bounds. -/
theorem exec_maccv_noRow (row : accRows (u.racc a) ≤ u.rn b) :
    exec (.maccv g d a b tp mp bf) s = .next (s.trap u (bounds 5)) := by
  refine (gated_of_admits h _).trans ?_
  simp [Strand.busyHandle_eq_false idle, valid, row]

/-- INT32 cells have no BF16 form. -/
theorem exec_maccv_int (row : u.rn b < accRows (u.racc a)) (asBf16 : bf = true) (int : accInt (u.racc a) = true) :
    exec (.maccv g d a b tp mp bf) s = .next (s.trap u (bounds 6)) := by
  refine (gated_of_admits h _).trans ?_
  simp [Strand.busyHandle_eq_false idle, valid, Nat.not_le.mpr row, asBf16, int]

/-- A row of cells goes through the element loop. -/
theorem exec_maccv_row (resident : ∀ p ∈ u.spilled, p.1 ≠ a) (row : u.rn b < accRows (u.racc a))
    (format : (bf && accInt (u.racc a)) = false) :
    exec (.maccv g d a b tp mp bf) s = .next (s.complete (u.elementwise g d u.ew tp mp
      (maccvElem u (s.core (coreOf u.at_)).cells (u.racc a) (u.rn b) bf))) := by
  refine (gated_of_admits h _).trans ?_
  simp [Strand.busyHandle_eq_false idle, valid, Nat.not_le.mpr row, format, s.ensureLoaded_resident resident]

end

/-! ## One block of an INT8 cell (02 R49) -/

theorem wrapTo_eq_toNat_ofInt (n : Nat) (x : Int) : wrapTo n x = (BitVec.ofInt n x).toNat := by
  rw [BitVec.toNat_ofInt, wrapTo]

/-- An integer of exponent 0 is read back from its sign and magnitude. -/
theorem FVal.toInteger_signMagnitude (v : Int) : (FVal.fin (decide (v < 0)) v.natAbs 0).toInteger = v := by
  have scaled : v.natAbs * 2 ^ (0 - 0 : Int).toNat = v.natAbs := Nat.mul_one _
  rw [FVal.toInteger, atExp, scaled]
  by_cases neg : v < 0
  · rw [if_pos (decide_eq_true neg)]
    omega
  · rw [if_neg (by rw [decide_eq_false neg]; decide)]
    omega

theorem toInteger_cvtRead_i8 (x : BitVec 8) : (cvtRead .i8 x.toNat).toInteger = x.toInt := by
  rw [← signedOf_toInt (by decide) x]
  exact FVal.toInteger_signMagnitude _

/-- The exact product sum of the elements that two lines of bytes encode. -/
def int8Sum (a b : List (BitVec 8)) : Int := (a.zip b).foldl (fun acc p => acc + p.1.toInt * p.2.toInt) 0

/-- The same sum in 32-bit words. -/
def int8SumWord (a b : List (BitVec 8)) : BitVec 32 :=
  (a.zip b).foldl (fun acc p => acc + p.1.signExtend 32 * p.2.signExtend 32) 0

/-- Wrapping the exact sum gives the sum in words: each product and each addition commutes with the wrap. -/
theorem ofInt_int8Sum (a b : List (BitVec 8)) : BitVec.ofInt 32 (int8Sum a b) = int8SumWord a b := by
  refine (List.foldl_hom (BitVec.ofInt 32) fun acc p => ?_).symm
  rw [BitVec.ofInt_add, BitVec.ofInt_mul]
  rfl

/-- The cell after a block: the exact sum is added, or subtracted by ACN, and wrapped once. -/
theorem intCell_int8 (mode : MmaMode) (c : Nat) (a b : List (BitVec 8)) :
    intCell mode c (a.map fun x => cvtRead .i8 x.toNat) (b.map fun x => cvtRead .i8 x.toNat) =
      wrapTo 32 (if mode = .acn then c - int8Sum a b else c + int8Sum a b) := by
  simp [intCell, int8Sum, List.zip_map, List.foldl_map, toInteger_cvtRead_i8]

theorem intCell_int8_word (mode : MmaMode) (c : BitVec 32) (a b : List (BitVec 8)) :
    intCell mode c.toNat (a.map fun x => cvtRead .i8 x.toNat) (b.map fun x => cvtRead .i8 x.toNat) =
      (if mode = .acn then c - int8SumWord a b else c + int8SumWord a b).toNat := by
  have start : BitVec.ofInt 32 c.toNat = c := by rw [BitVec.ofInt_natCast, BitVec.ofNat_toNat, BitVec.setWidth_eq]
  rw [intCell_int8, wrapTo_eq_toNat_ofInt]
  split
  · rw [Int.sub_eq_add_neg, BitVec.ofInt_add, BitVec.ofInt_neg, start, ofInt_int8Sum, BitVec.sub_eq_add_neg]
  · rw [BitVec.ofInt_add, start, ofInt_int8Sum]

/-- Settles O32: MACCV by the rule of its row, INT8 blocks because wrapping commutes with sums and products. -/
theorem accumulatorReads : Obligations.AccumulatorReads := by
  refine ⟨fun g d a b tp mp s t u h idle valid resident => ⟨fun row => ?_, exec_maccv_noRow h idle valid⟩,
    fun g d a b tp mp s t u h idle valid resident => ⟨fun row float => ?_, fun row int => exec_maccv_int h idle valid row rfl int,
      exec_maccv_noRow h idle valid⟩,
    intCell_int8_word⟩
  · rw [exec_maccv_row h idle valid resident row rfl, maccvElem_cell]
  · rw [exec_maccv_row h idle valid resident row (by rw [float]; rfl), maccvElem_bf16]

end Sys2Proof.Machine
end
